-- ==== Sys2Proof/Word.lean ====
section
/-! DEFINITION. The vocabulary of the MN416 model: the words that travel on its two ports, the index types of its
tables, and the closed sets of names the manual gives (00_scope.md, Terms; R170's enumerations). -/

namespace Sys2Proof

/-- One byte of a frame (R170, R171, R172). -/
abbrev Byte := BitVec 8
/-- A bin tag: 32 bits, 0 meaning no bin. -/
abbrev Tag := BitVec 32
/-- A robot id: 24 bits, 0 meaning none on the wire (R110, R170). -/
abbrev RobotId := BitVec 24
/-- A robot slot, 0–63. -/
abbrev Slot := Fin 64
/-- A relay column, 0–15. -/
abbrev Col := Fin 16
/-- A block of eight consecutive slots (R110). -/
abbrev Block := Fin 8
/-- An index of the handoff table (R21). -/
abbrev RecIdx := Fin 64
/-- A handle's generation, 0–15, wrapping (R22). -/
abbrev Gen := Fin 16

/-- A handle names one record: its index and generation, compared whole (R22). -/
structure Handle where
  idx : RecIdx
  gen : Gen
  deriving DecidableEq, Repr

/-- The class of a bin. -/
inductive StorageClass | ambient | chilled | frozen
  deriving DecidableEq, Repr

/-- The classes a column allows (R2); on the wire, bits 0–2 of one byte (R170). -/
structure ClassSet where
  ambient : Bool
  chilled : Bool
  frozen : Bool
  deriving DecidableEq, Repr

/-- The service state of a column (R2, R5). -/
inductive Service | undefined | opened | draining | suspect | fault | out
  deriving DecidableEq, Repr

/-- The values of a column's prior service state: OPEN or DRAINING (R2). -/
inductive Prior | opened | draining
  deriving DecidableEq, Repr

/-- The state of a live handoff record (R21). -/
inductive RecState | reserved | placing | parked | promised | lifting | stranded
  deriving DecidableEq, Repr

/-- The state a stranded record was stranded from (R21). -/
inductive StrandedFrom | placing | lifting
  deriving DecidableEq, Repr

/-- The five outcomes of a retirement (R35). -/
inductive Retirement | delivered | cancelled | unplaced | carriedOff | missing
  deriving DecidableEq, Repr

/-- The two kinds of work a wait list entry waits for, and that a record's lock is held for (R60). -/
inductive Work | place | lift
  deriving DecidableEq, Repr

/-- What a column's lock is held for: work on a record, named by its handle, or a survey, which names none (R60). -/
inductive Hold
  | work (w : Work) (h : Handle)
  | survey
  deriving DecidableEq, Repr

/-- The host's setting of a slot (R111). -/
inductive SlotMode | off | quiet | on
  deriving DecidableEq, Repr

/-- Whether a robot holds a slot (R112). -/
inductive LinkState | vacant | live | lost
  deriving DecidableEq, Repr

/-- The condition a robot reports (R129). -/
inductive Condition | ready | busy | fault
  deriving DecidableEq, Repr

/-- The two kinds of CALL (R116). -/
inductive CallKind | regular | probe
  deriving DecidableEq, Repr

/-- The block mode (R114). -/
inductive BlockMode
  | sweep
  | paired (a b : Block)
  deriving DecidableEq, Repr

/-- The run state of the link (R125). -/
inductive LinkRun | stopped | running | stopping
  deriving DecidableEq, Repr

/-- The warmth mode (R81, R86). -/
inductive WarmthMode | fixed | highest | guarded
  deriving DecidableEq, Repr

/-- The two load pages (R97). -/
inductive Page | p0 | p1
  deriving DecidableEq, Repr

/-- The states of a load page (R97). -/
inductive PageState | filling | merging | empty
  deriving DecidableEq, Repr

/-- What a load page's row does when it is merged (R97). -/
inductive RowOp | upsert | delete
  deriving DecidableEq, Repr

/-- Why a frame was discarded (R159). -/
inductive FrameKind | under | over
  deriving DecidableEq, Repr

/-- The eleven notice kinds, in bit order (R165). -/
inductive NoticeKind
  | lost | stranded | fault | overdue | spent | buried | unlisted | merged | lateRound | blockEnd | frameError
  deriving DecidableEq, Repr

/-- The status a response opens with (R160's table of status codes). -/
inductive Result
  | none | ok | busy | wrongState | stale | range | full | conflict | notStopped | frame | busyPort | unknownCode
  deriving DecidableEq, Repr

/-- A response of the planner port: a status, then data bytes (R160). -/
structure Response where
  status : Result
  data : List Byte
  deriving DecidableEq, Repr

/-- The verdicts on robot requests with the figures each carries, fixed when the verdict is decided (R133; the table of
section 8.3). -/
inductive Verdict
  | welcome | refusedId | left
  | place (c : Col) (h : Handle)
  | granted (c : Col) (hold : Hold) (lease : Nat)
  | queued (c : Col) (position : Nat)
  | done (level : Option Nat)
  | stillHeld | notHeld | wrongBin
  | claimed (h : Handle) (c : Col) (level depth : Nat)
  | released | matched | recorded | boxFull | held | busy | stale | notYours | late | shut
  | buried (depth : Nat)
  | queueFull | unknown | duplicate
  | oneOnly (h : Handle)
  | full | noRoom | taken | wrongState | badRequest
  deriving DecidableEq, Repr

/-- The standing of a slot (R79). -/
inductive Standing
  | none
  | waiting (c : Col) (position : Nat)
  | holding (c : Col) (h : Option Handle) (lease : Nat)
  | expired (c : Col)
  deriving DecidableEq, Repr

/-- The deadline that means "no deadline" (00_scope.md, Terms). -/
abbrev noDeadline : Nat := 4294967295

/-- The largest value of the age clock, and of a computed deadline (R52, R82, R101). -/
abbrev lastClock : Nat := 4294967294

end Sys2Proof
end

