-- ==== Sys2Proof/Config.lean ====
section
/-! DEFINITION. What an implementation of the MN416 fixes: the sizes the manual gives, and the codes it leaves unstated,
which are free values (no body: nothing can be proved of them). -/

namespace Sys2Proof.Config

/-- Entries a column's wait list holds (R60). -/
abbrev waitPlaces : Nat := 4
/-- Entries the manifest map holds (R95). -/
abbrev mapSize : Nat := 256
/-- Rows of a load page (R97). -/
abbrev pageRows : Nat := 16
/-- Largest payload of a planner frame (R159). -/
abbrev maxPayload : Nat := 40
/-- Tags a SURVEY carries at most (R131). -/
abbrev maxSurvey : Nat := 6
/-- Microseconds in one unit of a lease or of the age period, 100 ms (00_scope.md, Times). -/
abbrev leaseUnit : Nat := 100000
/-- Microseconds in one unit of a round duration (R123). -/
abbrev durationUnit : Nat := 10

/-- Free value: the byte that stands for the link's run state in READ_STATS. R123 lists the item and R170 gives no code
for it (log entry 5). -/
opaque linkRunCode : LinkRun → Byte

/-- Free value: the byte that stands for the age unit's run state in READ_AGE, by whether it is RUNNING. R91 lists the item
and R170 gives no code for it (log entry 5). -/
opaque ageRunCode : Bool → Byte

/-- Free value: the byte that names a load page in the responses of PAGE_WRITE, PAGE_MERGE and MERGE_RESULT. R98, R99 and
R104 list the item and R170 gives no code for it (log entry 5). -/
opaque pageCode : Page → Byte

end Sys2Proof.Config
end

