-- ==== Sys2Proof/Syntax.lean ====
section
/-! DEFINITION. The commands of the MN416: one constructor for each row of spec/opcode_table.json. A host command carries
the bytes of its payload as fields (R170); a robot request carries the status of the answer it stands in (R129) and the
parameters of the request (R131); the rest are events. -/

namespace Sys2Proof

/-- The payload of ZONE_SETUP, field by field in the order of R170. -/
structure ZoneParams where
  wd : Byte
  wh : Byte
  wb : Byte
  wc : Byte
  lossThreshold : Byte
  probeInterval : Byte
  replyWindow : Byte
  lineRate : Byte
  roundPeriod : Byte
  agePeriod : Byte
  placeLimit : Byte
  liftLimit : Byte
  surveyLimit : Byte
  warmthMode : Byte
  fixedBand : Byte
  t1 : Byte
  t2 : Byte
  t3 : Byte
  guardGap : Byte
  defaultClass : Byte
  defaultBudget : BitVec 16
  defaultDueSpan : BitVec 16
  deriving DecidableEq, Repr

/-- The status fields of an answer as sent, before clamping (R129, R172 bytes 2 to 9). -/
structure Status where
  x : Byte
  y : Byte
  temp : Byte
  cond : Byte
  carried : Tag
  deriving DecidableEq, Repr

/-- A request as the line controller reads it from a valid answer (R131, R172); `bad` is one it cannot read. -/
inductive Request
  | join (id : RobotId)
  | leave
  | park (tag : Tag)
  | lock (col : Byte) (h : Option Handle)   -- `none` stands for SURVEY
  | setDown (h : Handle)
  | pickUp (h : Handle)
  | claim (tag : Tag)
  | yield (h : Handle)
  | yieldSurvey
  | survey (col : Byte) (tags : List Tag)
  | bad
  deriving DecidableEq, Repr

/-- The commands: the 63 rows of spec/opcode_table.json, in the table's order. -/
inductive Instr
  -- host commands: each is a well-formed frame of that command ending at the planner port
  | nop (filler : List Byte)
  | zoneSetup (p : ZoneParams)
  | zoneClear
  | columnDefine (col x y capacity classes : Byte)
  | columnService (col state : Byte)
  | readColumn (col : Byte)
  | slotMode (slot mode : Byte)
  | blockMode (mode a b : Byte)
  | blockEndEnable (mask : Byte)
  | readSlot (slot : Byte)
  | clearLost (slot : Byte)
  | linkStart
  | linkStop
  | readStats
  | statsClear
  | ageStart
  | ageStop
  | readAge
  | rebudget (idx gen : Byte) (budget : BitVec 16)
  | pageWrite (row op : Byte) (tag : Tag) (cls : Byte) (dueSpan budget orderRef : BitVec 16) (keep : Byte)
  | pageMerge (count : Byte)
  | mergeResult
  | manifestFind (tag : Tag)
  | manifestCount
  | manifestClear
  | readHandoff (idx gen : Byte)
  | findTag (tag : Tag)
  | freeCount
  | assign (idx gen slot : Byte)
  | unassign (idx gen : Byte)
  | cancel (idx gen : Byte)
  | surveyAsk (col slot : Byte)
  | surveyRead
  | surveyClear
  | restack (col : Byte) (tags : List Tag)
  | notices
  | noticeAck (mask : BitVec 16)
  | noticeEnable (mask : BitVec 16)
  -- planner port and reset events
  | frameEnd (bytes : List Byte) (leftover : Fin 8)   -- the whole bytes received, and how many bits of an incomplete one
  | frameBegunTooSoon
  | commandFinish
  | reset
  | partReady
  -- robot line events
  | roundPeriodDue
  | replyWindowExpiry
  | answerEnd (bytes : List Byte) (badStop : Bool)    -- the bytes received, and whether one had a bad stop bit
  | answerOverlength
  | emptyRoundEnd
  -- robot requests: each is a valid answer that carries it, ending the exchange in progress
  | join (st : Status) (id : RobotId)
  | leave (st : Status)
  | park (st : Status) (tag : Tag)
  | lock (st : Status) (col : Byte) (h : Option Handle)   -- `none` stands for SURVEY
  | setDown (st : Status) (h : Handle)
  | pickUp (st : Status) (h : Handle)
  | claim (st : Status) (tag : Tag)
  | yield (st : Status) (h : Handle)
  | yieldSurvey (st : Status)
  | survey (st : Status) (col : Byte) (tags : List Tag)
  -- timer and merge events
  | leaseExpiry (c : Col)
  | ageEvent
  | mergeStep
  | answerStartBit
  | resetNRise
  deriving DecidableEq, Repr

end Sys2Proof
end

