-- ==== Sys2Proof/WellFormed.lean ====
section
/-! DEFINITION. The commands that the ports can carry: the bounds that the operand types do not already keep. -/

namespace Sys2Proof

/-- A SURVEY that an answer can carry lists at most 6 tags (R131, R172). -/
def Request.wellFormed : Request → Bool
  | .survey _ tags => tags.length ≤ Config.maxSurvey
  | .bad => false
  | _ => true

/-- NOP takes 0–40 filler bytes (R160); RESTACK's payload of 1 + 4k bytes is at most 40, so k is at most 9 (R159, R170);
a SURVEY carries at most 6 tags (R131); an answer that ends by the line going idle has fewer than 40 bytes (R116). -/
def Instr.wellFormed : Instr → Bool
  | .nop filler => filler.length ≤ Config.maxPayload
  | .restack _ tags => 1 + 4 * tags.length ≤ Config.maxPayload
  | .survey _ _ tags => tags.length ≤ Config.maxSurvey
  | .answerEnd bytes _ => bytes.length < 40
  | .zoneSetup _ | .zoneClear | .columnDefine .. | .columnService .. | .readColumn _ | .slotMode .. | .blockMode ..
  | .blockEndEnable _ | .readSlot _ | .clearLost _ | .linkStart | .linkStop | .readStats | .statsClear | .ageStart
  | .ageStop | .readAge | .rebudget .. | .pageWrite .. | .pageMerge _ | .mergeResult | .manifestFind _ | .manifestCount
  | .manifestClear | .readHandoff .. | .findTag _ | .freeCount | .assign .. | .unassign .. | .cancel .. | .surveyAsk ..
  | .surveyRead | .surveyClear | .notices | .noticeAck _ | .noticeEnable _ | .frameEnd .. | .frameBegunTooSoon
  | .commandFinish | .reset | .partReady | .roundPeriodDue | .replyWindowExpiry | .answerOverlength | .emptyRoundEnd
  | .join .. | .leave _ | .park .. | .lock .. | .setDown .. | .pickUp .. | .claim .. | .yield .. | .yieldSurvey _
  | .leaseExpiry _ | .ageEvent | .mergeStep | .answerStartBit | .resetNRise => true

end Sys2Proof
end

