-- ==== Sys2Proof/Decode.lean ====
section
/-! DEFINITION. Reading and writing the frames of the two ports: byte order, the planner frame (R159, R170), the line check
value (R173) and the ANSWER (R117, R131, R172). spec/opcode_table.json gives no bits for any row, so no word spells a
command there. -/

namespace Sys2Proof

/-- The rows of spec/opcode_table.json carry no bits, so a table word spells no command. -/
def decodeTableWord (_nbits _w : Nat) : Option Instr := none

/-! ### Byte order: most significant byte first (chapter 11) -/

/-- Byte `i` of a frame. -/
def byteAt (l : List Byte) (i : Nat) : Byte := l.getD i 0

def word16 (hi lo : Byte) : BitVec 16 := hi ++ lo
def word24 (a b c : Byte) : BitVec 24 := a ++ b ++ c
def word32 (a b c d : Byte) : BitVec 32 := a ++ b ++ c ++ d

def bytes16 (w : BitVec 16) : List Byte := [w.extractLsb' 8 8, w.extractLsb' 0 8]
def bytes24 (w : BitVec 24) : List Byte := [w.extractLsb' 16 8, w.extractLsb' 8 8, w.extractLsb' 0 8]
def bytes32 (w : BitVec 32) : List Byte :=
  [w.extractLsb' 24 8, w.extractLsb' 16 8, w.extractLsb' 8 8, w.extractLsb' 0 8]

/-- The 2-byte and 4-byte fields that begin at byte `i`. -/
def word16At (l : List Byte) (i : Nat) : BitVec 16 := word16 (byteAt l i) (byteAt l (i + 1))
def word32At (l : List Byte) (i : Nat) : BitVec 32 :=
  word32 (byteAt l i) (byteAt l (i + 1)) (byteAt l (i + 2)) (byteAt l (i + 3))

/-- `n` consecutive tags. -/
def tagsAt : Nat → List Byte → List Tag
  | 0, _ => []
  | n + 1, l => word32At l 0 :: tagsAt n (l.drop 4)

/-- A line handle: index × 16 + generation (R171). -/
def lineHandle (h : Handle) : BitVec 16 := BitVec.ofNat 16 (h.idx.val * 16 + h.gen.val)

/-- FFFFh stands for SURVEY or for no handle (R171). -/
def noLineHandle : BitVec 16 := 0xFFFF

/-- The handle a line handle names: 0000h–03FFh (R171). -/
def readLineHandle (w : BitVec 16) : Option Handle :=
  if h : w.toNat / 16 < 64 then some ⟨⟨w.toNat / 16, h⟩, ⟨w.toNat % 16, Nat.mod_lt _ (by decide)⟩⟩ else none

/-! ### The planner frame (R170) -/

/-- The code and the payload of a host command; none for a row that is no host command. -/
def commandPayload : Instr → Option (Byte × List Byte)
  | .nop filler => some (0x00, filler)
  | .zoneSetup p => some (0x01,
      [p.wd, p.wh, p.wb, p.wc, p.lossThreshold, p.probeInterval, p.replyWindow, p.lineRate, p.roundPeriod, p.agePeriod,
        p.placeLimit, p.liftLimit, p.surveyLimit, p.warmthMode, p.fixedBand, p.t1, p.t2, p.t3, p.guardGap, p.defaultClass]
        ++ bytes16 p.defaultBudget ++ bytes16 p.defaultDueSpan)
  | .zoneClear => some (0x02, [])
  | .columnDefine c x y k s => some (0x10, [c, x, y, k, s])
  | .columnService c s => some (0x11, [c, s])
  | .readColumn c => some (0x12, [c])
  | .slotMode k m => some (0x20, [k, m])
  | .blockMode m a b => some (0x21, [m, a, b])
  | .blockEndEnable m => some (0x22, [m])
  | .readSlot k => some (0x23, [k])
  | .clearLost k => some (0x24, [k])
  | .linkStart => some (0x25, [])
  | .linkStop => some (0x26, [])
  | .readStats => some (0x27, [])
  | .statsClear => some (0x28, [])
  | .ageStart => some (0x30, [])
  | .ageStop => some (0x31, [])
  | .readAge => some (0x32, [])
  | .rebudget i g b => some (0x33, [i, g] ++ bytes16 b)
  | .pageWrite r o t c d b n k => some (0x40, [r, o] ++ bytes32 t ++ [c] ++ bytes16 d ++ bytes16 b ++ bytes16 n ++ [k])
  | .pageMerge n => some (0x41, [n])
  | .mergeResult => some (0x42, [])
  | .manifestFind t => some (0x43, bytes32 t)
  | .manifestCount => some (0x44, [])
  | .manifestClear => some (0x45, [])
  | .readHandoff i g => some (0x50, [i, g])
  | .findTag t => some (0x51, bytes32 t)
  | .freeCount => some (0x52, [])
  | .assign i g k => some (0x53, [i, g, k])
  | .unassign i g => some (0x54, [i, g])
  | .cancel i g => some (0x55, [i, g])
  | .surveyAsk c k => some (0x60, [c, k])
  | .surveyRead => some (0x61, [])
  | .surveyClear => some (0x62, [])
  | .restack c tags => some (0x63, c :: tags.flatMap bytes32)
  | .notices => some (0x70, [])
  | .noticeAck m => some (0x71, bytes16 m)
  | .noticeEnable m => some (0x72, bytes16 m)
  | .frameEnd .. | .frameBegunTooSoon | .commandFinish | .reset | .partReady | .roundPeriodDue | .replyWindowExpiry
  | .answerEnd .. | .answerOverlength | .emptyRoundEnd | .join .. | .leave _ | .park .. | .lock .. | .setDown ..
  | .pickUp .. | .claim .. | .yield .. | .yieldSurvey _ | .survey .. | .leaseExpiry _ | .ageEvent | .mergeStep
  | .answerStartBit | .resetNRise => none

/-- The frame of a host command: code, payload length, payload (R170). -/
def encodeFrame (i : Instr) : Option (List Byte) :=
  (commandPayload i).map fun (code, payload) => code :: BitVec.ofNat 8 payload.length :: payload

/-- What the planner port makes of a frame's whole bytes (R159). -/
inductive FrameReading
  | under
  | over
  | unknownCode
  | badLength
  | command (i : Instr)
  deriving DecidableEq, Repr

/-- A command whose payload has the length it calls for, or the answer RANGE. -/
def fixedPayload (n : Nat) (p : List Byte) (i : Instr) : FrameReading :=
  if p.length = n then .command i else .badLength

/-- ZONE_SETUP's payload, in the order of R170. -/
def readZoneParams (p : List Byte) : ZoneParams where
  wd := byteAt p 0
  wh := byteAt p 1
  wb := byteAt p 2
  wc := byteAt p 3
  lossThreshold := byteAt p 4
  probeInterval := byteAt p 5
  replyWindow := byteAt p 6
  lineRate := byteAt p 7
  roundPeriod := byteAt p 8
  agePeriod := byteAt p 9
  placeLimit := byteAt p 10
  liftLimit := byteAt p 11
  surveyLimit := byteAt p 12
  warmthMode := byteAt p 13
  fixedBand := byteAt p 14
  t1 := byteAt p 15
  t2 := byteAt p 16
  t3 := byteAt p 17
  guardGap := byteAt p 18
  defaultClass := byteAt p 19
  defaultBudget := word16At p 20
  defaultDueSpan := word16At p 22

/-- The command of a well-formed frame, by its code (R170). -/
def readCommand (code : Byte) (p : List Byte) : FrameReading :=
  match code.toNat with
  | 0x00 => .command (.nop p)
  | 0x01 => fixedPayload 24 p (.zoneSetup (readZoneParams p))
  | 0x02 => fixedPayload 0 p .zoneClear
  | 0x10 => fixedPayload 5 p (.columnDefine (byteAt p 0) (byteAt p 1) (byteAt p 2) (byteAt p 3) (byteAt p 4))
  | 0x11 => fixedPayload 2 p (.columnService (byteAt p 0) (byteAt p 1))
  | 0x12 => fixedPayload 1 p (.readColumn (byteAt p 0))
  | 0x20 => fixedPayload 2 p (.slotMode (byteAt p 0) (byteAt p 1))
  | 0x21 => fixedPayload 3 p (.blockMode (byteAt p 0) (byteAt p 1) (byteAt p 2))
  | 0x22 => fixedPayload 1 p (.blockEndEnable (byteAt p 0))
  | 0x23 => fixedPayload 1 p (.readSlot (byteAt p 0))
  | 0x24 => fixedPayload 1 p (.clearLost (byteAt p 0))
  | 0x25 => fixedPayload 0 p .linkStart
  | 0x26 => fixedPayload 0 p .linkStop
  | 0x27 => fixedPayload 0 p .readStats
  | 0x28 => fixedPayload 0 p .statsClear
  | 0x30 => fixedPayload 0 p .ageStart
  | 0x31 => fixedPayload 0 p .ageStop
  | 0x32 => fixedPayload 0 p .readAge
  | 0x33 => fixedPayload 4 p (.rebudget (byteAt p 0) (byteAt p 1) (word16At p 2))
  | 0x40 => fixedPayload 14 p
      (.pageWrite (byteAt p 0) (byteAt p 1) (word32At p 2) (byteAt p 6) (word16At p 7) (word16At p 9) (word16At p 11)
        (byteAt p 13))
  | 0x41 => fixedPayload 1 p (.pageMerge (byteAt p 0))
  | 0x42 => fixedPayload 0 p .mergeResult
  | 0x43 => fixedPayload 4 p (.manifestFind (word32At p 0))
  | 0x44 => fixedPayload 0 p .manifestCount
  | 0x45 => fixedPayload 0 p .manifestClear
  | 0x50 => fixedPayload 2 p (.readHandoff (byteAt p 0) (byteAt p 1))
  | 0x51 => fixedPayload 4 p (.findTag (word32At p 0))
  | 0x52 => fixedPayload 0 p .freeCount
  | 0x53 => fixedPayload 3 p (.assign (byteAt p 0) (byteAt p 1) (byteAt p 2))
  | 0x54 => fixedPayload 2 p (.unassign (byteAt p 0) (byteAt p 1))
  | 0x55 => fixedPayload 2 p (.cancel (byteAt p 0) (byteAt p 1))
  | 0x60 => fixedPayload 2 p (.surveyAsk (byteAt p 0) (byteAt p 1))
  | 0x61 => fixedPayload 0 p .surveyRead
  | 0x62 => fixedPayload 0 p .surveyClear
  | 0x63 => if p.length % 4 = 1 then .command (.restack (byteAt p 0) (tagsAt (p.length / 4) (p.drop 1))) else .badLength
  | 0x70 => fixedPayload 0 p .notices
  | 0x71 => fixedPayload 2 p (.noticeAck (word16At p 0))
  | 0x72 => fixedPayload 2 p (.noticeEnable (word16At p 0))
  | _ => .unknownCode

/-- R159: a frame by its whole bytes. A length byte above 40 is over-length "whatever follows", fewer bytes included
(DEDUCED, log entry 6). -/
def readFrame : List Byte → FrameReading
  | code :: n :: p =>
    if Config.maxPayload < n.toNat then .over
    else if p.length < n.toNat then .under
    else if n.toNat < p.length then .over
    else readCommand code p
  | _ => .under

/-! ### The line check value (R173) -/

/-- One shift of the register with the polynomial x⁸ + x² + x + 1. -/
def crcShift (r : Byte) : Byte := if r.msb then (r <<< 1) ^^^ 0x07 else r <<< 1

/-- One byte shifted in, most significant bit first. -/
def crcByte (r b : Byte) : Byte :=
  crcShift (crcShift (crcShift (crcShift (crcShift (crcShift (crcShift (crcShift (r ^^^ b))))))))

/-- The check value of a run of bytes: the register starts at 00h, and there is no final inversion. -/
def crc8 (l : List Byte) : Byte := l.foldl crcByte 0

/-! ### The ANSWER (R172) -/

/-- The request byte and the parameters after it. -/
def requestBytes : Request → List Byte
  | .join id => 0x01 :: bytes24 id
  | .leave => [0x02]
  | .park t => 0x03 :: bytes32 t
  | .lock c h => [0x04, c] ++ bytes16 ((h.map lineHandle).getD noLineHandle)
  | .setDown h => 0x05 :: bytes16 (lineHandle h)
  | .pickUp h => 0x06 :: bytes16 (lineHandle h)
  | .claim t => 0x07 :: bytes32 t
  | .yield h => 0x08 :: bytes16 (lineHandle h)
  | .yieldSurvey => 0x08 :: bytes16 noLineHandle
  | .survey c tags => (BitVec.ofNat 8 (tags.length * 16 + 9)) :: c :: tags.flatMap bytes32
  | .bad => [0x00]

/-- An answer of the slot called, carrying a status and perhaps a request, with its length and check value. -/
def encodeAnswer (k : Slot) (st : Status) (req : Option Request) : List Byte :=
  let tail := [st.x, st.y, st.temp, st.cond] ++ bytes32 st.carried ++ (req.map requestBytes).getD []
  let body := BitVec.ofNat 8 k.val :: BitVec.ofNat 8 (tail.length + 3) :: tail
  body ++ [crc8 body]

/-- What the line controller makes of a received answer (R117). -/
inductive AnswerReading
  | spoiled
  | valid (st : Status) (req : Option Request)
  deriving DecidableEq, Repr

/-- The request with code `code` and upper bits `n` of an answer of length `len` (R131, R172). -/
def readRequest (bytes : List Byte) (len : Nat) : Request :=
  let b := byteAt bytes 10
  let n := b.toNat / 16
  let handle := readLineHandle (word16At bytes 11)
  match b.toNat % 16 with
  | 1 => if n = 0 ∧ len = 15 then .join (word24 (byteAt bytes 11) (byteAt bytes 12) (byteAt bytes 13)) else .bad
  | 2 => if n = 0 ∧ len = 12 then .leave else .bad
  | 3 => if n = 0 ∧ len = 16 then .park (word32At bytes 11) else .bad
  | 4 =>
    if n = 0 ∧ len = 15 then
      if word16At bytes 12 = noLineHandle then .lock (byteAt bytes 11) none
      else match readLineHandle (word16At bytes 12) with
        | some h => .lock (byteAt bytes 11) (some h)
        | none => .bad
    else .bad
  | 5 => if n = 0 ∧ len = 14 then (handle.map Request.setDown).getD .bad else .bad
  | 6 => if n = 0 ∧ len = 14 then (handle.map Request.pickUp).getD .bad else .bad
  | 7 => if n = 0 ∧ len = 16 then .claim (word32At bytes 11) else .bad
  | 8 =>
    if n = 0 ∧ len = 14 then
      if word16At bytes 11 = noLineHandle then .yieldSurvey else (handle.map Request.yield).getD .bad
    else .bad
  | 9 => if n ≤ Config.maxSurvey ∧ len = 13 + 4 * n then .survey (byteAt bytes 11) (tagsAt n (bytes.drop 12)) else .bad
  | _ => .bad

/-- The status fields of an answer (R172). -/
def readStatus (bytes : List Byte) : Status :=
  ⟨byteAt bytes 2, byteAt bytes 3, byteAt bytes 4, byteAt bytes 5, word32At bytes 6⟩

/-- R117: an answer received from the slot called, judged whole. A length of 11 declares an answer without a request. -/
def readAnswer (called : Slot) (bytes : List Byte) (badStop : Bool) : AnswerReading :=
  let len := (byteAt bytes 1).toNat
  if badStop ∨ bytes.length ≠ len ∨ len < 11 ∨ 37 < len ∨ (byteAt bytes 0).toNat ≠ called.val
      ∨ crc8 (bytes.take (len - 1)) ≠ byteAt bytes (len - 1) then .spoiled
  else .valid (readStatus bytes) (if len = 11 then none else some (readRequest bytes len))

/-- The answer that carries a robot request row, if the row is one (R131). -/
def requestOf : Instr → Option (Status × Request)
  | .join st id => some (st, .join id)
  | .leave st => some (st, .leave)
  | .park st t => some (st, .park t)
  | .lock st c h => some (st, .lock c h)
  | .setDown st h => some (st, .setDown h)
  | .pickUp st h => some (st, .pickUp h)
  | .claim st t => some (st, .claim t)
  | .yield st h => some (st, .yield h)
  | .yieldSurvey st => some (st, .yieldSurvey)
  | .survey st c tags => some (st, .survey c tags)
  | .nop _ | .zoneSetup _ | .zoneClear | .columnDefine .. | .columnService .. | .readColumn _ | .slotMode ..
  | .blockMode .. | .blockEndEnable _ | .readSlot _ | .clearLost _ | .linkStart | .linkStop | .readStats | .statsClear
  | .ageStart | .ageStop | .readAge | .rebudget .. | .pageWrite .. | .pageMerge _ | .mergeResult | .manifestFind _
  | .manifestCount | .manifestClear | .readHandoff .. | .findTag _ | .freeCount | .assign .. | .unassign .. | .cancel ..
  | .surveyAsk .. | .surveyRead | .surveyClear | .restack .. | .notices | .noticeAck _ | .noticeEnable _ | .frameEnd ..
  | .frameBegunTooSoon | .commandFinish | .reset | .partReady | .roundPeriodDue | .replyWindowExpiry | .answerEnd ..
  | .answerOverlength | .emptyRoundEnd | .leaseExpiry _ | .ageEvent | .mergeStep | .answerStartBit | .resetNRise => none

end Sys2Proof
end

