-- ==== Sys2Proof/Machine/State.lean ====
section
/-! DEFINITION. The state of the MN416: one structure for each of the ten blocks of 00_scope.md (the table under
"Functional Blocks"), the reset line's phase, the model's own clock and its queue of waiting commands. Plain data. -/

namespace Sys2Proof.Machine

/-- There is no fault: the manual gives every command and every event an effect on every state, a refusal by result or by
verdict included. -/
inductive Fault
  deriving DecidableEq, Repr

/-- Why the model has no meaning for a command. -/
inductive Refusal
  /-- Raised by `exec` alone, for a command that has no meaning yet; safe. No arm of this model answers it. -/
  | notModelled (mnemonic : String)
  deriving DecidableEq, Repr

/-! ### Reset line, planner port and notice unit -/

/-- Where the part stands with respect to RESET_N (R169). -/
inductive Power
  /-- RESET_N is low. -/
  | low
  /-- RESET_N has risen at this model time, and the 200 µs have not ended. -/
  | counting (since : Nat)
  /-- The part takes frames. -/
  | ready
  deriving DecidableEq, Repr

/-- What the port is busy with: a command in progress (R159). -/
inductive InFlight
  /-- A NOP, which leaves the buffer as it was (R160). -/
  | keep
  /-- A command whose response is written into the buffer when it finishes. -/
  | write (r : Response)
  deriving DecidableEq, Repr

/-- How the frame now being clocked is to be treated at its end (R161, R169). -/
inductive FrameMark
  /-- It is judged. -/
  | judged
  /-- It was begun while the port was busy (R161). -/
  | tooSoon
  /-- It was begun before the part was ready (R169; DEDUCED, log entry 11). -/
  | ignored
  deriving DecidableEq, Repr

/-- The planner port (R159 to R161). -/
structure Port where
  buffer : Response
  busy : Option InFlight
  frame : FrameMark
  /-- What MISO carried during the latest frame; empty while it is high-impedance (DESIGN CHOICE, log entry 20). -/
  miso : List Byte
  deriving DecidableEq, Repr

/-- The notice unit (R165) with its output pin. Bit b of the sets is the kind of bit b. -/
structure NoticeUnit where
  pending : BitVec 11
  enabled : BitVec 11
  overdue : Option Handle
  spent : Option Handle
  buried : Option Handle
  unlisted : Option Handle
  blockEnd : Option Block
  frameError : Option FrameKind
  /-- The level of ATTN_N: true is high (R168). -/
  attnN : Bool
  deriving DecidableEq, Repr

/-! ### Line controller -/

/-- A slot record (R110). -/
structure SlotRec where
  mode : SlotMode
  nextMode : SlotMode
  link : LinkState
  robotId : Option RobotId
  miss : Nat
  x : Nat
  y : Nat
  temp : Nat
  cond : Condition
  carried : Tag
  verdict : Option Verdict
  deriving DecidableEq, Repr

/-- The exchange in progress (R116): the slot called, the CALL on the line and when it was begun, and whether a start bit
has opened reception. -/
structure Exchange where
  slot : Slot
  kind : CallKind
  call : List Byte
  startedAt : Nat
  receiving : Bool
  deriving DecidableEq, Repr

/-- Where the rounds stand (R113, R122). -/
inductive LinePhase
  /-- No round is in progress. -/
  | idle
  /-- A round is in progress, with this exchange. -/
  | calling (x : Exchange)
  /-- A round in which no CALL is sent is in progress (R122). -/
  | emptyRound
  /-- The round before has ended, and the next is due later (R122). -/
  | waiting
  deriving DecidableEq, Repr

/-- The line controller (R110 to R126). -/
structure Line where
  slots : Vector SlotRec 64
  run : LinkRun
  phase : LinePhase
  /-- The number of the round in progress, or of the last round begun (R123). -/
  roundNo : Option Nat
  /-- The probe mark of that round (R113). -/
  probe : Bool
  /-- The model time at which that round began. -/
  roundStart : Nat
  /-- The model time at which its successor came due while it was in progress (R122). -/
  dueAt : Option Nat
  blockMode : BlockMode
  nextBlockMode : BlockMode
  /-- Bit b is the block-end enable of block b (R124). -/
  blockEndEnable : BitVec 8
  lastDuration : Nat
  minDuration : Nat
  maxDuration : Nat
  lossThreshold : Nat
  probeInterval : Nat
  replyWindow : Nat
  /-- The code 0–3 for 0.5, 1, 2, 4 Mbit/s (R126). -/
  lineRate : Nat
  roundPeriod : Nat
  /-- The model time at which a reply window last ran out, until the late start bit of its answer has been taken (R116;
  DEDUCED, log entry 24). -/
  lastExpiry : Option Nat
  deriving DecidableEq, Repr

/-! ### Column table and handoff table -/

/-- A column record (R2). -/
structure Column where
  x : Nat
  y : Nat
  capacity : Nat
  allowed : ClassSet
  service : Service
  prior : Prior
  /-- Bottom first (R11). -/
  stack : List Handle
  stranded : Option Handle
  strandingId : Option RobotId
  deriving DecidableEq, Repr

/-- The fields of a live record (R21); its handle is its index with the entry's generation. -/
structure Record where
  state : RecState
  tag : Tag
  cls : StorageClass
  deadline : Nat
  budget : Nat
  overdue : Bool
  spent : Bool
  unlisted : Bool
  buried : Bool
  found : Bool
  releaser : Option Slot
  collector : Option Slot
  column : Col
  level : Option Nat
  orderRef : Nat
  strandedFrom : Option StrandedFrom
  deriving DecidableEq, Repr

/-- A last outcome entry (R34). -/
structure LastOutcome where
  handle : Handle
  outcome : Retirement
  tag : Tag
  column : Col
  deriving DecidableEq, Repr

/-- One index of the handoff table (R21, R22, R34). -/
structure Entry where
  gen : Gen
  live : Option Record
  last : Option LastOutcome
  deriving DecidableEq, Repr

/-- The handoff table (R21 to R24). -/
structure Handoff where
  entries : Vector Entry 64
  freeCount : Nat
  /-- The live indices in the order in which their records were made, oldest first (R157; as a list: DESIGN CHOICE, log
  entry 16). -/
  order : List RecIdx
  deriving DecidableEq, Repr

/-- The placement unit's own state and the zone defaults (R52, R57). -/
structure Placement where
  wd : Nat
  wh : Nat
  wb : Nat
  wc : Nat
  defaultClass : StorageClass
  defaultBudget : Nat
  defaultDueSpan : Nat
  deriving DecidableEq, Repr

/-! ### Lock unit -/

/-- A held lock (R60). The lease remaining is its limit less the whole 100 ms intervals since its grant (R73), worked out
from these two when it is read (DESIGN CHOICE, log entry 12). -/
structure Lock where
  holder : Slot
  hold : Hold
  limit : Nat
  grantedAt : Nat
  deriving DecidableEq, Repr

/-- A wait list entry (R60). -/
structure WaitEntry where
  slot : Slot
  work : Work
  handle : Handle
  deriving DecidableEq, Repr

/-- The lock unit (R60, R73). -/
structure LockUnit where
  locks : Vector (Option Lock) 16
  /-- Front first. -/
  waits : Vector (List WaitEntry) 16
  /-- The expired mark of each slot: the column of the lock that ended. -/
  marks : Vector (Option Col) 64
  placeLimit : Nat
  liftLimit : Nat
  surveyLimit : Nat
  deriving DecidableEq, Repr

/-! ### Age unit -/

/-- The run state of the age unit, with the model time at which the running period began (R81). -/
inductive AgeRun
  | stopped
  | running (since : Nat)
  deriving DecidableEq, Repr

/-- The age unit (R81). -/
structure Age where
  run : AgeRun
  clock : Nat
  period : Nat
  mode : WarmthMode
  fixedBand : Nat
  t1 : Nat
  t2 : Nat
  t3 : Nat
  guardGap : Nat
  band : Nat
  aggregate : Option Nat
  readings : Nat
  deriving DecidableEq, Repr

/-! ### Manifest -/

/-- An entry of the manifest map (R95). -/
structure BinFacts where
  tag : Tag
  cls : StorageClass
  deadline : Nat
  budget : Nat
  orderRef : Nat
  keep : Bool
  deriving DecidableEq, Repr

/-- A row of a load page (R97). -/
structure Row where
  op : RowOp
  tag : Tag
  cls : StorageClass
  dueSpan : Nat
  budget : Nat
  orderRef : Nat
  keep : Bool
  deriving DecidableEq, Repr

/-- A load page (R97). -/
structure LoadPage where
  state : PageState
  rows : Vector Row 16
  deriving DecidableEq, Repr

/-- The five counts of a merge (R100). -/
structure Tally where
  inserted : Nat
  replaced : Nat
  deleted : Nat
  absent : Nat
  refused : Nat
  deriving DecidableEq, Repr

/-- A merge in flight (R100, R104). -/
structure Merge where
  page : Page
  count : Nat
  taken : Nat
  tally : Tally
  deriving DecidableEq, Repr

/-- A merge result (R103). -/
structure MergeReport where
  page : Page
  count : Nat
  tally : Tally
  deriving DecidableEq, Repr

/-- The manifest (R95 to R104). The map is held with its tags strictly rising, so that equal maps are equal lists
(DESIGN CHOICE, log entry 15). -/
structure Manifest where
  map : List BinFacts
  p0 : LoadPage
  p1 : LoadPage
  merge : Option Merge
  report : MergeReport
  deriving DecidableEq, Repr

/-! ### Survey unit -/

/-- The entry of the survey box (R149). -/
structure BoxEntry where
  column : Col
  surveyor : Slot
  tags : List Tag
  deriving DecidableEq, Repr

/-- The survey unit (R149). -/
structure SurveyUnit where
  surveyors : Vector (Option Slot) 16
  box : Option BoxEntry
  deriving DecidableEq, Repr

/-! ### The part -/

/-- The whole state: the queue of commands that wait (the model's own), the model's clock in microseconds, the reset
line's phase, and the ten blocks. -/
structure State where
  pending : List Instr
  now : Nat
  power : Power
  port : Port
  notice : NoticeUnit
  line : Line
  columns : Vector Column 16
  handoff : Handoff
  placement : Placement
  lock : LockUnit
  age : Age
  manifest : Manifest
  survey : SurveyUnit
  deriving DecidableEq, Repr

/-! ### Power-on values -/

/-- The planner port after reset (R160, R169). -/
def Port.reset : Port := ⟨⟨.none, []⟩, none, .judged, []⟩

/-- The notice unit after reset (R165, R168). -/
def NoticeUnit.reset : NoticeUnit := ⟨0, 0, none, none, none, none, none, none, true⟩

/-- A slot record after reset (R110). -/
def SlotRec.reset : SlotRec := ⟨.off, .off, .vacant, none, 0, 0, 0, 63, .ready, 0, none⟩

/-- The line controller after reset (R110, R114, R123 to R126). -/
def Line.reset : Line where
  slots := Vector.replicate 64 SlotRec.reset
  run := .stopped
  phase := .idle
  roundNo := none
  probe := false
  roundStart := 0
  dueAt := none
  blockMode := .sweep
  nextBlockMode := .sweep
  blockEndEnable := 0
  lastDuration := 0
  minDuration := 65535
  maxDuration := 0
  lossThreshold := 4
  probeInterval := 8
  replyWindow := 30
  lineRate := 1
  roundPeriod := 0
  lastExpiry := none

/-- A column after reset (R2). -/
def Column.reset : Column := ⟨0, 0, 0, ⟨false, false, false⟩, .undefined, .opened, [], none, none⟩

/-- The handoff table after reset (R44). -/
def Handoff.reset : Handoff := ⟨Vector.replicate 64 ⟨0, none, none⟩, 64, []⟩

/-- The placement unit after reset (R52, R57). -/
def Placement.reset : Placement := ⟨4, 2, 1, 32, .chilled, 1200, 2400⟩

/-- The lock unit after reset (R60, R73). -/
def LockUnit.reset : LockUnit :=
  ⟨Vector.replicate 16 none, Vector.replicate 16 [], Vector.replicate 64 none, 60, 60, 200⟩

/-- The age unit after reset (R81). -/
def Age.reset : Age := ⟨.stopped, 0, 5, .fixed, 1, 8, 16, 24, 6, 1, none, 0⟩

/-- A cleared row (R97). -/
def Row.cleared : Row := ⟨.upsert, 0, .ambient, 0, 0, 0, false⟩

/-- A tally of nothing. -/
def Tally.zero : Tally := ⟨0, 0, 0, 0, 0⟩

/-- The manifest after reset (R95, R97, R103); the rows of the EMPTY page are cleared too (DESIGN CHOICE, log entry
17). -/
def Manifest.reset : Manifest :=
  ⟨[], ⟨.filling, Vector.replicate 16 Row.cleared⟩, ⟨.empty, Vector.replicate 16 Row.cleared⟩, none,
    ⟨.p0, 0, Tally.zero⟩⟩

/-- The survey unit after reset (R149). -/
def SurveyUnit.reset : SurveyUnit := ⟨Vector.replicate 16 none, none⟩

/-- The part right after a reset: RESET_N low, every block at its power-on values (R169), and no command waiting. The fields
that are the model's own stand at the values of log entry 22 (DESIGN CHOICE). -/
def State.reset : State where
  pending := []
  now := 0
  power := .low
  port := .reset
  notice := .reset
  line := .reset
  columns := Vector.replicate 16 Column.reset
  handoff := .reset
  placement := .reset
  lock := .reset
  age := .reset
  manifest := .reset
  survey := .reset

end Sys2Proof.Machine
end

