-- ==== Sys2Proof/Machine/Ops.lean ====
section
/-! DEFINITION. The named operations over the state: one setter for each block, reading and writing one row of a table,
and the model's clock. -/

namespace Sys2Proof.Machine

/-! ### One setter for each block -/

def State.setPower (p : Power) (s : State) : State := { s with power := p }
def State.setPort (p : Port) (s : State) : State := { s with port := p }
def State.setNotice (n : NoticeUnit) (s : State) : State := { s with notice := n }
def State.setLine (l : Line) (s : State) : State := { s with line := l }
def State.setColumns (c : Vector Column 16) (s : State) : State := { s with columns := c }
def State.setHandoff (h : Handoff) (s : State) : State := { s with handoff := h }
def State.setPlacement (p : Placement) (s : State) : State := { s with placement := p }
def State.setLock (l : LockUnit) (s : State) : State := { s with lock := l }
def State.setAge (a : Age) (s : State) : State := { s with age := a }
def State.setManifest (m : Manifest) (s : State) : State := { s with manifest := m }
def State.setSurvey (u : SurveyUnit) (s : State) : State := { s with survey := u }
def State.setPending (q : List Instr) (s : State) : State := { s with pending := q }

/-- What happens when no command waits: one microsecond passes (DESIGN CHOICE, log entry 1). -/
def State.tick (s : State) : State := { s with now := s.now + 1 }

/-! ### Rows of the tables -/

def allSlots : List Slot := List.finRange 64
def allCols : List Col := List.finRange 16
def allRecs : List RecIdx := List.finRange 64
def allBlocks : List Block := List.finRange 8

def State.slot (s : State) (k : Slot) : SlotRec := s.line.slots[k]
def State.setSlot (k : Slot) (r : SlotRec) (s : State) : State :=
  s.setLine { s.line with slots := s.line.slots.set k r }

def State.col (s : State) (c : Col) : Column := s.columns[c]
def State.setCol (c : Col) (r : Column) (s : State) : State := s.setColumns (s.columns.set c r)

def State.entry (s : State) (i : RecIdx) : Entry := s.handoff.entries[i]
def State.setEntry (i : RecIdx) (e : Entry) (s : State) : State :=
  s.setHandoff { s.handoff with entries := s.handoff.entries.set i e }

def State.lockOf (s : State) (c : Col) : Option Lock := s.lock.locks[c]
def State.setLockOf (c : Col) (l : Option Lock) (s : State) : State :=
  s.setLock { s.lock with locks := s.lock.locks.set c l }

def State.waitsOf (s : State) (c : Col) : List WaitEntry := s.lock.waits[c]
def State.setWaitsOf (c : Col) (l : List WaitEntry) (s : State) : State :=
  s.setLock { s.lock with waits := s.lock.waits.set c l }

/-- The expired mark of a slot (R78). -/
def State.mark (s : State) (k : Slot) : Option Col := s.lock.marks[k]
def State.setMark (k : Slot) (m : Option Col) (s : State) : State :=
  s.setLock { s.lock with marks := s.lock.marks.set k m }

/-- The designated surveyor of a column (R149). -/
def State.surveyor (s : State) (c : Col) : Option Slot := s.survey.surveyors[c]
def State.setSurveyor (c : Col) (k : Option Slot) (s : State) : State :=
  s.setSurvey { s.survey with surveyors := s.survey.surveyors.set c k }

/-! ### Records -/

/-- The live record at an index. -/
def State.live (s : State) (i : RecIdx) : Option Record := (s.entry i).live

/-- Writes the live record of an index, leaving its generation and its last outcome entry. -/
def State.setRec (i : RecIdx) (r : Record) (s : State) : State := s.setEntry i { s.entry i with live := some r }

/-- R22: the record a handle names; none for a stale handle. -/
def State.named (s : State) (h : Handle) : Option Record :=
  if (s.entry h.idx).gen = h.gen then s.live h.idx else none

/-- The handle of the record at an index. -/
def State.handleAt (s : State) (i : RecIdx) : Handle := ⟨i, (s.entry i).gen⟩

/-- The live record carrying a tag, with its index; none for a tag of 0 (R25, R38). -/
def State.tagged (s : State) (t : Tag) : Option (RecIdx × Record) :=
  if t = 0 then none
  else allRecs.findSome? fun i => match s.live i with
    | some r => if r.tag = t then some (i, r) else none
    | none => none

/-- The indices whose live record meets a test, in rising order. -/
def State.recordsWhere (s : State) (p : Record → Bool) : List RecIdx :=
  allRecs.filter fun i => (s.live i).any p

/-- A record that counts in its column's load as a reservation (R14, R26). -/
def Record.reserves (r : Record) : Bool := r.state = .reserved || r.state = .placing

/-- A slot is releaser of this RESERVED or PLACING record (R33). -/
def Record.reservedBy (r : Record) (k : Slot) : Bool := r.reserves && r.releaser = some k

/-! ### Derived figures of a column (R13, R14) -/

/-- R14: the number of live records in RESERVED or PLACING that name the column. -/
def State.reservations (s : State) (c : Col) : Nat :=
  (s.recordsWhere fun r => r.reserves && r.column = c).length

/-- R14: the column's stranded record was stranded from PLACING. -/
def State.strandedPlacement (s : State) (c : Col) : Bool :=
  ((s.col c).stranded.bind s.named).any fun r => r.strandedFrom = some .placing

/-- R14: the load. -/
def State.load (s : State) (c : Col) : Nat :=
  (s.col c).stack.length + s.reservations c + (if s.strandedPlacement c then 1 else 0)

/-- R13: the depth of a record in a stack; none for a record with no level. -/
def State.depth (s : State) (r : Record) : Option Nat :=
  r.level.map fun l => (s.col r.column).stack.length - 1 - l

/-- The handle at the top of a column's stack (R11). -/
def State.top (s : State) (c : Col) : Option Handle := (s.col c).stack.getLast?

/-- The tags of a column's stack, bottom first. -/
def State.stackTags (s : State) (c : Col) : List Tag :=
  (s.col c).stack.filterMap fun h => (s.named h).map (·.tag)

/-! ### Lock unit: where a slot stands (R60) -/

/-- The column whose lock a slot holds. -/
def State.holding (s : State) (k : Slot) : Option (Col × Lock) :=
  allCols.findSome? fun c => match s.lockOf c with
    | some l => if l.holder = k then some (c, l) else none
    | none => none

/-- The wait place of a slot: column, position from 1 at the front, entry. -/
def State.waiting (s : State) (k : Slot) : Option (Col × Nat × WaitEntry) :=
  allCols.findSome? fun c =>
    ((s.waitsOf c).zipIdx.find? fun p => p.1.slot = k).map fun p => (c, p.2 + 1, p.1)

/-- R72: the wait place of a slot is removed, and the entries behind it move forward. -/
def State.dropWaiter (k : Slot) (s : State) : State :=
  s.setLock { s.lock with waits := s.lock.waits.map fun l => l.filter fun e => e.slot ≠ k }

/-- R34, R72: the wait place held in a column for a record is removed. -/
def State.dropWaitFor (c : Col) (h : Handle) (s : State) : State :=
  s.setWaitsOf c ((s.waitsOf c).filter fun e => e.handle ≠ h)

/-- Whether the lock unit holds a slot of a block as holder or waiter (R114). -/
def State.kept (s : State) (b : Block) : Bool :=
  allCols.any fun c =>
    (s.lockOf c).any (fun l => l.holder.val / 8 = b.val) || (s.waitsOf c).any fun e => e.slot.val / 8 = b.val

/-- R73: the limit less the whole 100 ms intervals elapsed since the grant; at least 1 while the lock is held. -/
def Lock.remaining (l : Lock) (now : Nat) : Nat := max 1 (l.limit - (now - l.grantedAt) / Config.leaseUnit)

/-- R81, R91: the period remaining, counted down in whole 100 ms intervals; none when STOPPED. -/
def Age.remaining (a : Age) (now : Nat) : Option Nat :=
  match a.run with
  | .stopped => none
  | .running since => some (max 1 (a.period - (now - since) / Config.leaseUnit))

/-! ### Slots -/

/-- The slot is LIVE (R112). -/
def State.isLive (s : State) (k : Slot) : Bool := (s.slot k).link = .live

/-- R148: the robot of a slot is LIVE under the column's stranding robot id. -/
def State.concernedLive (s : State) (c : Col) (k : Option Slot) : Bool :=
  k.any fun k => s.isLive k && (s.slot k).robotId.isSome && (s.slot k).robotId = (s.col c).strandingId

end Sys2Proof.Machine
end

