-- ==== Sys2Proof/Machine/Operands.lean ====
section
/-! DEFINITION. The operands of host commands, checked against their ranges (00_scope.md, "Out-of-range values"), and the
encoding of response fields, enumerations, CALL standing and verdict data (R170, R171). -/

namespace Sys2Proof

/-! ### Operands read from payload bytes -/

/-- A column number, 0–15. -/
def readCol (b : Byte) : Option Col := if h : b.toNat < 16 then some ⟨b.toNat, h⟩ else none

/-- A slot number, 0–63. -/
def readSlotNo (b : Byte) : Option Slot := if h : b.toNat < 64 then some ⟨b.toNat, h⟩ else none

/-- A block number, 0–7. -/
def readBlockNo (b : Byte) : Option Block := if h : b.toNat < 8 then some ⟨b.toNat, h⟩ else none

/-- A page row number, 0–15. -/
def readRowNo (b : Byte) : Option (Fin 16) := if h : b.toNat < 16 then some ⟨b.toNat, h⟩ else none

/-- R22: a handle given by the host; none for an index above 63 or a generation above 15. -/
def readHandle (idx gen : Byte) : Option Handle :=
  if h : idx.toNat < 64 ∧ gen.toNat < 16 then some ⟨⟨idx.toNat, h.1⟩, ⟨gen.toNat, h.2⟩⟩ else none

/-- A class code (R170). -/
def readClass (b : Byte) : Option StorageClass :=
  match b.toNat with
  | 0 => some .ambient
  | 1 => some .chilled
  | 2 => some .frozen
  | _ => none

/-- R4: the allowed-class byte: bits 0–2, not all clear, with bits 3–7 clear. -/
def readClassSet (b : Byte) : Option ClassSet :=
  if 0 < b.toNat ∧ b.toNat < 8 then some ⟨b.getLsbD 0, b.getLsbD 1, b.getLsbD 2⟩ else none

/-- R7: the states COLUMN_SERVICE may ask for. -/
def readAskedService (b : Byte) : Option Service :=
  match b.toNat with
  | 1 => some .opened
  | 2 => some .draining
  | 5 => some .out
  | _ => none

/-- R111: a slot mode code. -/
def readSlotMode (b : Byte) : Option SlotMode :=
  match b.toNat with
  | 0 => some .off
  | 1 => some .quiet
  | 2 => some .on
  | _ => none

/-- R98: a row op code. -/
def readRowOp (b : Byte) : Option RowOp :=
  match b.toNat with
  | 0 => some .upsert
  | 1 => some .delete
  | _ => none

/-- R129: a condition code as taken: READY, BUSY, or FAULT for any other code. -/
def readCondition (b : Byte) : Condition :=
  match b.toNat with
  | 0 => .ready
  | 1 => .busy
  | _ => .fault

/-! ### Membership -/

/-- The class is one the column allows (R53). -/
def ClassSet.has (s : ClassSet) : StorageClass → Bool
  | .ambient => s.ambient
  | .chilled => s.chilled
  | .frozen => s.frozen

/-- A stored prior service state as a service state. -/
def Prior.toService : Prior → Service
  | .opened => .opened
  | .draining => .draining

/-- The state a lock's work is stranded from. -/
def Work.strandedFrom : Work → StrandedFrom
  | .place => .placing
  | .lift => .lifting

/-- The handle of a hold; absent for SURVEY (R60). -/
def Hold.handle : Hold → Option Handle
  | .work _ h => some h
  | .survey => none

/-! ### Field widths (R170) -/

def u8 (n : Nat) : List Byte := [BitVec.ofNat 8 n]
def u16 (n : Nat) : List Byte := bytes16 (BitVec.ofNat 16 n)
def u32 (n : Nat) : List Byte := bytes32 (BitVec.ofNat 32 n)

/-- A one-byte field with FFh for none. -/
def optByte (o : Option Nat) : List Byte := u8 (o.getD 0xFF)

/-- A handle in a planner response: index, then generation. -/
def handleBytes (h : Handle) : List Byte := [BitVec.ofNat 8 h.idx.val, BitVec.ofNat 8 h.gen.val]

/-- A handle field, with FFh FFh for none. -/
def optHandleBytes (o : Option Handle) : List Byte := (o.map handleBytes).getD [0xFF, 0xFF]

/-- A list field: a count byte, then the entries. -/
def listBytes {α : Type} (f : α → List Byte) (l : List α) : List Byte := u8 l.length ++ l.flatMap f

/-- A field preceded by a presence byte (R170; nothing follows 00h: DEDUCED, log entry 7). -/
def presenceBytes (o : Option (List Byte)) : List Byte := match o with
  | some l => 0x01 :: l
  | none => [0x00]

/-! ### Enumeration codes (R170, R171) -/

def Result.code : Result → Byte
  | .none => 0x00
  | .ok => 0x01
  | .busy => 0x02
  | .wrongState => 0x03
  | .stale => 0x04
  | .range => 0x05
  | .full => 0x06
  | .conflict => 0x07
  | .notStopped => 0x08
  | .frame => 0x09
  | .busyPort => 0x0A
  | .unknownCode => 0x0B

/-- The bytes of a response (R160). -/
def Response.bytes (r : Response) : List Byte := Result.code r.status :: r.data

def StorageClass.code : StorageClass → Nat
  | .ambient => 0
  | .chilled => 1
  | .frozen => 2

def ClassSet.code (s : ClassSet) : Nat :=
  s.ambient.toNat + 2 * s.chilled.toNat + 4 * s.frozen.toNat

def Service.code : Service → Nat
  | .undefined => 0
  | .opened => 1
  | .draining => 2
  | .suspect => 3
  | .fault => 4
  | .out => 5

def RecState.code : RecState → Nat
  | .reserved => 0
  | .placing => 1
  | .parked => 2
  | .promised => 3
  | .lifting => 4
  | .stranded => 5

def Retirement.code : Retirement → Nat
  | .delivered => 0
  | .cancelled => 1
  | .unplaced => 2
  | .carriedOff => 3
  | .missing => 4

def Work.code : Work → Nat
  | .place => 0
  | .lift => 1

def Hold.code : Hold → Nat
  | .work w _ => w.code
  | .survey => 2

def StrandedFrom.code : StrandedFrom → Nat
  | .placing => 0
  | .lifting => 1

def SlotMode.code : SlotMode → Nat
  | .off => 0
  | .quiet => 1
  | .on => 2

def LinkState.code : LinkState → Nat
  | .vacant => 0
  | .live => 1
  | .lost => 2

def Condition.code : Condition → Nat
  | .ready => 0
  | .busy => 1
  | .fault => 2

def PageState.code : PageState → Nat
  | .filling => 0
  | .merging => 1
  | .empty => 2

def FrameKind.code : FrameKind → Nat
  | .under => 0
  | .over => 1

def WarmthMode.code : WarmthMode → Nat
  | .fixed => 0
  | .highest => 1
  | .guarded => 2

def CallKind.code : CallKind → Byte
  | .regular => 0x00
  | .probe => 0x01

/-- The block mode as code, A and B, with FFh for the blocks of SWEEP (R123, R170; the absent blocks: DEDUCED, log
entry 7). -/
def BlockMode.bytes : BlockMode → List Byte
  | .sweep => [0x00, 0xFF, 0xFF]
  | .paired a b => [0x01] ++ u8 a.val ++ u8 b.val

/-! ### Verdict and standing on the line (R171) -/

/-- A line handle as two bytes, FFFFh for none. -/
def optLineHandleBytes (o : Option Handle) : List Byte := bytes16 ((o.map lineHandle).getD noLineHandle)

/-- A verdict's code and data. -/
def Verdict.code : Verdict → Byte × List Byte
  | .welcome => (0x01, [])
  | .refusedId => (0x02, [])
  | .left => (0x03, [])
  | .place c h => (0x04, u8 c.val ++ bytes16 (lineHandle h))
  | .granted c hold lease => (0x05, u8 c.val ++ u8 hold.code ++ optLineHandleBytes hold.handle ++ u8 lease)
  | .queued c p => (0x06, u8 c.val ++ u8 p)
  | .done level => (0x07, optByte level)
  | .stillHeld => (0x08, [])
  | .notHeld => (0x09, [])
  | .wrongBin => (0x0A, [])
  | .claimed h c level depth => (0x0B, bytes16 (lineHandle h) ++ u8 c.val ++ u8 level ++ u8 depth)
  | .released => (0x0C, [])
  | .matched => (0x0D, [])
  | .recorded => (0x0E, [])
  | .boxFull => (0x0F, [])
  | .held => (0x10, [])
  | .busy => (0x11, [])
  | .stale => (0x12, [])
  | .notYours => (0x13, [])
  | .late => (0x14, [])
  | .shut => (0x15, [])
  | .buried d => (0x16, u8 d)
  | .queueFull => (0x17, [])
  | .unknown => (0x18, [])
  | .duplicate => (0x19, [])
  | .oneOnly h => (0x1A, bytes16 (lineHandle h))
  | .full => (0x1B, [])
  | .noRoom => (0x1C, [])
  | .taken => (0x1D, [])
  | .wrongState => (0x1E, [])
  | .badRequest => (0x1F, [])

/-- Bytes 7–13 of a CALL: the verdict code and its data, left-aligned; zeros for no verdict. -/
def verdictBytes (o : Option Verdict) : List Byte :=
  let (code, data) := (o.map Verdict.code).getD (0x00, [])
  (code :: data ++ List.replicate 6 0x00).take 7

/-- Bytes 2–6 of a CALL, with the handle written by `f`: standing kind, column, handle, position or lease. -/
def standingBytes (f : Option Handle → List Byte) : Standing → List Byte
  | .none => [0x00, 0xFF] ++ f none ++ [0x00]
  | .waiting c p => [0x01] ++ u8 c.val ++ f none ++ u8 p
  | .holding c h lease => [0x02] ++ u8 c.val ++ f h ++ u8 lease
  | .expired c => [0x03] ++ u8 c.val ++ f none ++ [0x00]

/-- R171: a CALL of 15 bytes, closed by its check value. -/
def callFrame (k : Slot) (kind : CallKind) (st : Standing) (v : Option Verdict) : List Byte :=
  let body := u8 k.val ++ [kind.code] ++ standingBytes optLineHandleBytes st ++ verdictBytes v
  body ++ [crc8 body]

/-! ### Sorting of requests (R131, R132) -/

/-- R132 test 2: the requests that a waiter's slot is answered BUSY for. -/
def Request.busyForWaiter : Request → Bool
  | .park _ | .setDown _ | .pickUp _ | .claim _ | .survey .. => true
  | .join _ | .leave | .lock .. | .yield _ | .yieldSurvey | .bad => false

/-- A request that the line controller cannot read, a SURVEY of more than 6 tags included (R131). -/
def Request.unreadable : Request → Bool
  | .bad => true
  | .survey _ tags => Config.maxSurvey < tags.length
  | .join _ | .leave | .park _ | .lock .. | .setDown _ | .pickUp _ | .claim _ | .yield _ | .yieldSurvey => false

/-- The request is a JOIN, which passes both tests of R132. -/
def Request.isJoin : Request → Bool
  | .join _ => true
  | .leave | .park _ | .lock .. | .setDown _ | .pickUp _ | .claim _ | .yield _ | .yieldSurvey | .survey .. | .bad => false

end Sys2Proof
end

