-- ==== Sys2Proof/Machine/Flags.lean ====
section
/-! DEFINITION. Flags: the notice kinds with their subjects and ATTN_N (R165 to R168), and the buried flag of a record
(R16, R17). -/

namespace Sys2Proof

/-! ### Notices -/

/-- The bit of a notice kind (R165). -/
def NoticeKind.bit : NoticeKind → Nat
  | .lost => 0
  | .stranded => 1
  | .fault => 2
  | .overdue => 3
  | .spent => 4
  | .buried => 5
  | .unlisted => 6
  | .merged => 7
  | .lateRound => 8
  | .blockEnd => 9
  | .frameError => 10

def NoticeKind.mask (k : NoticeKind) : BitVec 11 := BitVec.twoPow 11 k.bit

namespace Machine

/-- The kind is pending. -/
def NoticeUnit.isPending (n : NoticeUnit) (k : NoticeKind) : Bool := n.pending.getLsbD k.bit

/-- R168: ATTN_N is low while a kind is both pending and enabled, and high otherwise. -/
def NoticeUnit.drive (n : NoticeUnit) : NoticeUnit := { n with attnN := decide (n.pending &&& n.enabled = 0) }

/-- R165: raising a kind sets its pending flag, enabled or not. -/
def NoticeUnit.raised (k : NoticeKind) (n : NoticeUnit) : NoticeUnit := { n with pending := n.pending ||| k.mask }.drive

/-- R165: a first-raised subject is latched when none is held. -/
def latch {α : Type} (held : Option α) (new : α) : Option α := some (held.getD new)

/-- Raises a kind that latches no subject: LOST, STRANDED, FAULT, MERGED, LATE_ROUND. -/
def raise (k : NoticeKind) (s : State) : State := s.setNotice (s.notice.raised k)

def raiseOverdue (h : Handle) (s : State) : State :=
  s.setNotice ({ s.notice with overdue := latch s.notice.overdue h }.raised .overdue)

def raiseSpent (h : Handle) (s : State) : State :=
  s.setNotice ({ s.notice with spent := latch s.notice.spent h }.raised .spent)

def raiseBuried (h : Handle) (s : State) : State :=
  s.setNotice ({ s.notice with buried := latch s.notice.buried h }.raised .buried)

def raiseUnlisted (h : Handle) (s : State) : State :=
  s.setNotice ({ s.notice with unlisted := latch s.notice.unlisted h }.raised .unlisted)

/-- R124: the most recent block replaces the subject held. -/
def raiseBlockEnd (b : Block) (s : State) : State :=
  s.setNotice ({ s.notice with blockEnd := some b }.raised .blockEnd)

def raiseFrameError (k : FrameKind) (s : State) : State :=
  s.setNotice ({ s.notice with frameError := latch s.notice.frameError k }.raised .frameError)

/-- R167: the kinds selected by a mask lose their pending flag and their latched subject. -/
def NoticeUnit.acked (m : BitVec 11) (n : NoticeUnit) : NoticeUnit :=
  { n with
    pending := n.pending &&& ~~~m
    overdue := if m.getLsbD 3 then none else n.overdue
    spent := if m.getLsbD 4 then none else n.spent
    buried := if m.getLsbD 5 then none else n.buried
    unlisted := if m.getLsbD 6 then none else n.unlisted
    blockEnd := if m.getLsbD 9 then none else n.blockEnd
    frameError := if m.getLsbD 10 then none else n.frameError }.drive

/-! ### The buried flag (R16, R17) -/

/-- R16: a record is buried when it is PROMISED with a depth above 0. -/
def State.isBuried (s : State) (r : Record) : Bool := r.state = .promised && (s.depth r).any (0 < ·)

/-- R16, R17: the flag of one record is set or cleared, and BURIED is raised when it changes from clear to set. -/
def refreshBuried (i : RecIdx) (s : State) : State :=
  match s.live i with
  | none => s
  | some r =>
    let s' := s.setRec i { r with buried := s.isBuried r }
    if s.isBuried r && !r.buried then raiseBuried (s.handleAt i) s' else s'

/-- R16: the flags of every record of a stack, from level 0 upward. -/
def refreshStack (c : Col) (s : State) : State :=
  (s.col c).stack.foldl (fun s h => refreshBuried h.idx s) s

end Machine

end Sys2Proof
end

