-- ==== Sys2Proof/Machine/Manifest.lean ====
section
/-! DEFINITION. The manifest block (chapter 6): the map, consumption at delivery, the load pages and their merge, and the
owner's side of its host commands. An owner answers the next state and the response. -/

namespace Sys2Proof

/-- The other load page (R97). -/
def Page.other : Page → Page
  | .p0 => .p1
  | .p1 => .p0

namespace Machine

/-- An owner's answer with no data. -/
def answer (r : Result) (s : State) : State × Response := (s, ⟨r, []⟩)

/-! ### The map (R95, R96) -/

/-- R96: the entry carrying a tag. -/
def Manifest.find (m : Manifest) (t : Tag) : Option BinFacts := m.map.find? fun e => e.tag = t

/-- An entry put into a map whose tags rise, in place of one with its tag. -/
def putEntry (e : BinFacts) : List BinFacts → List BinFacts
  | [] => [e]
  | a :: l => if e.tag.toNat < a.tag.toNat then e :: a :: l else if e.tag = a.tag then e :: l else a :: putEntry e l

/-- The map without the entry of a tag. -/
def dropEntry (t : Tag) (l : List BinFacts) : List BinFacts := l.filter fun e => e.tag ≠ t

/-- R36, R105: a delivery removes the tag's entry unless its keep flag is set. -/
def consume (t : Tag) (s : State) : State :=
  match s.manifest.find t with
  | some e => if e.keep then s else s.setManifest { s.manifest with map := dropEntry t s.manifest.map }
  | none => s

/-- R52, R101: a due span counted from an age clock value; 65535 gives no deadline. -/
def deadlineAfter (clock span : Nat) : Nat := if span = 65535 then noDeadline else min (clock + span) lastClock

/-! ### Pages (R97) -/

def Manifest.page (m : Manifest) : Page → LoadPage
  | .p0 => m.p0
  | .p1 => m.p1

def Manifest.setPage (p : Page) (l : LoadPage) (m : Manifest) : Manifest :=
  match p with
  | .p0 => { m with p0 := l }
  | .p1 => { m with p1 := l }

/-- The FILLING page: R97 makes it P0 or P1. -/
def Manifest.filling (m : Manifest) : Page := if m.p0.state = .filling then .p0 else .p1

/-! ### One merge step (R100 to R103) -/

/-- The entry an UPSERT row makes at an age clock value (R101). -/
def Row.entry (r : Row) (clock : Nat) : BinFacts :=
  ⟨r.tag, r.cls, deadlineAfter clock r.dueSpan, r.budget, r.orderRef, r.keep⟩

/-- The map and the tally after one row's step (R101, R102). -/
def stepRow (clock : Nat) (r : Row) (map : List BinFacts) (t : Tally) : List BinFacts × Tally :=
  let present := map.any fun e => e.tag = r.tag
  if r.tag = 0 then (map, { t with refused := t.refused + 1 })
  else match r.op with
    | .upsert =>
      if present then (putEntry (r.entry clock) map, { t with replaced := t.replaced + 1 })
      else if map.length < Config.mapSize then (putEntry (r.entry clock) map, { t with inserted := t.inserted + 1 })
      else (map, { t with refused := t.refused + 1 })
    | .delete =>
      if present then (dropEntry r.tag map, { t with deleted := t.deleted + 1 })
      else (map, { t with absent := t.absent + 1 })

/-- R100, R103: the next row of the merge in flight is taken, and with the last one the merge ends. -/
def mergeStep (s : State) : State :=
  match s.manifest.merge with
  | none => s
  | some g =>
    let m := s.manifest
    let row := ((m.page g.page).rows.toList[g.taken]?).getD Row.cleared
    let (map, tally) := stepRow s.age.clock row m.map g.tally
    if g.taken + 1 < g.count then
      s.setManifest { m with map := map, merge := some { g with taken := g.taken + 1, tally := tally } }
    else
      let m' := m.setPage g.page { m.page g.page with state := .empty }
      raise .merged (s.setManifest { m' with map := map, merge := none, report := ⟨g.page, g.count, tally⟩ })

/-! ### Host commands -/

/-- R98. -/
def ownPageWrite (row op : Byte) (tag : Tag) (cls : Byte) (dueSpan budget orderRef : BitVec 16) (keep : Byte)
    (s : State) : State × Response :=
  match readRowNo row, readRowOp op, readClass cls with
  | some n, some o, some k =>
    let m := s.manifest
    let p := m.filling
    let r : Row := ⟨o, tag, k, dueSpan.toNat, min budget.toNat 4095, orderRef.toNat, keep ≠ 0⟩
    (s.setManifest (m.setPage p { m.page p with rows := (m.page p).rows.set n r }), ⟨.ok, [Config.pageCode p]⟩)
  | _, _, _ => answer .range s

/-- R99. -/
def ownPageMerge (count : Byte) (s : State) : State × Response :=
  let m := s.manifest
  let p := m.filling
  if count.toNat = 0 ∨ Config.pageRows < count.toNat then answer .range s
  else if (m.page p.other).state = .merging then answer .busy s
  else
    let m1 := m.setPage p { m.page p with state := .merging }
    let m2 := m1.setPage p.other ⟨.filling, Vector.replicate 16 Row.cleared⟩
    (s.setManifest { m2 with merge := some ⟨p, count.toNat, 0, Tally.zero⟩ }, ⟨.ok, [Config.pageCode p]⟩)

def Tally.bytes (t : Tally) : List Byte :=
  u8 t.inserted ++ u8 t.replaced ++ u8 t.deleted ++ u8 t.absent ++ u8 t.refused

/-- R104. -/
def ownMergeResult (s : State) : State × Response :=
  let m := s.manifest
  (s, ⟨.ok, u8 m.p0.state.code ++ u8 m.p1.state.code
    ++ presenceBytes (m.merge.map fun g => Config.pageCode g.page :: u8 g.count ++ u8 g.taken)
    ++ Config.pageCode m.report.page :: u8 m.report.count ++ m.report.tally.bytes ++ u16 m.map.length⟩)

/-- The fields of an entry in the order of R106. The byte of the keep flag, 01h for set and 00h for clear, is the model's choice
(DESIGN CHOICE, log entry 26): R170 gives no code for it. -/
def BinFacts.bytes (e : BinFacts) : List Byte :=
  u8 e.cls.code ++ u32 e.deadline ++ u16 e.budget ++ u16 e.orderRef ++ u8 e.keep.toNat

/-- R106: a tag of 0 finds none. -/
def ownManifestFind (tag : Tag) (s : State) : State × Response :=
  (s, ⟨.ok, presenceBytes (if tag = 0 then none else (s.manifest.find tag).map BinFacts.bytes)⟩)

/-- R106. -/
def ownManifestCount (s : State) : State × Response := (s, ⟨.ok, u16 s.manifest.map.length⟩)

/-- R107. -/
def ownManifestClear (s : State) : State × Response :=
  if s.manifest.p0.state = .merging ∨ s.manifest.p1.state = .merging then answer .busy s
  else answer .ok (s.setManifest { s.manifest with map := [] })

end Machine

end Sys2Proof
end

