-- ==== Sys2Proof/Machine/Records.lean ====
section
/-! DEFINITION. The life of a handoff record (chapter 2): its making, its moves among the record states, and its
retirement, as operations that the owners of requests, commands and events share. -/

namespace Sys2Proof.Machine

/-! ### Making a record (R23, R51, R52) -/

/-- The lowest-numbered free index (R23). -/
def State.firstFree (s : State) : Option RecIdx := allRecs.find? fun i => (s.live i).isNone

/-- R51, R52: the facts of a bin, from its manifest entry or from the zone defaults, and whether they are the defaults. -/
def State.factsOf (s : State) (t : Tag) : BinFacts × Bool :=
  match s.manifest.find t with
  | some e => (e, false)
  | none =>
    (⟨t, s.placement.defaultClass, deadlineAfter s.age.clock s.placement.defaultDueSpan, s.placement.defaultBudget, 0,
      false⟩, true)

/-- R23, R24: a record is made at an index: its last outcome entry is cleared, and the free count falls by one. -/
def makeAt (i : RecIdx) (r : Record) (s : State) : State :=
  let s := s.setEntry i { s.entry i with live := some r, last := none }
  s.setHandoff { s.handoff with freeCount := s.handoff.freeCount - 1, order := s.handoff.order ++ [i] }

/-- A record on the facts of its bin, with the overdue, spent and buried flags clear (R23). -/
def newRecord (t : Tag) (f : BinFacts × Bool) (st : RecState) (k : Option Slot) (c : Col) (level : Option Nat)
    (found : Bool) : Record where
  state := st
  tag := t
  cls := f.1.cls
  deadline := f.1.deadline
  budget := f.1.budget
  overdue := false
  spent := false
  unlisted := f.2
  buried := false
  found := found
  releaser := k
  collector := none
  column := c
  level := level
  orderRef := f.1.orderRef
  strandedFrom := none

/-- R52, R157: UNLISTED is raised for a record made on the defaults. -/
def noteUnlisted (i : RecIdx) (unlisted : Bool) (s : State) : State :=
  if unlisted then raiseUnlisted (s.handleAt i) s else s

/-! ### Moves among the record states (R26 to R32) -/

/-- The record at an index, changed by `f`. -/
def updRec (i : RecIdx) (f : Record → Record) (s : State) : State :=
  match s.live i with
  | some r => s.setRec i (f r)
  | none => s

/-- R29, R30, R16: a record becomes PARKED with no collector, and its buried flag clears. -/
def parkRecord (i : RecIdx) (s : State) : State :=
  updRec i (fun r => { r with state := .parked, collector := none, buried := false, strandedFrom := none }) s

/-- R30, R16: a record standing in a stack becomes PROMISED to a slot, and its buried flag follows its depth. -/
def promiseRecord (i : RecIdx) (k : Slot) (s : State) : State :=
  refreshBuried i (updRec i (fun r => { r with state := .promised, collector := some k, strandedFrom := none }) s)

/-- R27, R28: a record waits in RESERVED for its releaser's lock. -/
def reserveRecord (i : RecIdx) (s : State) : State :=
  updRec i (fun r => { r with state := .reserved, level := none, strandedFrom := none }) s

/-- R11, R29: a record is pushed on its column's stack and becomes PARKED at the level of the top. -/
def pushRecord (i : RecIdx) (c : Col) (s : State) : State :=
  let level := (s.col c).stack.length
  let s := updRec i
    (fun r => { r with state := .parked, collector := none, buried := false, level := some level, strandedFrom := none }) s
  s.setCol c { s.col c with stack := (s.col c).stack ++ [s.handleAt i] }

/-- R11: the top handle of a stack is popped. -/
def popStack (c : Col) (s : State) : State := s.setCol c { s.col c with stack := (s.col c).stack.dropLast }

/-! ### Retirement (R34 to R36) -/

/-- R34: the record at an index is retired with an outcome. A stack it stands in is popped or rewritten by the event that
retires it. -/
def retire (i : RecIdx) (o : Retirement) (s : State) : State :=
  match s.live i with
  | none => s
  | some r =>
    let h := s.handleAt i
    let s := s.dropWaitFor r.column h
    let s := s.setEntry i ⟨h.gen + 1, none, some ⟨h, o, r.tag, r.column⟩⟩
    let s := s.setHandoff
      { s.handoff with freeCount := s.handoff.freeCount + 1, order := s.handoff.order.filter (· ≠ i) }
    if o = .delivered then consume r.tag s else s

/-- Every index of a list in turn. -/
def forEach {α : Type} (l : List α) (f : α → State → State) (s : State) : State := l.foldl (fun s a => f a s) s

end Sys2Proof.Machine
end

