-- ==== Sys2Proof/Machine/Locks.lean ====
section
/-! DEFINITION. The lock unit (chapter 4): grant, scan, the ends of a lock, stranding, standing, and the judging of LOCK.
A judge of a robot request answers the next state and the verdict. -/

namespace Sys2Proof.Machine

/-! ### Grant and scan (R66, R70, R73) -/

/-- R73: the zone's limit for a lock's purpose. -/
def LockUnit.limitOf (u : LockUnit) : Hold → Nat
  | .work .place _ => u.placeLimit
  | .work .lift _ => u.liftLimit
  | .survey => u.surveyLimit

/-- R66: a slot becomes holder with a fresh lease; its record becomes PLACING, or LIFTING with its buried flag clear. -/
def grant (c : Col) (k : Slot) (hold : Hold) (s : State) : State :=
  let s := s.setLockOf c (some ⟨k, hold, s.lock.limitOf hold, s.now⟩)
  match hold with
  | .work .place h => updRec h.idx (fun r => { r with state := .placing }) s
  | .work .lift h => updRec h.idx (fun r => { r with state := .lifting, buried := false }) s
  | .survey => s

/-- R70: a placer is possible, and a lifter when its record is the top of the stack. -/
def State.possible (s : State) (c : Col) (e : WaitEntry) : Bool := e.work = .place || s.top c = some e.handle

/-- R70: the wait list is scanned from the front, and the lock goes to the first entry that is possible. -/
def scan (c : Col) (s : State) : State :=
  match (s.waitsOf c).findIdx? (s.possible c) with
  | none => s
  | some n =>
    match (s.waitsOf c)[n]? with
    | none => s
    | some e => grant c e.slot (.work e.work e.handle) (s.setWaitsOf c ((s.waitsOf c).eraseIdx n))

/-! ### The ends of a lock (R69, R74, R76, R147) -/

/-- The lock of a column ends, and its lease with it. -/
def endLock (c : Col) (s : State) : State := s.setLockOf c none

/-- R9: the column's present state as the prior service state it records. -/
def Column.presentAsPrior (r : Column) : Prior :=
  match r.service with
  | .opened => .opened
  | .draining => .draining
  | .undefined | .suspect | .fault | .out => r.prior

/-- R147, R9: a PLACE or LIFT lock held by `k` ends without a completion report: the record becomes STRANDED, the column
enters SUSPECT with its wait list emptied, and STRANDED is raised. -/
def strand (c : Col) (k : Slot) (w : Work) (h : Handle) (s : State) : State :=
  let s := endLock c s
  let s := updRec h.idx (fun r => { r with state := .stranded, strandedFrom := some w.strandedFrom, buried := false }) s
  let r := s.col c
  let s := s.setCol c
    { r with prior := r.presentAsPrior, service := .suspect, stranded := some h, strandingId := (s.slot k).robotId }
  raise .stranded (s.setWaitsOf c [])

/-- A held lock ends without a completion report: its work is stranded, or a SURVEY lock simply ends (R69). -/
def breakLock (c : Col) (s : State) : State :=
  match s.lockOf c with
  | none => s
  | some l => match l.hold with
    | .work w h => strand c l.holder w h s
    | .survey => endLock c s

/-- R74, R76, R78: as `breakLock`, and the holder's expired mark is set with the column. -/
def expireLock (c : Col) (s : State) : State :=
  match s.lockOf c with
  | none => s
  | some l => (breakLock c s).setMark l.holder (some c)

/-! ### Standing (R79) -/

/-- R79: the standing a CALL sent now would carry, by the first of its four cases that applies. A slot whose wait place has
been removed, or whose SURVEY lock a new designation has ended, while its expired mark is still set from a FAULT answer, is
given EXPIRED by that order, where R72 and R65 speak of NONE (DESIGN CHOICE, log entry 25). -/
def State.standing (s : State) (k : Slot) : Standing :=
  match s.holding k with
  | some (c, l) => .holding c l.hold.handle (l.remaining s.now)
  | none => match s.waiting k with
    | some (c, p, _) => .waiting c p
    | none => match s.mark k with
      | some c => .expired c
      | none => .none

/-! ### LOCK (R62 to R67) -/

/-- R63: the purpose for which a record fits a slot's LOCK on a column. -/
def Record.fits (r : Record) (k : Slot) (c : Col) : Option Work :=
  if r.column ≠ c then none
  else if r.state = .reserved ∧ r.releaser = some k then some .place
  else if r.state = .promised ∧ r.collector = some k then some .lift
  else none

/-- R64: a request names the lock a holder already has. -/
def Lock.repeats (l : Lock) (h : Option Handle) : Bool := l.hold.handle = h

/-- R65: LOCK for SURVEY, after checks 1 to 3 of R62. -/
def judgeSurveyLock (k : Slot) (col : Byte) (s : State) : State × Verdict :=
  match readCol col with
  | none => (s, .notYours)
  | some c =>
    if (s.col c).service = .suspect ∧ s.surveyor c = some k then
      (grant c k .survey s, .granted c .survey s.lock.surveyLimit)
    else (s, .notYours)

/-- Checks 5 to 11 of R62, and R66, R67. -/
def judgeWorkLock (k : Slot) (col : Byte) (h : Handle) (s : State) : State × Verdict :=
  match readCol col with
  | none => (s, .shut)
  | some c =>
    if (s.col c).service ≠ .opened ∧ (s.col c).service ≠ .draining then (s, .shut)
    else match s.named h with
      | none => (s, .stale)
      | some r => match r.fits k c with
        | none => (s, .notYours)
        | some w =>
          if w = .lift ∧ 0 < (s.depth r).getD 0 then (s, .buried ((s.depth r).getD 0))
          else match s.lockOf c with
            | none => (grant c k (.work w h) s, .granted c (.work w h) (s.lock.limitOf (.work w h)))
            | some _ =>
              if (s.waitsOf c).length < Config.waitPlaces then
                (s.setWaitsOf c (s.waitsOf c ++ [⟨k, w, h⟩]), .queued c ((s.waitsOf c).length + 1))
              else (s, .queueFull)

/-- R62: LOCK from a slot that is not QUIET (check 1 is R132's). -/
def judgeLock (k : Slot) (col : Byte) (h : Option Handle) (s : State) : State × Verdict :=
  match s.waiting k with
  | some (c, p, e) => if col.toNat = c.val ∧ h = some e.handle then (s, .queued c p) else (s, .busy)
  | none => match s.holding k with
    | some (c, l) =>
      if col.toNat = c.val ∧ l.repeats h then (s, .granted c l.hold (l.remaining s.now)) else (s, .busy)
    | none => match h with
      | none => judgeSurveyLock k col s
      | some h => judgeWorkLock k col h s

end Sys2Proof.Machine
end

