-- ==== Sys2Proof/Machine/Columns.lean ====
section
/-! DEFINITION. The host commands of the column table (chapter 1): COLUMN_DEFINE, COLUMN_SERVICE, READ_COLUMN. -/

namespace Sys2Proof.Machine

/-- R4. -/
def ownColumnDefine (col x y capacity classes : Byte) (s : State) : State × Response :=
  match readCol col, readClassSet classes with
  | some c, some set =>
    if 127 < x.toNat ∨ 127 < y.toNat ∨ capacity.toNat = 0 ∨ 6 < capacity.toNat then answer .range s
    else match (s.col c).service with
      | .opened | .draining | .suspect | .fault => answer .wrongState s
      | .undefined | .out =>
        answer .ok (s.setCol c
          { s.col c with
            x := x.toNat, y := y.toNat, capacity := capacity.toNat, allowed := set, service := .out, prior := .opened })
  | _, _ => answer .range s

/-- R7. -/
def ownColumnService (col state : Byte) (s : State) : State × Response :=
  match readCol col, readAskedService state with
  | some c, some asked =>
    match (s.col c).service with
    | .undefined | .suspect | .fault => answer .wrongState s
    | .opened | .draining | .out =>
      if asked = (s.col c).service then answer .ok s
      else if asked = .out ∧ (0 < s.load c ∨ (s.lockOf c).isSome) then answer .busy s
      else answer .ok (s.setCol c { s.col c with service := asked })
  | _, _ => answer .range s

/-- A slot with the purpose in bits 6–7 (R170). -/
def slotPurpose (k : Slot) (purpose : Nat) : List Byte := u8 (k.val + 64 * purpose)

/-- A wait list entry of READ_COLUMN, or an absent one (R170; the absent entry: DEDUCED, log entry 8). -/
def waitEntryBytes (o : Option WaitEntry) : List Byte :=
  match o with
  | some e => slotPurpose e.slot e.work.code ++ handleBytes e.handle
  | none => [0xFF, 0xFF, 0xFF]

/-- The stranded record's stranded-from value, with the stranded handle (R18). -/
def State.strandedFrom (s : State) (c : Col) : Option StrandedFrom :=
  ((s.col c).stranded.bind s.named).bind (·.strandedFrom)

/-- R18, R170: the 41 bytes after the status byte. -/
def columnBytes (s : State) (c : Col) : List Byte :=
  let r := s.col c
  let waits := s.waitsOf c
  let (holder, handle, lease) := match s.lockOf c with
    | some l => (slotPurpose l.holder l.hold.code, l.hold.handle, l.remaining s.now)
    | none => ([0xFF], none, 0)
  u8 c.val ++ u8 r.x ++ u8 r.y ++ u8 r.capacity ++ u8 r.allowed.code
    ++ u8 (r.service.code + 16 * r.prior.toService.code)
    ++ u8 r.stack.length ++ (List.range 6).flatMap (fun n => optHandleBytes r.stack[n]?)
    ++ u8 (16 * s.reservations c + s.load c)
    ++ optHandleBytes r.stranded ++ optByte ((s.strandedFrom c).map StrandedFrom.code)
    ++ holder ++ optHandleBytes handle ++ u8 lease
    ++ u8 waits.length ++ (List.range Config.waitPlaces).flatMap (fun n => waitEntryBytes waits[n]?)
    ++ optByte ((s.surveyor c).map (·.val))

/-- R18. -/
def ownReadColumn (col : Byte) (s : State) : State × Response :=
  match readCol col with
  | some c => (s, ⟨.ok, columnBytes s c⟩)
  | none => answer .range s

end Sys2Proof.Machine
end

