-- ==== Sys2Proof/Machine/Handoff.lean ====
section
/-! DEFINITION. The host commands of the handoff table (chapter 2), and REBUDGET (R90). -/

namespace Sys2Proof.Machine

/-- The five record flags in one byte (R170). -/
def Record.flags (r : Record) : Nat :=
  r.overdue.toNat + 2 * r.spent.toNat + 4 * r.unlisted.toNat + 8 * r.buried.toNat + 16 * r.found.toNat

/-- R37: a live record as READ_HANDOFF returns it. -/
def recordBytes (s : State) (h : Handle) (r : Record) : List Byte :=
  handleBytes h ++ u8 r.state.code ++ bytes32 r.tag ++ u8 r.cls.code ++ u32 r.deadline ++ u16 r.budget ++ u16 r.orderRef
    ++ u8 r.flags ++ optByte (r.releaser.map (·.val)) ++ optByte (r.collector.map (·.val)) ++ u8 r.column.val
    ++ optByte r.level ++ optByte (s.depth r) ++ optByte (r.strandedFrom.map StrandedFrom.code)

/-- R37: an outcome entry as READ_HANDOFF returns it. -/
def outcomeBytes (o : LastOutcome) : List Byte :=
  handleBytes o.handle ++ u8 o.outcome.code ++ bytes32 o.tag ++ u8 o.column.val

/-- R37. A stale handle with no outcome entry of its own is answered with no data (DESIGN CHOICE, log entry 9). -/
def ownReadHandoff (idx gen : Byte) (s : State) : State × Response :=
  match readHandle idx gen with
  | none => answer .range s
  | some h => match s.named h with
    | some r => (s, ⟨.ok, recordBytes s h r⟩)
    | none => match (s.entry h.idx).last with
      | some o => if o.handle = h then (s, ⟨.stale, outcomeBytes o⟩) else answer .stale s
      | none => answer .stale s

/-- R38. -/
def ownFindTag (t : Tag) (s : State) : State × Response :=
  (s, ⟨.ok, optHandleBytes ((s.tagged t).map fun p => s.handleAt p.1)⟩)

/-- R24. -/
def ownFreeCount (s : State) : State × Response := (s, ⟨.ok, u8 s.handoff.freeCount⟩)

/-- R39: the wait place of a slot for LIFT of a record is removed. -/
def dropLiftWait (k : Slot) (c : Col) (h : Handle) (s : State) : State :=
  s.setWaitsOf c ((s.waitsOf c).filter fun e => !(e.slot = k && e.work = .lift && e.handle = h))

/-- R39, R40: the collector's wait place for LIFT of its record is removed. -/
def dropCollectorWait (r : Record) (h : Handle) (s : State) : State :=
  match r.collector with
  | some k => dropLiftWait k r.column h s
  | none => s

/-- R39. -/
def ownAssign (idx gen slot : Byte) (s : State) : State × Response :=
  match readHandle idx gen, readSlotNo slot with
  | some h, some k =>
    match s.named h with
    | none => answer .stale s
    | some r => match r.state with
      | .lifting => answer .busy s
      | .reserved | .placing | .stranded => answer .wrongState s
      | .parked => if s.isLive k then answer .ok (promiseRecord h.idx k s) else answer .wrongState s
      | .promised =>
        if s.isLive k then
          if r.collector = some k then answer .ok s
          else answer .ok (promiseRecord h.idx k (dropCollectorWait r h s))
        else answer .wrongState s
  | _, _ => answer .range s

/-- R40. -/
def ownUnassign (idx gen : Byte) (s : State) : State × Response :=
  match readHandle idx gen with
  | none => answer .range s
  | some h => match s.named h with
    | none => answer .stale s
    | some r => match r.state with
      | .lifting => answer .busy s
      | .reserved | .placing | .parked | .stranded => answer .wrongState s
      | .promised => answer .ok (parkRecord h.idx (dropCollectorWait r h s))

/-- R42. -/
def ownCancel (idx gen : Byte) (s : State) : State × Response :=
  match readHandle idx gen with
  | none => answer .range s
  | some h => match s.named h with
    | none => answer .stale s
    | some r => match r.state with
      | .placing => answer .busy s
      | .parked | .promised | .lifting | .stranded => answer .wrongState s
      | .reserved => answer .ok (retire h.idx .cancelled s)

/-- R90. -/
def ownRebudget (idx gen : Byte) (budget : BitVec 16) (s : State) : State × Response :=
  match readHandle idx gen with
  | none => answer .range s
  | some h => match s.named h with
    | none => answer .stale s
    | some r =>
      let b := min budget.toNat 4095
      answer .ok (s.setRec h.idx { r with budget := b, spent := if 0 < b then false else r.spent })

end Sys2Proof.Machine
end

