-- ==== Sys2Proof/Machine/Placement.lean ====
section
/-! DEFINITION. Choosing a place (chapter 3): eligibility, the score, the choice, and the judging of PARK. -/

namespace Sys2Proof.Machine

/-- R53: a column is eligible for a bin of a class. -/
def State.eligible (s : State) (cls : StorageClass) (c : Col) : Bool :=
  (s.col c).service = .opened && s.load c < (s.col c).capacity && (s.col c).allowed.has cls
    && (match s.top c with
      | none => true
      | some h => (s.named h).any fun r => r.state = .parked)

/-- R54: the deadlines that enter D_ref: those of the top of the stack and of the column's reservations. -/
def State.refDeadlines (s : State) (c : Col) : List Nat :=
  ((s.top c).bind fun h => (s.named h).map (·.deadline)).toList
    ++ (s.recordsWhere fun r => r.reserves && r.column = c).filterMap fun i => (s.live i).map (·.deadline)

/-- R54: the column's deadline reference. -/
def State.dRef (s : State) (c : Col) : Option Nat := (s.refDeadlines c).min?

/-- R54: the deadline term of a bin's deadline against a reference. -/
def deadlineTerm (deadline : Nat) : Option Nat → Nat
  | none => 0
  | some d =>
    if deadline ≤ d then 0
    else if deadline = noDeadline then 255
    else min (deadline - d) 255

/-- The absolute difference of two coordinates. -/
def gap (a b : Nat) : Nat := (a - b) + (b - a)

/-- R55: the cold room term. -/
def coldTerm (cls : StorageClass) (allowed : ClassSet) : Nat :=
  if cls = .ambient ∧ (allowed.chilled ∨ allowed.frozen) then 1 else 0

/-- R55: the score of a column for a robot's position and a bin's facts. -/
def State.score (s : State) (x y : Nat) (f : BinFacts) (c : Col) : Nat :=
  let r := s.col c
  s.placement.wd * (gap x r.x + gap y r.y) + s.placement.wh * s.load c
    + s.placement.wb * deadlineTerm f.deadline (s.dRef c) + s.placement.wc * coldTerm f.cls r.allowed

/-- R56: of two columns, the one with the lower score, then the lower load, then the lower number. -/
def State.better (s : State) (x y : Nat) (f : BinFacts) (a b : Col) : Bool :=
  let sa := s.score x y f a
  let sb := s.score x y f b
  sa < sb || (sa = sb && (s.load a < s.load b || (s.load a = s.load b && a.val < b.val)))

/-- R56: the chosen column; none when no column is eligible. -/
def State.choose (s : State) (x y : Nat) (f : BinFacts) : Option Col :=
  (allCols.filter (s.eligible f.cls)).foldl
    (fun best c => match best with
      | none => some c
      | some b => if s.better x y f c b then some c else some b) none

/-- R56: the reservation of a place, and UNLISTED when the facts are the defaults. -/
def reservePlace (i : RecIdx) (k : Slot) (t : Tag) (f : BinFacts × Bool) (c : Col) (s : State) : State :=
  noteUnlisted i f.2 (makeAt i (newRecord t f .reserved (some k) c none false) s)

/-- R47: PARK from a slot that is neither QUIET nor a waiter (checks 1 and 2 are R132's). The position is that of the same
answer, already in the slot record (R46). -/
def judgePark (k : Slot) (t : Tag) (s : State) : State × Verdict :=
  if t = 0 then (s, .unknown)
  else match s.tagged t with
    | some (i, r) =>
      if r.state = .reserved ∧ r.releaser = some k then (s, .place r.column (s.handleAt i)) else (s, .duplicate)
    | none => match s.recordsWhere (·.reservedBy k) with
      | i :: _ => (s, .oneOnly (s.handleAt i))
      | [] => if s.handoff.freeCount = 0 then (s, .full)
        else match s.firstFree with
          | none => (s, .full)
          | some i =>
            let f := s.factsOf t
            match s.choose (s.slot k).x (s.slot k).y f.1 with
            | none => (s, .noRoom)
            | some c => (reservePlace i k t f c s, .place c (s.handleAt i))

end Sys2Proof.Machine
end

