-- ==== Sys2Proof/Machine/Requests.lean ====
section
/-! DEFINITION. The judging of SET_DOWN, PICK_UP, CLAIM, YIELD and YIELD of SURVEY (chapter 8), and of LEAVE and of JOIN
on a regular CALL (R120, R121). -/

namespace Sys2Proof.Machine

/-- R68 step 2: this slot was the holder when the record was stranded. -/
def Record.strandedBy (r : Record) (k : Slot) : Bool :=
  r.state = .stranded && (match r.strandedFrom with
    | some .placing => r.releaser = some k
    | some .lifting => r.collector = some k
    | none => false)

/-- The slot holds a column's lock for this work on this handle (R68). -/
def State.holdsFor (s : State) (k : Slot) (c : Col) (w : Work) (h : Handle) : Bool :=
  (s.lockOf c).any fun l => l.holder = k && l.hold = .work w h

/-- R135: the changes of an accepted SET_DOWN. -/
def acceptSetDown (h : Handle) (c : Col) (s : State) : State :=
  scan c (refreshStack c (endLock c (pushRecord h.idx c s)))

/-- R68, R135. -/
def judgeSetDown (k : Slot) (h : Handle) (s : State) : State × Verdict :=
  match s.named h with
  | none => (s, .stale)
  | some r =>
    if r.strandedBy k then (s, .late)
    else if s.holdsFor k r.column .place h then
      if (s.slot k).carried = r.tag then (s, .stillHeld)
      else (acceptSetDown h r.column s, .done (some (s.col r.column).stack.length))
    else (s, .notYours)

/-- R137: the changes of an accepted PICK_UP. -/
def acceptPickUp (h : Handle) (c : Col) (s : State) : State :=
  scan c (refreshStack c (endLock c (retire h.idx .delivered (popStack c s))))

/-- R68, R137, R138. -/
def judgePickUp (k : Slot) (h : Handle) (s : State) : State × Verdict :=
  match s.named h with
  | none => (s, .stale)
  | some r =>
    if r.strandedBy k then (s, .late)
    else if s.holdsFor k r.column .lift h then
      if (s.slot k).carried = r.tag then (acceptPickUp h r.column s, .done none)
      else if (s.slot k).carried = 0 then (s, .notHeld)
      else (strand r.column k .lift h s, .wrongBin)
    else (s, .notYours)

/-- The figures CLAIMED carries (R140). -/
def State.claimed (s : State) (i : RecIdx) (r : Record) : Verdict :=
  .claimed (s.handleAt i) r.column (r.level.getD 0) ((s.depth r).getD 0)

/-- R140. -/
def judgeClaim (k : Slot) (t : Tag) (s : State) : State × Verdict :=
  match s.tagged t with
  | none => (s, .unknown)
  | some (i, r) => match r.state with
    | .promised => if r.collector = some k then (s, s.claimed i r) else (s, .taken)
    | .reserved | .placing | .lifting | .stranded => (s, .wrongState)
    | .parked => (promiseRecord i k s, s.claimed i r)

/-- R142 case 3: the record a lock was held for returns to RESERVED or PROMISED. -/
def returnWork (w : Work) (i : RecIdx) (s : State) : State :=
  match w with
  | .place => reserveRecord i s
  | .lift => refreshBuried i (updRec i (fun r => { r with state := .promised }) s)

/-- R142. -/
def judgeYield (k : Slot) (h : Handle) (s : State) : State × Verdict :=
  match s.named h with
  | none => (s, .stale)
  | some r =>
    if r.strandedBy k then (s, .late)
    else match s.holding k, s.waiting k with
      | some (c, l), _ => match l.hold with
        | .work w h' => if h' = h then (scan c (endLock c (returnWork w h.idx s)), .released) else (s, .busy)
        | .survey => (s, .busy)
      | none, some (_, _, e) => if e.handle = h then (s.dropWaiter k, .released) else (s, .busy)
      | none, none =>
        if r.state = .promised ∧ r.collector = some k then (parkRecord h.idx s, .released)
        else if r.state = .reserved ∧ r.releaser = some k then (retire h.idx .cancelled s, .released)
        else (s, .notYours)

/-- R143. -/
def judgeYieldSurvey (k : Slot) (s : State) : State × Verdict :=
  match s.holding k with
  | some (c, l) => if l.hold = .survey then (endLock c s, .released) else (s, .notYours)
  | none => (s, .notYours)

/-- R150: a slot's designations are removed. -/
def dropDesignations (k : Slot) (s : State) : State :=
  s.setSurvey { s.survey with surveyors := s.survey.surveyors.map fun o => if o = some k then none else o }

/-- R121, R145: every PROMISED record of a collector becomes PARKED with no collector. -/
def dropPromises (k : Slot) (s : State) : State :=
  forEach (s.recordsWhere fun r => r.state = .promised && r.collector = some k) parkRecord s

/-- R112: a slot becomes VACANT, with robot id none and miss count 0. -/
def SlotRec.vacated (r : SlotRec) : SlotRec := { r with link := .vacant, robotId := none, miss := 0 }

/-- R121: the changes of an accepted LEAVE. -/
def acceptLeave (k : Slot) (s : State) : State :=
  let s := dropDesignations k ((dropPromises k (s.dropWaiter k)).setMark k none)
  s.setSlot k (s.slot k).vacated

/-- R121: LEAVE from a slot that is not QUIET. -/
def judgeLeave (k : Slot) (s : State) : State × Verdict :=
  if (s.holding k).isSome then (s, .wrongState)
  else if s.recordsWhere (·.reservedBy k) ≠ [] then (s, .wrongState)
  else (acceptLeave k s, .left)

/-- R120. -/
def judgeJoin (k : Slot) (id : RobotId) (s : State) : State × Verdict :=
  if (s.slot k).robotId = some id then (s, .welcome) else (s, .wrongState)

end Sys2Proof.Machine
end

