-- ==== Sys2Proof/Machine/Survey.lean ====
section
/-! DEFINITION. The survey unit (chapter 9): SURVEY_ASK, the reconciling of a SURVEY, the survey box, and RESTACK. -/

namespace Sys2Proof.Machine

/-! ### Designation (R150) -/

/-- R65: the SURVEY lock of a column held by a slot ends, with no expired mark. -/
def endSurveyLockOf (c : Col) (k : Slot) (s : State) : State :=
  if (s.lockOf c).any fun l => l.holder = k && l.hold = .survey then endLock c s else s

/-- R150. -/
def ownSurveyAsk (col slot : Byte) (s : State) : State × Response :=
  match readCol col, readSlotNo slot with
  | some c, some k =>
    if (s.col c).service ≠ .suspect then answer .wrongState s
    else if s.isLive k = false then answer .wrongState s
    else match s.surveyor c with
      | none => answer .ok (s.setSurveyor c (some k))
      | some old => if old = k then answer .ok s else answer .ok ((endSurveyLockOf c old s).setSurveyor c (some k))
  | _, _ => answer .range s

/-! ### Resolution of the stranded record (R32, R148, R152) -/

/-- The slot is releaser of a RESERVED or PLACING record other than this one (R32). -/
def State.reservesOther (s : State) (i : RecIdx) (k : Option Slot) : Bool :=
  k.any fun k => (s.recordsWhere (·.reservedBy k)).any (· ≠ i)

/-- R32: an absent placement becomes RESERVED, or is retired UNPLACED. -/
def resolveAbsentPlacement (i : RecIdx) (toReserved : Bool) (s : State) : State :=
  if toReserved then reserveRecord i s else retire i .unplaced s

/-- R32, R148: whether an absent placement of a column returns to RESERVED. -/
def State.placementReturns (s : State) (c : Col) (i : RecIdx) (r : Record) : Bool :=
  s.concernedLive c r.releaser && !s.reservesOther i r.releaser

/-- R32: a lift found in place becomes PROMISED to its collector, or PARKED; its level stands. -/
def resolveLiftInPlace (i : RecIdx) (collector : Option Slot) (live : Bool) (s : State) : State :=
  match collector, live with
  | some k, true => promiseRecord i k s
  | _, _ => parkRecord i s

/-- R32: a lift found gone is retired DELIVERED, or CARRIED_OFF. -/
def resolveLiftGone (i : RecIdx) (live : Bool) (s : State) : State :=
  retire i (if live then .delivered else .carriedOff) s

/-- R10: a settled column takes its prior service state, and its stranded handle, stranding robot id and surveyor go. -/
def settleColumn (c : Col) (s : State) : State :=
  let r := s.col c
  (s.setCol c { r with service := r.prior.toService, stranded := none, strandingId := none }).setSurveyor c none

/-- R152: the resolution a survey list gives for the stranded record of a column; none for a mismatch. A list
with a repeated tag or a tag of 0 fits no row. -/
def resolution (c : Col) (tags : List Tag) (s : State) : Option (State → State) :=
  match (s.col c).stranded with
  | none => none
  | some h => match s.named h with
    | none => none
    | some r =>
      let expected := (s.stackTags c).reverse
      if tags.Nodup ∧ (0 : Tag) ∉ tags then
        match r.strandedFrom with
        | some .placing =>
          if tags = expected then some (resolveAbsentPlacement h.idx (s.placementReturns c h.idx r))
          else if tags = r.tag :: expected then some (fun s => refreshStack c (pushRecord h.idx c s))
          else none
        | some .lifting =>
          if tags = expected then some (resolveLiftInPlace h.idx r.collector (s.concernedLive c r.collector))
          else if tags = expected.tail ∧ expected ≠ [] then
            some (fun s => refreshStack c (resolveLiftGone h.idx (s.concernedLive c r.collector) (popStack c s)))
          else none
        | none => none
      else none

/-- R153: a matched survey, carried out as one change. -/
def matchSurvey (c : Col) (resolve : State → State) (s : State) : State := endLock c (settleColumn c (resolve s))

/-- R154: a mismatched survey with the survey box empty. -/
def recordMismatch (c : Col) (k : Slot) (tags : List Tag) (s : State) : State :=
  let s := s.setSurvey { s.survey with box := some ⟨c, k, tags⟩ }
  let s := (s.setCol c { s.col c with service := .fault }).setSurveyor c none
  raise .fault (endLock c s)

/-- R151 to R154. -/
def judgeSurvey (k : Slot) (col : Byte) (tags : List Tag) (s : State) : State × Verdict :=
  match readCol col with
  | none => (s, .notYours)
  | some c =>
    if (s.col c).service ≠ .suspect ∨ s.surveyor c ≠ some k then (s, .notYours)
    else if (s.lockOf c).any (fun l => l.holder = k && l.hold = .survey) = false then (s, .notYours)
    else match resolution c tags s with
      | some f => (matchSurvey c f s, .matched)
      | none =>
        if s.survey.box.isNone then (recordMismatch c k tags s, .recorded) else (endLock c s, .boxFull)

/-! ### The survey box (R155) -/

def ownSurveyRead (s : State) : State × Response :=
  (s, ⟨.ok, presenceBytes (s.survey.box.map fun b => u8 b.column.val ++ u8 b.surveyor.val ++ listBytes bytes32 b.tags)⟩)

def ownSurveyClear (s : State) : State × Response := answer .ok (s.setSurvey { s.survey with box := none })

/-! ### RESTACK (R156, R157) -/

/-- The listed tags that no live record carries (R156). -/
def State.unknownTags (s : State) (tags : List Tag) : List Tag := tags.filter fun t => (s.tagged t).isNone

/-- R157: a new record for a listed tag with none, at the lowest free index. Its level is written when the stack is
rewritten. With no index free, which R156 rules out, nothing is
made (DESIGN CHOICE, log entry 19). -/
def makeFound (c : Col) (t : Tag) (s : State) : State :=
  match s.firstFree with
  | none => s
  | some i =>
    let f := s.factsOf t
    noteUnlisted i f.2 (makeAt i (newRecord t f .parked none c none true) s)

/-- R157: the stranded record is resolved as present when its tag is listed and as absent otherwise. Whether its robot is
LIVE and whether a placement may return are judged on the state `s0` in which the command is taken (DEDUCED, log entry
10). -/
def resolveStranded (c : Col) (tags : List Tag) (s0 : State) (s : State) : State :=
  match (s0.col c).stranded with
  | none => s
  | some h => match s0.named h with
    | none => s
    | some r => match r.strandedFrom with
      | some .placing =>
        if r.tag ∈ tags then parkRecord h.idx s
        else resolveAbsentPlacement h.idx (s0.placementReturns c h.idx r) s
      | some .lifting =>
        if r.tag ∈ tags then resolveLiftInPlace h.idx r.collector (s0.concernedLive c r.collector) s
        else resolveLiftGone h.idx (s0.concernedLive c r.collector) s
      | none => s

/-- R157: the records of the old stack whose tag is not listed, other than the stranded lift. -/
def missingRecords (c : Col) (tags : List Tag) (s0 : State) : List RecIdx :=
  ((s0.col c).stack.filter fun h =>
    (s0.named h).any (fun r => r.tag ∉ tags) && (s0.col c).stranded ≠ some h).map (·.idx)

/-- R157: the RESERVED records of the column whose tag is listed. -/
def listedReservations (c : Col) (tags : List Tag) (s0 : State) : List RecIdx :=
  s0.recordsWhere fun r => r.state = .reserved && r.column = c && r.tag ∈ tags

/-- R157: the stack becomes the list order, with every level renumbered from 0. -/
def rewriteStack (c : Col) (tags : List Tag) (s : State) : State :=
  let found := tags.filterMap fun t => (s.tagged t).map (·.1)
  let s := forEach found.zipIdx (fun p => updRec p.1 fun r => { r with level := some p.2 }) s
  refreshStack c (s.setCol c { s.col c with stack := found.map s.handleAt })

/-- R157: the reservations of the column to be trimmed, latest made first. -/
def trimmedReservations (c : Col) (s : State) : List RecIdx :=
  ((s.handoff.order.filter fun i => (s.live i).any fun r => r.state = .reserved && r.column = c).reverse).take
    (s.load c - (s.col c).capacity)

/-- R157: an accepted RESTACK up to the trimming. The new records are made first, and the retirements follow. -/
def restackRecords (c : Col) (tags : List Tag) (s0 : State) : State :=
  let s := forEach (s0.unknownTags tags) (makeFound c) s0
  let s := resolveStranded c tags s0 s
  let s := forEach (missingRecords c tags s0) (fun i => retire i .missing) s
  let s := forEach (listedReservations c tags s0) parkRecord s
  settleColumn c (rewriteStack c tags s)

/-- R157, with the response: the stack's handles bottom first, and the number of reservations trimmed. -/
def applyRestack (c : Col) (tags : List Tag) (s0 : State) : State × Response :=
  let s := restackRecords c tags s0
  let trimmed := trimmedReservations c s
  let s' := forEach trimmed (fun i => retire i .unplaced) s
  (s', ⟨.ok, listBytes handleBytes (s'.col c).stack ++ u8 trimmed.length⟩)

/-- R156. -/
def ownRestack (col : Byte) (tags : List Tag) (s : State) : State × Response :=
  match readCol col with
  | none => answer .range s
  | some c =>
    if (s.col c).capacity < tags.length ∨ (0 : Tag) ∈ tags ∨ ¬ tags.Nodup then answer .range s
    else if (s.col c).service ≠ .suspect ∧ (s.col c).service ≠ .fault then answer .wrongState s
    else if (s.lockOf c).isSome then answer .busy s
    else if tags.any fun t => (s.tagged t).any fun p => p.2.column ≠ c then answer .conflict s
    else if s.handoff.freeCount < (s.unknownTags tags).length then answer .full s
    else applyRestack c tags s

end Sys2Proof.Machine
end

