-- ==== Sys2Proof/Machine/Line.lean ====
section
/-! DEFINITION. The line controller (chapters 7 and 8): rounds, blocks and CALLs, the taking of answers and the routing of
their requests, misses and loss, and the owner's side of its host commands. -/

namespace Sys2Proof.Machine

/-! ### Sending a CALL (R116, R119, R171) -/

def State.setPhase (p : LinePhase) (s : State) : State := s.setLine { s.line with phase := p }

/-- R116, R119: a CALL is built and its exchange begins. A probe carries the standing NONE, and the verdict it carries is
dropped when it is sent. -/
def sendCall (k : Slot) (kind : CallKind) (s : State) : State :=
  let r := s.slot k
  match kind with
  | .regular => s.setPhase (.calling ⟨k, kind, callFrame k kind (s.standing k) r.verdict, s.now, false⟩)
  | .probe =>
    (s.setSlot k { r with verdict := none }).setPhase (.calling ⟨k, kind, callFrame k kind .none r.verdict, s.now, false⟩)

/-! ### Passing over slots and blocks (R113 to R115, R124) -/

/-- R115: the CALL a slot receives when the round reaches it. -/
def State.selects (s : State) (k : Slot) : Option CallKind :=
  match (s.slot k).link, (s.slot k).mode with
  | .live, .on | .live, .quiet => some .regular
  | .vacant, .on => if s.line.probe then some .probe else none
  | .live, .off | .vacant, .quiet | .vacant, .off | .lost, _ => none

/-- R114: whether the round calls a block when it reaches it. -/
def State.calls (s : State) (b : Block) : Bool :=
  match s.line.blockMode with
  | .sweep => true
  | .paired x y => b = x || b = y || s.kept b

/-- R110: the slots of a block, in rising order. -/
def slotsOf (b : Block) : List Slot := allSlots.filter fun k => k.val / 8 = b.val

/-- The first slot of a list that receives a CALL. -/
def State.nextCall (s : State) (l : List Slot) : Option (Slot × CallKind) :=
  l.findSome? fun k => (s.selects k).map fun kind => (k, kind)

/-- R124: a block end, with its notice when the block's enable is set. -/
def blockEnd (b : Block) (s : State) : State :=
  if s.line.blockEndEnable.getLsbD b.val then raiseBlockEnd b s else s

/-- R113: the round passes over blocks until a slot is to be called; none when it has passed them all. -/
def passBlocks : List Block → State → State × Option (Slot × CallKind)
  | [], s => (s, none)
  | b :: bs, s =>
    if s.calls b then
      match s.nextCall (slotsOf b) with
      | some p => (s, some p)
      | none => passBlocks bs (blockEnd b s)
    else passBlocks bs s

/-! ### The start and the end of a round (R113, R122, R123) -/

/-- R113: the number of the next round. -/
def nextRoundNo : Option Nat → Nat
  | none => 0
  | some n => (n + 1) % 65536

/-- R113: the change that starts a round: its number and probe mark, the modes and the block mode. -/
def openRound (s : State) : State :=
  let l := s.line
  let n := nextRoundNo l.roundNo
  s.setLine { l with
    roundNo := some n
    probe := n % l.probeInterval = 0
    roundStart := s.now
    dueAt := none
    slots := l.slots.map fun r => { r with mode := r.nextMode }
    blockMode := l.nextBlockMode }

/-- R113, R122: a round begins at block 0; a round in which no CALL is sent waits for its 100 µs. -/
def startRound (s : State) : State :=
  match passBlocks allBlocks (openRound s) with
  | (s, some (k, kind)) => sendCall k kind s
  | (s, none) => s.setPhase .emptyRound

/-- R123: the duration of the round that ends now, in whole units of 10 µs, saturating. -/
def State.duration (s : State) : Nat := min 65535 ((s.now - s.line.roundStart) / Config.durationUnit)

/-- R123: the three figures at a round end. -/
def measureRound (s : State) : State :=
  let d := s.duration
  s.setLine { s.line with
    lastDuration := d, minDuration := min d s.line.minDuration, maxDuration := max d s.line.maxDuration }

/-- R122: the round lasts longer than its period: its successor came due before now (due at this very instant is not late:
DEDUCED, log entry 13). -/
def State.roundLate (s : State) : Bool := s.line.dueAt.any (· < s.now)

/-- R122, R123: a round ends: it is measured, LATE_ROUND is raised for a late one, and the next round begins at once when
it runs free or is due already, and is waited for otherwise. -/
def endRound (s : State) : State :=
  let s' := measureRound s
  let s' := if s.roundLate then raise .lateRound s' else s'
  if s.line.roundPeriod = 0 ∨ s.line.dueAt.isSome then startRound s' else s'.setPhase .waiting

/-- R113, R124: the round goes on after the exchange with a slot. -/
def continueRound (k : Slot) (s : State) : State :=
  let b : Block := ⟨k.val / 8, by omega⟩
  match s.nextCall ((slotsOf b).filter fun j => k < j) with
  | some (j, kind) => sendCall j kind s
  | none =>
    match passBlocks (allBlocks.filter fun c => b < c) (blockEnd b s) with
    | (s, some (j, kind)) => sendCall j kind s
    | (s, none) => endRound s

/-- R125: the link becomes STOPPED, and the rest of the round is abandoned, with no block end and no measure (DEDUCED, log
entry 14). -/
def stopLink (s : State) : State := s.setLine { s.line with run := .stopped, phase := .idle }

/-- R125: what follows the end of the exchange with a slot. -/
def afterExchange (k : Slot) (s : State) : State :=
  if s.line.run = .stopping then stopLink s else continueRound k s

/-! ### Loss (R118, R145) -/

/-- R145: the holdings of a slot that becomes LOST. -/
def loseHoldings (k : Slot) (s : State) : State :=
  let s := match s.holding k with
    | some (c, _) => breakLock c s
    | none => s
  let s := s.dropWaiter k
  let s := forEach (s.recordsWhere fun r => r.state = .reserved && r.releaser = some k) (fun i => retire i .unplaced) s
  (dropDesignations k (dropPromises k s)).setMark k none

/-- R118, R112, R145: a slot becomes LOST, and LOST is raised. -/
def loseSlot (k : Slot) (s : State) : State :=
  let s := loseHoldings k s
  raise .lost (s.setSlot k { s.slot k with link := .lost, verdict := none })

/-- R118: a miss. -/
def missSlot (k : Slot) (s : State) : State :=
  let s := s.setSlot k { s.slot k with miss := min 15 ((s.slot k).miss + 1) }
  if s.line.lossThreshold ≤ (s.slot k).miss then loseSlot k s else s

/-! ### Answers (R118, R119, R129 to R133) -/

/-- R129: the status of an answer as taken, each field clamped. -/
def SlotRec.withStatus (st : Status) (r : SlotRec) : SlotRec :=
  { r with
    x := min 127 st.x.toNat, y := min 127 st.y.toNat, temp := min 63 st.temp.toNat, cond := readCondition st.cond
    carried := st.carried }

/-- R118 stages 1 and 2. -/
def takeStatus (k : Slot) (st : Status) (s : State) : State :=
  s.setSlot k { (s.slot k).withStatus st with miss := 0 }

/-- R118 stage 3 (R76, R77): the lock unit acts on the condition FAULT. -/
def takeCondition (k : Slot) (s : State) : State :=
  if (s.slot k).cond = .fault then
    match s.holding k with
    | some (c, _) => expireLock c s
    | none => s.dropWaiter k
  else s

/-- Whether stage 3 sets the slot's expired mark (R78). -/
def State.faultsHolder (s : State) (k : Slot) : Bool := (s.slot k).cond = .fault && (s.holding k).isSome

/-- The owner's judgment of a request (R131). -/
def ownerJudges (k : Slot) (q : Request) (s : State) : State × Verdict :=
  match q with
  | .join id => judgeJoin k id s
  | .leave => judgeLeave k s
  | .park t => judgePark k t s
  | .lock col h => judgeLock k col h s
  | .setDown h => judgeSetDown k h s
  | .pickUp h => judgePickUp k h s
  | .claim t => judgeClaim k t s
  | .yield h => judgeYield k h s
  | .yieldSurvey => judgeYieldSurvey k s
  | .survey col tags => judgeSurvey k col tags s
  | .bad => (s, .badRequest)

/-- R131, R132: BAD_REQUEST, then the two tests, then the owner. -/
def judgeRequest (k : Slot) (q : Request) (s : State) : State × Verdict :=
  if q.unreadable then (s, .badRequest)
  else if (s.slot k).mode = .quiet ∧ ¬ q.isJoin then (s, .held)
  else if q.busyForWaiter ∧ (s.waiting k).isSome then (s, .busy)
  else ownerJudges k q s

/-- R133: a slot's pending verdict. -/
def setVerdict (k : Slot) (v : Option Verdict) (s : State) : State := s.setSlot k { s.slot k with verdict := v }

/-- R118 stage 5 with R78: the request is judged, its verdict is stored, and the expired mark is cleared unless the status
of the same answer has set it. -/
def takeRequest (k : Slot) (q : Request) (markStays : Bool) (s : State) : State :=
  let (s, v) := judgeRequest k q s
  let s := setVerdict k (some v) s
  if markStays then s else s.setMark k none

/-- R118: a valid answer to a regular CALL, taken as one change. -/
def takeRegular (k : Slot) (st : Status) (req : Option Request) (s : State) : State :=
  let s1 := takeStatus k st s
  let s2 := setVerdict k none (takeCondition k s1)
  match req with
  | none => s2
  | some q => takeRequest k q (s1.faultsHolder k) s2

/-- R119: a robot id held by a LIVE slot. -/
def State.idLive (s : State) (id : RobotId) : Bool :=
  allSlots.any fun k => s.isLive k && (s.slot k).robotId = some id

/-- R119: a valid answer to a probe CALL. -/
def takeProbe (k : Slot) (st : Status) (req : Option Request) (s : State) : State :=
  match req with
  | some (.join id) =>
    if id = 0 then s
    else if s.idLive id then setVerdict k (some .refusedId) s
    else s.setSlot k
      { (s.slot k).withStatus st with link := .live, robotId := some id, miss := 0, verdict := some .welcome }
  | _ => s

/-- A valid answer, by the kind of the CALL it answers. -/
def takeAnswer (x : Exchange) (st : Status) (req : Option Request) (s : State) : State :=
  match x.kind with
  | .regular => takeRegular x.slot st req s
  | .probe => takeProbe x.slot st req s

/-- An exchange that ends with no answer or with a spoiled one: a miss for a regular CALL, nothing for a probe. -/
def noAnswer (x : Exchange) (s : State) : State :=
  match x.kind with
  | .regular => missSlot x.slot s
  | .probe => s

/-- An exchange with an answer in reception ends with `f`; without one, nothing happens (R116: bytes outside an exchange are
discarded). -/
def endReception (f : Exchange → State → State) (s : State) : State :=
  match s.line.phase with
  | .calling x => if x.receiving then afterExchange x.slot (f x s) else s
  | .idle | .emptyRound | .waiting => s

/-- The end of an exchange whose answer is valid. -/
def answered (st : Status) (req : Option Request) (s : State) : State :=
  endReception (fun x s => takeAnswer x st req s) s

/-- ANSWER_END: the answer is judged whole at the end of the exchange (R116, R117). -/
def receiveAnswer (bytes : List Byte) (badStop : Bool) (s : State) : State :=
  endReception (fun x s => match readAnswer x.slot bytes badStop with
    | .valid st req => takeAnswer x st req s
    | .spoiled => noAnswer x s) s

/-- REPLY_WINDOW_EXPIRY (R116): the exchange ends with no answer, unless a start bit has opened reception. The moment is
kept, so that a start bit taken after it at that same moment is known for a late one. -/
def expireWindow (s : State) : State :=
  match s.line.phase with
  | .calling x => if x.receiving then s else
    let t := afterExchange x.slot (noAnswer x s)
    t.setLine { t.line with lastExpiry := some s.now }
  | .idle | .emptyRound | .waiting => s

/-- LINE_DE: high while the part sends a CALL, which occupies 150 bit times (R116 and the table of pins). -/
def State.lineDE (s : State) : Bool :=
  match s.line.phase with
  | .calling x => 2 * (s.now - x.startedAt) * 2 ^ s.line.lineRate < 600
  | .idle | .emptyRound | .waiting => false

/-- R116: a start bit taken now comes after the expiry of its own window. It falls while the CALL that was begun at that
expiry is still being sent, so no window is open for it (told by the model's clock: DEDUCED, log entry 24). -/
def State.startsLate (s : State) (x : Exchange) : Bool :=
  !x.receiving && s.lineDE && s.line.lastExpiry = some x.startedAt

/-- ANSWER_START_BIT (R116): reception opens. A late start bit opens none: its bytes are received by no exchange, and the
next start bit is that of the slot now called. -/
def openReception (s : State) : State :=
  match s.line.phase with
  | .calling x =>
    if s.startsLate x then s.setLine { s.line with lastExpiry := none }
    else s.setPhase (.calling { x with receiving := true })
  | .idle | .emptyRound | .waiting => s

/-- EMPTY_ROUND_END (R122). -/
def endEmptyRound (s : State) : State :=
  match s.line.phase with
  | .emptyRound => endRound s
  | .idle | .calling _ | .waiting => s

/-- ROUND_PERIOD_DUE (R122): the next round begins if the round before it has ended; in a round in progress the moment is
kept for its end. -/
def roundDue (s : State) : State :=
  match s.line.phase with
  | .waiting => startRound s
  | .calling _ | .emptyRound =>
    if s.line.roundPeriod ≠ 0 ∧ s.line.dueAt.isNone then s.setLine { s.line with dueAt := some s.now } else s
  | .idle => s

/-! ### Host commands -/

/-- R111. -/
def ownSlotMode (slot mode : Byte) (s : State) : State × Response :=
  match readSlotNo slot, readSlotMode mode with
  | some k, some m => answer .ok (s.setSlot k { s.slot k with nextMode := m })
  | _, _ => answer .range s

/-- R114. -/
def ownBlockMode (mode a b : Byte) (s : State) : State × Response :=
  match mode.toNat with
  | 0 => answer .ok (s.setLine { s.line with nextBlockMode := .sweep })
  | 1 => match readBlockNo a, readBlockNo b with
    | some a, some b => answer .ok (s.setLine { s.line with nextBlockMode := .paired a b })
    | _, _ => answer .range s
  | _ => answer .range s

/-- R124. -/
def ownBlockEndEnable (mask : Byte) (s : State) : State × Response :=
  answer .ok (s.setLine { s.line with blockEndEnable := mask })

/-- R127: a slot record, then its standing in the layout of a CALL's bytes 2–6, then its expired mark (DESIGN CHOICE, log
entry 9). -/
def slotBytes (s : State) (k : Slot) : List Byte :=
  let r := s.slot k
  u8 r.mode.code ++ u8 r.nextMode.code ++ u8 r.link.code ++ bytes24 (r.robotId.getD 0) ++ u8 r.miss ++ u8 r.x ++ u8 r.y
    ++ u8 r.temp ++ u8 r.cond.code ++ bytes32 r.carried ++ verdictBytes r.verdict
    ++ standingBytes optHandleBytes (s.standing k) ++ optByte ((s.mark k).map (·.val))

/-- R127. -/
def ownReadSlot (slot : Byte) (s : State) : State × Response :=
  match readSlotNo slot with
  | some k => (s, ⟨.ok, slotBytes s k⟩)
  | none => answer .range s

/-- R146. -/
def ownClearLost (slot : Byte) (s : State) : State × Response :=
  match readSlotNo slot with
  | none => answer .range s
  | some k => match (s.slot k).link with
    | .vacant | .live => answer .wrongState s
    | .lost => answer .ok (s.setSlot k (s.slot k).vacated)

/-- R125. -/
def ownLinkStart (s : State) : State × Response :=
  match s.line.run with
  | .stopped => answer .ok (startRound (s.setLine { s.line with run := .running }))
  | .running => answer .ok s
  | .stopping => answer .ok (s.setLine { s.line with run := .running })

/-- R125. -/
def ownLinkStop (s : State) : State × Response :=
  match s.line.run with
  | .stopped | .stopping => answer .ok s
  | .running => match s.line.phase with
    | .calling _ => answer .ok (s.setLine { s.line with run := .stopping })
    | .idle | .emptyRound | .waiting => answer .ok (stopLink s)

/-- The block and the slot being called, or none (R123). -/
def State.progressBytes (s : State) : List Byte :=
  match s.line.phase with
  | .calling x => u8 (x.slot.val / 8) ++ u8 x.slot.val
  | .idle | .emptyRound | .waiting => [0xFF, 0xFF]

/-- R123. -/
def ownReadStats (s : State) : State × Response :=
  let l := s.line
  (s, ⟨.ok, Config.linkRunCode l.run :: presenceBytes (l.roundNo.map u16) ++ s.progressBytes ++ l.blockMode.bytes
    ++ l.nextBlockMode.bytes ++ u16 l.lastDuration ++ u16 l.minDuration ++ u16 l.maxDuration⟩)

/-- R123. -/
def ownStatsClear (s : State) : State × Response :=
  answer .ok (s.setLine { s.line with lastDuration := 0, minDuration := 65535, maxDuration := 0 })

end Sys2Proof.Machine
end

