-- ==== Sys2Proof/Machine/Age.lean ====
section
/-! DEFINITION. The age unit (chapter 5): the age event in its four stages, and the owner's side of AGE_START, AGE_STOP and
READ_AGE. -/

namespace Sys2Proof.Machine

def Age.isRunning (a : Age) : Bool := a.run ≠ .stopped

/-- R85: the readings taken into account. -/
def State.readings (s : State) : List Nat :=
  (allSlots.filter fun k => s.isLive k && (s.slot k).cond ≠ .fault && (s.slot k).temp ≤ 62).map fun k => (s.slot k).temp

/-- R86: the aggregate temperature in HIGHEST mode; none without readings. -/
def highestReading (l : List Nat) : Option Nat := l.max?

/-- R86: the aggregate temperature in GUARDED mode: one reading of the highest value is set aside to find the second
highest. -/
def guardedReading (guardGap : Nat) (l : List Nat) : Option Nat :=
  match l.max? with
  | none => none
  | some high => match (l.erase high).max? with
    | none => some high
    | some second => if guardGap < high - second then some second else some high

/-- R86: the aggregate by the warmth mode. -/
def Age.aggregateOf (a : Age) (l : List Nat) : Option Nat :=
  match a.mode with
  | .fixed => none
  | .highest => highestReading l
  | .guarded => guardedReading a.guardGap l

/-- R86: the number of thresholds at or below the aggregate, or the fixed band. -/
def Age.bandOf (a : Age) : Option Nat → Nat
  | none => a.fixedBand
  | some t => (if a.t1 ≤ t then 1 else 0) + (if a.t2 ≤ t then 1 else 0) + (if a.t3 ≤ t then 1 else 0)

/-- R87: the weight of a class. -/
def classWeight : StorageClass → Nat
  | .ambient => 0
  | .chilled => 1
  | .frozen => 2

/-- R87: the share of a class at a band. -/
def share (cls : StorageClass) (band : Nat) : Nat := classWeight cls * (band + 1)

/-- R84 stages 1 and 2, and the return of the period remaining to the age period. -/
def ageClockAndBand (s : State) : State :=
  let l := s.readings
  let agg := s.age.aggregateOf l
  s.setAge { s.age with
    run := .running s.now
    clock := min (s.age.clock + 1) lastClock
    band := s.age.bandOf agg
    aggregate := agg
    readings := l.length }

/-- R87, R88: stage 3 for one record. -/
def lowerBudget (i : RecIdx) (s : State) : State :=
  match s.live i with
  | none => s
  | some r =>
    let b := r.budget - share r.cls s.age.band
    let s' := s.setRec i { r with budget := b, spent := r.spent || b = 0 }
    if b = 0 ∧ r.spent = false then raiseSpent (s.handleAt i) s' else s'

/-- R89: stage 4 for one record. -/
def testOverdue (i : RecIdx) (s : State) : State :=
  match s.live i with
  | none => s
  | some r =>
    if r.deadline ≤ s.age.clock ∧ r.overdue = false then
      raiseOverdue (s.handleAt i) (s.setRec i { r with overdue := true })
    else s

/-- R84: an age event, while the age unit is RUNNING. It lowers and tests every record that is live when it is taken, one made by
a PARK or RESTACK just before it included, and a deadline counted before it used the clock before it. R93's rows for these and
for an UPSERT step have the two orders the other way round (DEDUCED, log entry 27). -/
def ageEvent (s : State) : State :=
  match s.age.run with
  | .stopped => s
  | .running _ => forEach allRecs testOverdue (forEach allRecs lowerBudget (ageClockAndBand s))

/-- R83. -/
def ownAgeStart (s : State) : State × Response :=
  match s.age.run with
  | .stopped => answer .ok (s.setAge { s.age with run := .running s.now })
  | .running _ => answer .ok s

/-- R83. -/
def ownAgeStop (s : State) : State × Response := answer .ok (s.setAge { s.age with run := .stopped })

/-- R91. -/
def ownReadAge (s : State) : State × Response :=
  let a := s.age
  (s, ⟨.ok, Config.ageRunCode a.isRunning :: u32 a.clock ++ u8 ((a.remaining s.now).getD 0) ++ u8 a.period
    ++ u8 a.mode.code ++ u8 a.fixedBand ++ u8 a.t1 ++ u8 a.t2 ++ u8 a.t3 ++ u8 a.guardGap ++ u8 a.band
    ++ optByte a.aggregate ++ u8 a.readings⟩)

end Sys2Proof.Machine
end

