-- ==== Sys2Proof/Machine/Zone.lean ====
section
/-! DEFINITION. ZONE_SETUP and ZONE_CLEAR (R162 to R164), and the notice commands (R166 to R168). -/

namespace Sys2Proof.Machine

/-! ### ZONE_SETUP (R163, with R57, R73, R92, R126) -/

/-- R162: the link and the age unit are both STOPPED. -/
def State.bothStopped (s : State) : Bool := s.line.run = .stopped && s.age.run = .stopped

/-- A byte clamped into a range. -/
def clampByte (lo hi : Nat) (b : Byte) : Nat := max lo (min hi b.toNat)

/-- R92: three thresholds sorted into rising order. -/
def sort3 (a b c : Nat) : Nat × Nat × Nat :=
  (min a (min b c), max (min a b) (min (max a b) c), max a (max b c))

/-- R92: a warmth mode code; above 2 is GUARDED. -/
def clampMode (b : Byte) : WarmthMode :=
  match b.toNat with
  | 0 => .fixed
  | 1 => .highest
  | _ => .guarded

/-- R163: a default class code; above 2 is FROZEN. -/
def clampClass (b : Byte) : StorageClass :=
  match b.toNat with
  | 0 => .ambient
  | 1 => .chilled
  | _ => .frozen

/-- R57, R52: the placement unit's weights and defaults as stored. -/
def ZoneParams.placement (p : ZoneParams) : Placement where
  wd := clampByte 0 15 p.wd
  wh := clampByte 0 15 p.wh
  wb := clampByte 0 15 p.wb
  wc := clampByte 0 255 p.wc
  defaultClass := clampClass p.defaultClass
  defaultBudget := min p.defaultBudget.toNat 4095
  defaultDueSpan := p.defaultDueSpan.toNat

/-- R163: every zone parameter is clamped and stored. -/
def storeZone (p : ZoneParams) (s : State) : State :=
  let t := sort3 (clampByte 0 62 p.t1) (clampByte 0 62 p.t2) (clampByte 0 62 p.t3)
  let s := s.setPlacement (ZoneParams.placement p)
  let s := s.setLine { s.line with
    lossThreshold := clampByte 1 15 p.lossThreshold
    probeInterval := clampByte 1 16 p.probeInterval
    replyWindow := clampByte 2 255 p.replyWindow
    lineRate := clampByte 0 3 p.lineRate
    roundPeriod := p.roundPeriod.toNat }
  let s := s.setLock { s.lock with
    placeLimit := clampByte 1 255 p.placeLimit
    liftLimit := clampByte 1 255 p.liftLimit
    surveyLimit := clampByte 1 255 p.surveyLimit }
  s.setAge { s.age with
    period := clampByte 1 255 p.agePeriod
    mode := clampMode p.warmthMode
    fixedBand := clampByte 0 3 p.fixedBand
    t1 := t.1
    t2 := t.2.1
    t3 := t.2.2
    guardGap := clampByte 0 31 p.guardGap }

/-- R162, R163. -/
def ownZoneSetup (p : ZoneParams) (s : State) : State × Response :=
  if s.bothStopped then answer .ok (storeZone p s) else answer .notStopped s

/-! ### ZONE_CLEAR (R164) -/

/-- R45: one index of the handoff table. -/
def Entry.cleared (e : Entry) : Entry := { e with gen := e.gen + 1, live := none }

/-- R20: one column. -/
def Column.cleared (r : Column) : Column :=
  { r with
    stack := [], stranded := none, strandingId := none
    service := match r.service with
      | .suspect | .fault => r.prior.toService
      | .undefined => .undefined
      | .opened => .opened
      | .draining => .draining
      | .out => .out }

/-- R127: one slot. -/
def SlotRec.cleared (r : SlotRec) : SlotRec := { r.vacated with verdict := none }

/-- R60: the lock unit, with its limits kept. -/
def LockUnit.cleared (u : LockUnit) : LockUnit :=
  { u with locks := Vector.replicate 16 none, waits := Vector.replicate 16 [], marks := Vector.replicate 64 none }

/-- R164: LOST, STRANDED and FAULT are no longer pending. -/
def NoticeUnit.cleared (n : NoticeUnit) : NoticeUnit := { n with pending := n.pending &&& ~~~(0b111#11) }.drive

/-- R164: every block's part of an accepted ZONE_CLEAR. -/
def clearZone (s : State) : State :=
  let s := s.setHandoff ⟨s.handoff.entries.map Entry.cleared, 64, []⟩
  let s := s.setColumns (s.columns.map Column.cleared)
  let s := s.setLock s.lock.cleared
  let s := s.setSurvey SurveyUnit.reset
  let s := s.setLine { s.line with slots := s.line.slots.map SlotRec.cleared }
  s.setNotice s.notice.cleared

/-- R162, R164. -/
def ownZoneClear (s : State) : State × Response :=
  if s.bothStopped then answer .ok (clearZone s) else answer .notStopped s

/-! ### Notices (R166 to R168) -/

/-- R165: the lowest slot LOST. -/
def State.lostSubject (s : State) : Option Nat := (allSlots.find? fun k => (s.slot k).link = .lost).map (·.val)

/-- R19: the lowest column in a service state. -/
def State.columnSubject (s : State) (v : Service) : Option Nat :=
  (allCols.find? fun c => (s.col c).service = v).map (·.val)

/-- R166: a subject of a kind that is not pending is none. -/
def NoticeUnit.subject {α : Type} (n : NoticeUnit) (k : NoticeKind) (o : Option α) : Option α :=
  if n.isPending k then o else none

/-- R166, R170. -/
def ownNotices (s : State) : State × Response :=
  let n := s.notice
  (s, ⟨.ok, u16 n.pending.toNat ++ u16 n.enabled.toNat
    ++ optByte (n.subject .lost s.lostSubject)
    ++ optByte (n.subject .stranded (s.columnSubject .suspect))
    ++ optByte (n.subject .fault (s.columnSubject .fault))
    ++ optHandleBytes (n.subject .overdue n.overdue) ++ optHandleBytes (n.subject .spent n.spent)
    ++ optHandleBytes (n.subject .buried n.buried) ++ optHandleBytes (n.subject .unlisted n.unlisted)
    ++ optByte ((n.subject .blockEnd n.blockEnd).map (·.val))
    ++ optByte ((n.subject .frameError n.frameError).map FrameKind.code)⟩)

/-- R167: bits 11–15 are ignored. -/
def ownNoticeAck (mask : BitVec 16) (s : State) : State × Response :=
  answer .ok (s.setNotice (s.notice.acked (mask.extractLsb' 0 11)))

/-- R168. -/
def ownNoticeEnable (mask : BitVec 16) (s : State) : State × Response :=
  answer .ok (s.setNotice { s.notice with enabled := mask.extractLsb' 0 11 }.drive)

end Sys2Proof.Machine
end

