-- ==== Sys2Proof/Machine/Port.lean ====
section
/-! DEFINITION. The planner port (R159 to R161) and reset (R169): the treatment of a frame at its end, the taking of a host
command, its finish, and the phases of RESET_N. -/

namespace Sys2Proof.Machine

/-! ### Taking a host command (R159, R160) -/

/-- R160: the bytes MISO carries in a frame of `n` bytes: the response, then 00h. -/
def clockedOut (r : Response) (n : Nat) : List Byte := (r.bytes ++ List.replicate n 0x00).take n

/-- A command is taken: its owner judges it, and the port is busy with its response until it finishes (R159). -/
def takeCommand (owner : State → State × Response) (s : State) : State :=
  let (s', r) := owner s
  s'.setPort { s'.port with busy := some (.write r) }

/-- A NOP is taken: the port is busy, and the buffer stays (R160; that NOP is busy like any command: DEDUCED, log entry
6). -/
def takeNop (s : State) : State := s.setPort { s.port with busy := some .keep }

/-- R159, R160: the buffer takes a response at once, and the port is not busy. -/
def respond (r : Result) (s : State) : State := s.setPort { s.port with buffer := ⟨r, []⟩ }

/-- R159: a frame is discarded, and FRAME_ERROR is raised with its kind. -/
def discardFrame (k : FrameKind) (s : State) : State := raiseFrameError k (respond .frame s)

/-- R159 to R161, R169: the end of a frame of `n` whole bytes, treated by `f` if it is one to be judged. A frame begun too
soon, or ending while the port is busy with the frame before it, clocks out BUSY_PORT and is discarded; one begun before the
part was ready is ignored. -/
def endFrame (n : Nat) (f : State → State) (s : State) : State :=
  match s.power with
  | .low | .counting _ => s.setPort { s.port with frame := .judged, miso := [] }
  | .ready =>
    match s.port.frame, s.port.busy with
    | .ignored, _ => s.setPort { s.port with frame := .judged, miso := [] }
    | .tooSoon, _ | .judged, some _ =>
      s.setPort { s.port with frame := .judged, miso := clockedOut ⟨.busyPort, []⟩ n }
    | .judged, none => f (s.setPort { s.port with miso := clockedOut s.port.buffer n })

/-- A host command row: the end of a well-formed frame of that command with `n` payload bytes; a payload above 40 bytes
makes the frame over-length (R159). -/
def hostFrame (n : Nat) (f : State → State) (s : State) : State :=
  endFrame (n + 2) (if n ≤ Config.maxPayload then f else discardFrame .over) s

/-! ### The owner of each command (R159, R170) -/

/-- The owner's judgment of a host command other than NOP. -/
def hostOwner : Instr → Option (State → State × Response)
  | .zoneSetup p => some (ownZoneSetup p)
  | .zoneClear => some ownZoneClear
  | .columnDefine c x y k set => some (ownColumnDefine c x y k set)
  | .columnService c v => some (ownColumnService c v)
  | .readColumn c => some (ownReadColumn c)
  | .slotMode k m => some (ownSlotMode k m)
  | .blockMode m a b => some (ownBlockMode m a b)
  | .blockEndEnable m => some (ownBlockEndEnable m)
  | .readSlot k => some (ownReadSlot k)
  | .clearLost k => some (ownClearLost k)
  | .linkStart => some ownLinkStart
  | .linkStop => some ownLinkStop
  | .readStats => some ownReadStats
  | .statsClear => some ownStatsClear
  | .ageStart => some ownAgeStart
  | .ageStop => some ownAgeStop
  | .readAge => some ownReadAge
  | .rebudget i g b => some (ownRebudget i g b)
  | .pageWrite r o t c d b n k => some (ownPageWrite r o t c d b n k)
  | .pageMerge n => some (ownPageMerge n)
  | .mergeResult => some ownMergeResult
  | .manifestFind t => some (ownManifestFind t)
  | .manifestCount => some ownManifestCount
  | .manifestClear => some ownManifestClear
  | .readHandoff i g => some (ownReadHandoff i g)
  | .findTag t => some (ownFindTag t)
  | .freeCount => some ownFreeCount
  | .assign i g k => some (ownAssign i g k)
  | .unassign i g => some (ownUnassign i g)
  | .cancel i g => some (ownCancel i g)
  | .surveyAsk c k => some (ownSurveyAsk c k)
  | .surveyRead => some ownSurveyRead
  | .surveyClear => some ownSurveyClear
  | .restack c tags => some (ownRestack c tags)
  | .notices => some ownNotices
  | .noticeAck m => some (ownNoticeAck m)
  | .noticeEnable m => some (ownNoticeEnable m)
  | .nop _ | .frameEnd .. | .frameBegunTooSoon | .commandFinish | .reset | .partReady | .roundPeriodDue
  | .replyWindowExpiry | .answerEnd .. | .answerOverlength | .emptyRoundEnd | .join .. | .leave _ | .park .. | .lock ..
  | .setDown .. | .pickUp .. | .claim .. | .yield .. | .yieldSurvey _ | .survey .. | .leaseExpiry _ | .ageEvent
  | .mergeStep | .answerStartBit | .resetNRise => none

/-- R159: what a judged frame does. -/
def judgeFrame (bytes : List Byte) (s : State) : State :=
  match readFrame bytes with
  | .under => discardFrame .under s
  | .over => discardFrame .over s
  | .unknownCode => respond .unknownCode s
  | .badLength => respond .range s
  | .command i => match hostOwner i with
    | some owner => takeCommand owner s
    | none => takeNop s

/-! ### Port and reset events -/

/-- FRAME_BEGUN_TOO_SOON (R161): CS_N falls while the port is busy, or before the part is ready (R169). -/
def beginFrameTooSoon (s : State) : State :=
  match s.power with
  | .low | .counting _ => s.setPort { s.port with frame := .ignored }
  | .ready => if s.port.busy.isSome then s.setPort { s.port with frame := .tooSoon } else s

/-- COMMAND_FINISH (R159): the response is written into the buffer, and the port's busy state ends. -/
def finishCommand (s : State) : State :=
  match s.port.busy with
  | none => s
  | some .keep => s.setPort { s.port with busy := none }
  | some (.write r) => s.setPort { s.port with busy := none, buffer := r }

/-- RESET (R169): every block returns to its power-on values, and whatever is in flight is abandoned. The model's clock and
its queue of waiting commands are none of the part's state. -/
def resetPart (s : State) : State := { State.reset with now := s.now, pending := s.pending }

/-- RESET_N_RISE (R169): the 200 µs begin. -/
def raiseResetN (s : State) : State :=
  match s.power with
  | .low => s.setPower (.counting s.now)
  | .counting _ | .ready => s

/-- PART_READY (R169): the 200 µs have ended. -/
def becomeReady (s : State) : State :=
  match s.power with
  | .counting _ => s.setPower .ready
  | .low | .ready => s

end Sys2Proof.Machine
end

