-- ==== Sys2Proof/Machine/Commands.lean ====
section
/-! DEFINITION. The meanings of the host commands: each is a well-formed frame of that command ending at the planner port,
and answers a next state in which its owner has judged it and the port is busy with its response (DESIGN CHOICE, log entry
4). -/

namespace Sys2Proof.Machine

/-- NOP (R160). -/
def execNop (filler : List Byte) (s : State) : Host.Outcome State Fault Refusal :=
  .next (hostFrame filler.length takeNop s)

/-- ZONE_SETUP (R163). -/
def execZoneSetup (p : ZoneParams) (s : State) : Host.Outcome State Fault Refusal :=
  .next (hostFrame 24 (takeCommand (ownZoneSetup p)) s)

/-- ZONE_CLEAR (R164). -/
def execZoneClear (s : State) : Host.Outcome State Fault Refusal :=
  .next (hostFrame 0 (takeCommand ownZoneClear) s)

/-- COLUMN_DEFINE (R4). -/
def execColumnDefine (col x y capacity classes : Byte) (s : State) : Host.Outcome State Fault Refusal :=
  .next (hostFrame 5 (takeCommand (ownColumnDefine col x y capacity classes)) s)

/-- COLUMN_SERVICE (R7). -/
def execColumnService (col state : Byte) (s : State) : Host.Outcome State Fault Refusal :=
  .next (hostFrame 2 (takeCommand (ownColumnService col state)) s)

/-- READ_COLUMN (R18). -/
def execReadColumn (col : Byte) (s : State) : Host.Outcome State Fault Refusal :=
  .next (hostFrame 1 (takeCommand (ownReadColumn col)) s)

/-- SLOT_MODE (R111). -/
def execSlotMode (slot mode : Byte) (s : State) : Host.Outcome State Fault Refusal :=
  .next (hostFrame 2 (takeCommand (ownSlotMode slot mode)) s)

/-- BLOCK_MODE (R114). -/
def execBlockMode (mode a b : Byte) (s : State) : Host.Outcome State Fault Refusal :=
  .next (hostFrame 3 (takeCommand (ownBlockMode mode a b)) s)

/-- BLOCK_END_ENABLE (R124). -/
def execBlockEndEnable (mask : Byte) (s : State) : Host.Outcome State Fault Refusal :=
  .next (hostFrame 1 (takeCommand (ownBlockEndEnable mask)) s)

/-- READ_SLOT (R127). -/
def execReadSlot (slot : Byte) (s : State) : Host.Outcome State Fault Refusal :=
  .next (hostFrame 1 (takeCommand (ownReadSlot slot)) s)

/-- CLEAR_LOST (R146). -/
def execClearLost (slot : Byte) (s : State) : Host.Outcome State Fault Refusal :=
  .next (hostFrame 1 (takeCommand (ownClearLost slot)) s)

/-- LINK_START (R125). -/
def execLinkStart (s : State) : Host.Outcome State Fault Refusal :=
  .next (hostFrame 0 (takeCommand ownLinkStart) s)

/-- LINK_STOP (R125). -/
def execLinkStop (s : State) : Host.Outcome State Fault Refusal :=
  .next (hostFrame 0 (takeCommand ownLinkStop) s)

/-- READ_STATS (R123). -/
def execReadStats (s : State) : Host.Outcome State Fault Refusal :=
  .next (hostFrame 0 (takeCommand ownReadStats) s)

/-- STATS_CLEAR (R123). -/
def execStatsClear (s : State) : Host.Outcome State Fault Refusal :=
  .next (hostFrame 0 (takeCommand ownStatsClear) s)

/-- AGE_START (R83). -/
def execAgeStart (s : State) : Host.Outcome State Fault Refusal :=
  .next (hostFrame 0 (takeCommand ownAgeStart) s)

/-- AGE_STOP (R83). -/
def execAgeStop (s : State) : Host.Outcome State Fault Refusal :=
  .next (hostFrame 0 (takeCommand ownAgeStop) s)

/-- READ_AGE (R91). -/
def execReadAge (s : State) : Host.Outcome State Fault Refusal :=
  .next (hostFrame 0 (takeCommand ownReadAge) s)

/-- REBUDGET (R90). -/
def execRebudget (idx gen : Byte) (budget : BitVec 16) (s : State) : Host.Outcome State Fault Refusal :=
  .next (hostFrame 4 (takeCommand (ownRebudget idx gen budget)) s)

/-- PAGE_WRITE (R98). -/
def execPageWrite (row op : Byte) (tag : Tag) (cls : Byte) (dueSpan budget orderRef : BitVec 16) (keep : Byte) (s : State) :
    Host.Outcome State Fault Refusal :=
  .next (hostFrame 14 (takeCommand (ownPageWrite row op tag cls dueSpan budget orderRef keep)) s)

/-- PAGE_MERGE (R99). -/
def execPageMerge (count : Byte) (s : State) : Host.Outcome State Fault Refusal :=
  .next (hostFrame 1 (takeCommand (ownPageMerge count)) s)

/-- MERGE_RESULT (R104). -/
def execMergeResult (s : State) : Host.Outcome State Fault Refusal :=
  .next (hostFrame 0 (takeCommand ownMergeResult) s)

/-- MANIFEST_FIND (R106). -/
def execManifestFind (tag : Tag) (s : State) : Host.Outcome State Fault Refusal :=
  .next (hostFrame 4 (takeCommand (ownManifestFind tag)) s)

/-- MANIFEST_COUNT (R106). -/
def execManifestCount (s : State) : Host.Outcome State Fault Refusal :=
  .next (hostFrame 0 (takeCommand ownManifestCount) s)

/-- MANIFEST_CLEAR (R107). -/
def execManifestClear (s : State) : Host.Outcome State Fault Refusal :=
  .next (hostFrame 0 (takeCommand ownManifestClear) s)

/-- READ_HANDOFF (R37). -/
def execReadHandoff (idx gen : Byte) (s : State) : Host.Outcome State Fault Refusal :=
  .next (hostFrame 2 (takeCommand (ownReadHandoff idx gen)) s)

/-- FIND_TAG (R38). -/
def execFindTag (tag : Tag) (s : State) : Host.Outcome State Fault Refusal :=
  .next (hostFrame 4 (takeCommand (ownFindTag tag)) s)

/-- FREE_COUNT (R24). -/
def execFreeCount (s : State) : Host.Outcome State Fault Refusal :=
  .next (hostFrame 0 (takeCommand ownFreeCount) s)

/-- ASSIGN (R39). -/
def execAssign (idx gen slot : Byte) (s : State) : Host.Outcome State Fault Refusal :=
  .next (hostFrame 3 (takeCommand (ownAssign idx gen slot)) s)

/-- UNASSIGN (R40). -/
def execUnassign (idx gen : Byte) (s : State) : Host.Outcome State Fault Refusal :=
  .next (hostFrame 2 (takeCommand (ownUnassign idx gen)) s)

/-- CANCEL (R42). -/
def execCancel (idx gen : Byte) (s : State) : Host.Outcome State Fault Refusal :=
  .next (hostFrame 2 (takeCommand (ownCancel idx gen)) s)

/-- SURVEY_ASK (R150). -/
def execSurveyAsk (col slot : Byte) (s : State) : Host.Outcome State Fault Refusal :=
  .next (hostFrame 2 (takeCommand (ownSurveyAsk col slot)) s)

/-- SURVEY_READ (R155). -/
def execSurveyRead (s : State) : Host.Outcome State Fault Refusal :=
  .next (hostFrame 0 (takeCommand ownSurveyRead) s)

/-- SURVEY_CLEAR (R155). -/
def execSurveyClear (s : State) : Host.Outcome State Fault Refusal :=
  .next (hostFrame 0 (takeCommand ownSurveyClear) s)

/-- RESTACK (R156, R157). -/
def execRestack (col : Byte) (tags : List Tag) (s : State) : Host.Outcome State Fault Refusal :=
  .next (hostFrame (1 + 4 * tags.length) (takeCommand (ownRestack col tags)) s)

/-- NOTICES (R166). -/
def execNotices (s : State) : Host.Outcome State Fault Refusal :=
  .next (hostFrame 0 (takeCommand ownNotices) s)

/-- NOTICE_ACK (R167). -/
def execNoticeAck (mask : BitVec 16) (s : State) : Host.Outcome State Fault Refusal :=
  .next (hostFrame 2 (takeCommand (ownNoticeAck mask)) s)

/-- NOTICE_ENABLE (R168). -/
def execNoticeEnable (mask : BitVec 16) (s : State) : Host.Outcome State Fault Refusal :=
  .next (hostFrame 2 (takeCommand (ownNoticeEnable mask)) s)

end Sys2Proof.Machine
end

