-- ==== Sys2Proof/Machine/Events.lean ====
section
/-! DEFINITION. The meanings of the events and of the robot requests. An event is an occurrence that its sender delivers;
one that cannot occur in a state (the expiry of a window that is not open, the step of a merge that is not in flight) changes
nothing there (DESIGN CHOICE, log entry 2). A robot request is the end of the exchange in progress with a valid answer that
carries it (R46, R118; DESIGN CHOICE, log entry 4). -/

namespace Sys2Proof.Machine

/-- FRAME_END (R159, R161): the end of a frame, judged by its whole bytes; the bits of an incomplete byte are discarded. -/
def execFrameEnd (bytes : List Byte) (_leftover : Fin 8) (s : State) : Host.Outcome State Fault Refusal :=
  .next (endFrame bytes.length (judgeFrame bytes) s)

/-- FRAME_BEGUN_TOO_SOON (R161): CS_N falls while the port is busy. -/
def execFrameBegunTooSoon (s : State) : Host.Outcome State Fault Refusal :=
  .next (beginFrameTooSoon s)

/-- COMMAND_FINISH (R159): the command in progress finishes. -/
def execCommandFinish (s : State) : Host.Outcome State Fault Refusal :=
  .next (finishCommand s)

/-- RESET (R169): power-on, or a low level on RESET_N. -/
def execReset (s : State) : Host.Outcome State Fault Refusal :=
  .next (resetPart s)

/-- PART_READY (R169): 200 µs after RESET_N has risen. -/
def execPartReady (s : State) : Host.Outcome State Fault Refusal :=
  .next (becomeReady s)

/-- ROUND_PERIOD_DUE (R122): the round period elapses. -/
def execRoundPeriodDue (s : State) : Host.Outcome State Fault Refusal :=
  .next (roundDue s)

/-- REPLY_WINDOW_EXPIRY (R116): the reply window runs out. -/
def execReplyWindowExpiry (s : State) : Host.Outcome State Fault Refusal :=
  .next (expireWindow s)

/-- ANSWER_END (R116, R117): the line goes idle after a received answer. -/
def execAnswerEnd (bytes : List Byte) (badStop : Bool) (s : State) : Host.Outcome State Fault Refusal :=
  .next (receiveAnswer bytes badStop s)

/-- ANSWER_OVERLENGTH (R116, R117): 40 bytes have been received, and the answer is spoiled. -/
def execAnswerOverlength (s : State) : Host.Outcome State Fault Refusal :=
  .next (endReception noAnswer s)

/-- EMPTY_ROUND_END (R122): a round in which no CALL is sent ends. -/
def execEmptyRoundEnd (s : State) : Host.Outcome State Fault Refusal :=
  .next (endEmptyRound s)

/-- LEASE_EXPIRY (R74): the lease of a column's lock runs out; a free lock has no lease (R73). -/
def execLeaseExpiry (c : Col) (s : State) : Host.Outcome State Fault Refusal :=
  .next (expireLock c s)

/-- AGE_EVENT (R84): the age period timer expires. -/
def execAgeEvent (s : State) : Host.Outcome State Fault Refusal :=
  .next (ageEvent s)

/-- MERGE_STEP (R100): one row of the merging page is taken. -/
def execMergeStep (s : State) : Host.Outcome State Fault Refusal :=
  .next (mergeStep s)

/-- ANSWER_START_BIT (R116): the first start bit of an answer. -/
def execAnswerStartBit (s : State) : Host.Outcome State Fault Refusal :=
  .next (openReception s)

/-- RESET_N_RISE (R169): RESET_N rises. -/
def execResetNRise (s : State) : Host.Outcome State Fault Refusal :=
  .next (raiseResetN s)

/-- JOIN (R119, R120), in a valid answer with this status. -/
def execJoin (st : Status) (id : RobotId) (s : State) : Host.Outcome State Fault Refusal :=
  .next (answered st (some (.join id)) s)

/-- LEAVE (R121), in a valid answer with this status. -/
def execLeave (st : Status) (s : State) : Host.Outcome State Fault Refusal :=
  .next (answered st (some .leave) s)

/-- PARK (R47), in a valid answer with this status. -/
def execPark (st : Status) (tag : Tag) (s : State) : Host.Outcome State Fault Refusal :=
  .next (answered st (some (.park tag)) s)

/-- LOCK (R62), in a valid answer with this status. -/
def execLock (st : Status) (col : Byte) (h : Option Handle) (s : State) : Host.Outcome State Fault Refusal :=
  .next (answered st (some (.lock col h)) s)

/-- SET_DOWN (R135), in a valid answer with this status. -/
def execSetDown (st : Status) (h : Handle) (s : State) : Host.Outcome State Fault Refusal :=
  .next (answered st (some (.setDown h)) s)

/-- PICK_UP (R137, R138), in a valid answer with this status. -/
def execPickUp (st : Status) (h : Handle) (s : State) : Host.Outcome State Fault Refusal :=
  .next (answered st (some (.pickUp h)) s)

/-- CLAIM (R140), in a valid answer with this status. -/
def execClaim (st : Status) (tag : Tag) (s : State) : Host.Outcome State Fault Refusal :=
  .next (answered st (some (.claim tag)) s)

/-- YIELD (R142), in a valid answer with this status. -/
def execYield (st : Status) (h : Handle) (s : State) : Host.Outcome State Fault Refusal :=
  .next (answered st (some (.yield h)) s)

/-- YIELD_SURVEY (R143), in a valid answer with this status. -/
def execYieldSurvey (st : Status) (s : State) : Host.Outcome State Fault Refusal :=
  .next (answered st (some .yieldSurvey) s)

/-- SURVEY (R151), in a valid answer with this status. -/
def execSurvey (st : Status) (col : Byte) (tags : List Tag) (s : State) : Host.Outcome State Fault Refusal :=
  .next (answered st (some (.survey col tags)) s)

end Sys2Proof.Machine
end

