-- ==== Sys2Proof/Machine/Dispatch.lean ====
section
/-! DEFINITION. One arm for each row of spec/opcode_table.json, in the table's order. -/

namespace Sys2Proof.Machine

def exec (i : Instr) (s : State) : Host.Outcome State Fault Refusal :=
  match i with
  | .nop filler => Sys2Proof.Machine.execNop filler s
  | .zoneSetup p => Sys2Proof.Machine.execZoneSetup p s
  | .zoneClear => Sys2Proof.Machine.execZoneClear s
  | .columnDefine col x y capacity classes => Sys2Proof.Machine.execColumnDefine col x y capacity classes s
  | .columnService col state => Sys2Proof.Machine.execColumnService col state s
  | .readColumn col => Sys2Proof.Machine.execReadColumn col s
  | .slotMode slot mode => Sys2Proof.Machine.execSlotMode slot mode s
  | .blockMode mode a b => Sys2Proof.Machine.execBlockMode mode a b s
  | .blockEndEnable mask => Sys2Proof.Machine.execBlockEndEnable mask s
  | .readSlot slot => Sys2Proof.Machine.execReadSlot slot s
  | .clearLost slot => Sys2Proof.Machine.execClearLost slot s
  | .linkStart => Sys2Proof.Machine.execLinkStart s
  | .linkStop => Sys2Proof.Machine.execLinkStop s
  | .readStats => Sys2Proof.Machine.execReadStats s
  | .statsClear => Sys2Proof.Machine.execStatsClear s
  | .ageStart => Sys2Proof.Machine.execAgeStart s
  | .ageStop => Sys2Proof.Machine.execAgeStop s
  | .readAge => Sys2Proof.Machine.execReadAge s
  | .rebudget idx gen budget => Sys2Proof.Machine.execRebudget idx gen budget s
  | .pageWrite row op tag cls dueSpan budget orderRef keep => Sys2Proof.Machine.execPageWrite row op tag cls dueSpan budget orderRef keep s
  | .pageMerge count => Sys2Proof.Machine.execPageMerge count s
  | .mergeResult => Sys2Proof.Machine.execMergeResult s
  | .manifestFind tag => Sys2Proof.Machine.execManifestFind tag s
  | .manifestCount => Sys2Proof.Machine.execManifestCount s
  | .manifestClear => Sys2Proof.Machine.execManifestClear s
  | .readHandoff idx gen => Sys2Proof.Machine.execReadHandoff idx gen s
  | .findTag tag => Sys2Proof.Machine.execFindTag tag s
  | .freeCount => Sys2Proof.Machine.execFreeCount s
  | .assign idx gen slot => Sys2Proof.Machine.execAssign idx gen slot s
  | .unassign idx gen => Sys2Proof.Machine.execUnassign idx gen s
  | .cancel idx gen => Sys2Proof.Machine.execCancel idx gen s
  | .surveyAsk col slot => Sys2Proof.Machine.execSurveyAsk col slot s
  | .surveyRead => Sys2Proof.Machine.execSurveyRead s
  | .surveyClear => Sys2Proof.Machine.execSurveyClear s
  | .restack col tags => Sys2Proof.Machine.execRestack col tags s
  | .notices => Sys2Proof.Machine.execNotices s
  | .noticeAck mask => Sys2Proof.Machine.execNoticeAck mask s
  | .noticeEnable mask => Sys2Proof.Machine.execNoticeEnable mask s
  | .frameEnd bytes leftover => Sys2Proof.Machine.execFrameEnd bytes leftover s
  | .frameBegunTooSoon => Sys2Proof.Machine.execFrameBegunTooSoon s
  | .commandFinish => Sys2Proof.Machine.execCommandFinish s
  | .reset => Sys2Proof.Machine.execReset s
  | .partReady => Sys2Proof.Machine.execPartReady s
  | .roundPeriodDue => Sys2Proof.Machine.execRoundPeriodDue s
  | .replyWindowExpiry => Sys2Proof.Machine.execReplyWindowExpiry s
  | .answerEnd bytes badStop => Sys2Proof.Machine.execAnswerEnd bytes badStop s
  | .answerOverlength => Sys2Proof.Machine.execAnswerOverlength s
  | .emptyRoundEnd => Sys2Proof.Machine.execEmptyRoundEnd s
  | .join st id => Sys2Proof.Machine.execJoin st id s
  | .leave st => Sys2Proof.Machine.execLeave st s
  | .park st tag => Sys2Proof.Machine.execPark st tag s
  | .lock st col h => Sys2Proof.Machine.execLock st col h s
  | .setDown st h => Sys2Proof.Machine.execSetDown st h s
  | .pickUp st h => Sys2Proof.Machine.execPickUp st h s
  | .claim st tag => Sys2Proof.Machine.execClaim st tag s
  | .yield st h => Sys2Proof.Machine.execYield st h s
  | .yieldSurvey st => Sys2Proof.Machine.execYieldSurvey st s
  | .survey st col tags => Sys2Proof.Machine.execSurvey st col tags s
  | .leaseExpiry c => Sys2Proof.Machine.execLeaseExpiry c s
  | .ageEvent => Sys2Proof.Machine.execAgeEvent s
  | .mergeStep => Sys2Proof.Machine.execMergeStep s
  | .answerStartBit => Sys2Proof.Machine.execAnswerStartBit s
  | .resetNRise => Sys2Proof.Machine.execResetNRise s

end Sys2Proof.Machine
end

