-- ==== Sys2Proof/Safety.lean ====
section
/-! DEFINITION. What counts as a safe state: the laws of the device that the manual names as such, each a predicate of one
state, with the facts about the tables that keep them from step to step. -/

namespace Sys2Proof.Safety

open Sys2Proof.Machine

/-- R168: ATTN_N is low exactly while a kind is both pending and enabled. -/
abbrev AttnFollowsNotices (s : State) : Prop := s.notice.attnN = decide (s.notice.pending &&& s.notice.enabled = 0)

/-- R24: the free count is the number of free indices. -/
abbrev FreeCounted (s : State) : Prop := s.handoff.freeCount = (allRecs.filter fun i => (s.live i).isNone).length

/-- R25, R21: the tags of live records are nonzero, and no two live records carry the same tag. -/
abbrev TagsUnique (s : State) : Prop :=
  (∀ i, ∀ r ∈ s.live i, r.tag ≠ 0) ∧ ∀ i j, ∀ r ∈ s.live i, ∀ q ∈ s.live j, r.tag = q.tag → i = j

/-- R95: the manifest map holds at most 256 entries with nonzero tags, no two with the same tag; the model keeps the tags
rising. -/
abbrev MapInForm (s : State) : Prop :=
  s.manifest.map.Pairwise (fun a b => a.tag.toNat < b.tag.toNat) ∧ (∀ e ∈ s.manifest.map, e.tag ≠ 0) ∧
    s.manifest.map.length ≤ Config.mapSize

/-- R87: every exposure budget stays within 0–4095, with the places a record's budget comes from. -/
abbrev BudgetsBounded (s : State) : Prop :=
  (∀ i, ∀ r ∈ s.live i, r.budget ≤ 4095) ∧ (∀ e ∈ s.manifest.map, e.budget ≤ 4095) ∧
    (∀ r ∈ s.manifest.p0.rows.toList, r.budget ≤ 4095) ∧ (∀ r ∈ s.manifest.p1.rows.toList, r.budget ≤ 4095) ∧
    s.placement.defaultBudget ≤ 4095

/-- R97, R100, R104: one page is FILLING and the other is EMPTY with no merge in flight, or MERGING with its merge in flight,
whose five counts sum to the steps taken. -/
abbrev PagesInForm (s : State) : Prop :=
  let m := s.manifest
  (m.page m.filling).state = .filling ∧ (m.merge = none → (m.page m.filling.other).state = .empty) ∧
    ∀ g ∈ m.merge, g.page = m.filling.other ∧ (m.page g.page).state = .merging ∧ g.taken < g.count ∧
      g.count ≤ Config.pageRows ∧
      g.tally.inserted + g.tally.replaced + g.tally.deleted + g.tally.absent + g.tally.refused = g.taken

/-- R82: the age clock never reaches the value of "no deadline". -/
abbrev ClockBounded (s : State) : Prop := s.age.clock ≤ lastClock

/-- Every slot that is holder of a lock, and every slot of a wait list entry, as often as it is one. -/
def positions (s : State) : List Slot :=
  allCols.flatMap fun c => ((s.lockOf c).map (·.holder)).toList ++ (s.waitsOf c).map (·.slot)

/-- R61: a slot is holder of at most one lock or entry of at most one wait list, not both, and a wait list holds at most 4
entries. -/
abbrev OnePosition (s : State) : Prop :=
  (positions s).Nodup ∧ ∀ c, (s.waitsOf c).length ≤ Config.waitPlaces

/-- R110, R112: a LIVE or LOST slot holds a robot id, a VACANT slot holds none and no misses, and no two LIVE slots hold the
same id. -/
abbrev SlotsInForm (s : State) : Prop :=
  (∀ k, (s.slot k).link = .vacant ↔ (s.slot k).robotId = none) ∧ (∀ k, (s.slot k).link = .vacant → (s.slot k).miss = 0) ∧
    ∀ j k, (s.slot j).link = .live → (s.slot k).link = .live → (s.slot j).robotId = (s.slot k).robotId → j = k

/-- R110, R129: what a slot record holds stays within its ranges. -/
abbrev SlotRanges (s : State) : Prop :=
  ∀ k, (s.slot k).miss ≤ 15 ∧ (s.slot k).x ≤ 127 ∧ (s.slot k).y ≤ 127 ∧ (s.slot k).temp ≤ 63

/-! ### The relay table (the laws of R11, R14, R16, R26, R31, R33, R61, R71, R112 and R147) -/

/-- R26: the record stands in its column's stack. -/
abbrev stands (r : Record) : Prop :=
  r.state = .parked ∨ r.state = .promised ∨ r.state = .lifting ∨ (r.state = .stranded ∧ r.strandedFrom = some .lifting)

/-- R26: the record is that of a placement, which names its releaser. -/
abbrev isPlacement (r : Record) : Prop :=
  r.state = .reserved ∨ r.state = .placing ∨ (r.state = .stranded ∧ r.strandedFrom = some .placing)

/-- The column takes LOCKs for PLACE and LIFT (R5). -/
abbrev inService (s : State) (c : Col) : Prop := (s.col c).service = .opened ∨ (s.col c).service = .draining

/-- R26: the optional fields of a live record follow its state. -/
abbrev FieldsFit (s : State) : Prop :=
  ∀ i, ∀ r ∈ s.live i,
    (r.strandedFrom.isSome ↔ r.state = .stranded) ∧ (r.level.isSome ↔ stands r) ∧ (isPlacement r → r.releaser.isSome) ∧
      (r.collector.isSome ↔
        r.state = .promised ∨ r.state = .lifting ∨ (r.state = .stranded ∧ r.strandedFrom = some .lifting))

/-- R11: every record that stands appears in the stack of its column at its level, and every stack entry is such a
record. -/
abbrev StacksFit (s : State) : Prop :=
  (∀ i, ∀ r ∈ s.live i, ∀ l ∈ r.level, (s.col r.column).stack[l]? = some (s.handleAt i)) ∧
    ∀ c, ∀ p ∈ (s.col c).stack.zipIdx, ∃ r ∈ s.named p.1, r.column = c ∧ r.level = some p.2

/-- R60, R31: a PLACING or LIFTING record's robot holds its column's lock for it, and a lifted record is on top. -/
abbrev WorkIsLocked (s : State) : Prop :=
  ∀ i, ∀ r ∈ s.live i,
    (r.state = .placing →
      ∃ l ∈ s.lockOf r.column, l.hold = .work .place (s.handleAt i) ∧ r.releaser = some l.holder) ∧
    (r.state = .lifting →
      (∃ l ∈ s.lockOf r.column, l.hold = .work .lift (s.handleAt i) ∧ r.collector = some l.holder) ∧
        s.top r.column = some (s.handleAt i))

/-- R5, R65: a PLACE or LIFT lock is held for a PLACING or LIFTING record of a column in service, and a SURVEY lock by the
designated surveyor of a SUSPECT column. -/
abbrev LocksFit (s : State) : Prop :=
  ∀ c, ∀ l ∈ s.lockOf c,
    (∀ h ∈ l.hold.handle, inService s c ∧ ∃ r ∈ s.named h, r.column = c ∧
        (r.state = .placing ∧ l.hold = .work .place h ∨ r.state = .lifting ∧ l.hold = .work .lift h)) ∧
      (l.hold = .survey → (s.col c).service = .suspect ∧ s.surveyor c = some l.holder)

/-- R147: a STRANDED record is the stranded record of its column, a stranded lift is on top, and a column has a stranded
record exactly while it is SUSPECT or FAULT. -/
abbrev StrandingsFit (s : State) : Prop :=
  (∀ i, ∀ r ∈ s.live i, r.state = .stranded →
      (s.col r.column).stranded = some (s.handleAt i) ∧
        (r.strandedFrom = some .lifting → s.top r.column = some (s.handleAt i))) ∧
    ∀ c, ((s.col c).stranded.isSome ↔ (s.col c).service = .suspect ∨ (s.col c).service = .fault) ∧
      ((s.col c).strandingId.isSome ↔ (s.col c).stranded.isSome) ∧
      ∀ h ∈ (s.col c).stranded, ∃ r ∈ s.named h, r.state = .stranded ∧ r.column = c

/-- R61, R63, R71: a wait list entry belongs to a column in service and names a record that fits its slot, and while the
lock is free each entry is that of a lifter whose bin is not on top. -/
abbrev WaitersFit (s : State) : Prop :=
  ∀ c, ∀ e ∈ s.waitsOf c,
    inService s c ∧ (∃ r ∈ s.named e.handle, r.fits e.slot c = some e.work) ∧
      (s.lockOf c = none → e.work = .lift ∧ s.top c ≠ some e.handle)

/-- R112: a slot that is not LIVE holds no lock, no wait place and no expired mark, is surveyor of no column, and is
releaser of no RESERVED or PLACING and collector of no PROMISED or LIFTING record. -/
abbrev OnlyLiveHold (s : State) : Prop :=
  (∀ c, ∀ l ∈ s.lockOf c, s.isLive l.holder) ∧ (∀ c, ∀ e ∈ s.waitsOf c, s.isLive e.slot) ∧
    (∀ k, (s.mark k).isSome → s.isLive k) ∧ (∀ c, ∀ k ∈ s.surveyor c, s.isLive k) ∧
    ∀ i, ∀ r ∈ s.live i,
      (r.reserves → ∀ k ∈ r.releaser, s.isLive k) ∧
        (r.state = .promised ∨ r.state = .lifting → ∀ k ∈ r.collector, s.isLive k)

/-- R150: only a SUSPECT column has a surveyor. -/
abbrev SurveyorsFit (s : State) : Prop := ∀ c, (s.surveyor c).isSome → (s.col c).service = .suspect

/-- R33: a slot is releaser of at most one record in RESERVED or PLACING. -/
abbrev OneReservation (s : State) : Prop := ∀ k, (s.recordsWhere (·.reservedBy k)).length ≤ 1

/-- R14, R5: the load of a column never exceeds its capacity, which is at most 6, and a column that is UNDEFINED or OUT has
a load of 0 and a free lock. -/
abbrev LoadsFit (s : State) : Prop :=
  ∀ c, s.load c ≤ (s.col c).capacity ∧ (s.col c).capacity ≤ 6 ∧
    ((s.col c).service = .undefined ∨ (s.col c).service = .out → s.load c = 0 ∧ s.lockOf c = none)

/-- R16: the buried flag of a record is set exactly while it is PROMISED with a depth above 0. -/
abbrev BuriedFit (s : State) : Prop := ∀ i, ∀ r ∈ s.live i, r.buried = s.isBuried r

/-- R157: the handoff table keeps the order in which its live records were made. -/
abbrev OrderFits (s : State) : Prop := s.handoff.order.Nodup ∧ ∀ i, i ∈ s.handoff.order ↔ (s.live i).isSome

/-- The exchange in progress, if one is (R116). -/
def exchangeOf (s : State) : Option Exchange :=
  match s.line.phase with
  | .calling x => some x
  | .idle | .emptyRound | .waiting => none

/-- R115, R125: a regular CALL goes to a LIVE slot and a probe to a VACANT one, and a round is in progress or waited for
only while the link is not STOPPED. -/
abbrev CallsFit (s : State) : Prop :=
  (s.line.phase = .idle → s.line.run = .stopped) ∧
    (s.line.phase = .emptyRound ∨ s.line.phase = .waiting → s.line.run = .running) ∧
    ∀ x ∈ exchangeOf s, s.line.run ≠ .stopped ∧ (x.kind = .regular → (s.slot x.slot).link = .live) ∧
      (x.kind = .probe → (s.slot x.slot).link = .vacant)

/-- The laws of the relay table together: none of them is kept alone. -/
structure Coherent (s : State) : Prop where
  tags : TagsUnique s
  count : FreeCounted s
  order : OrderFits s
  slots : SlotsInForm s
  calls : CallsFit s
  positions : OnePosition s
  fields : FieldsFit s
  stacked : StacksFit s
  work : WorkIsLocked s
  locks : LocksFit s
  strandings : StrandingsFit s
  waiters : WaitersFit s
  live : OnlyLiveHold s
  surveyors : SurveyorsFit s
  reservations : OneReservation s
  loads : LoadsFit s
  buried : BuriedFit s

/-! ### The terms of the statements -/

/-- The parts of the state other than the queue and the model's clock. -/
inductive Part | power | port | notice | line | columns | handoff | placement | lock | age | manifest | survey
  deriving DecidableEq, Repr

/-- A part is the same in two states. -/
def SamePart (s t : State) : Part → Prop
  | .power => t.power = s.power
  | .port => t.port = s.port
  | .notice => t.notice = s.notice
  | .line => t.line = s.line
  | .columns => t.columns = s.columns
  | .handoff => t.handoff = s.handoff
  | .placement => t.placement = s.placement
  | .lock => t.lock = s.lock
  | .age => t.age = s.age
  | .manifest => t.manifest = s.manifest
  | .survey => t.survey = s.survey

/-- Nothing but these parts differs between two states. -/
def OnlyChanges (ps : List Part) (s t : State) : Prop :=
  t.pending = s.pending ∧ t.now = s.now ∧ ∀ p, p ∉ ps → SamePart s t p

/-- The port judges the next frame at its end: it is ready, not busy, and the frame was not begun too soon (R159, R161,
R169). -/
abbrev PortFree (s : State) : Prop := s.power = .ready ∧ s.port.frame = .judged ∧ s.port.busy = none

/-- R160: what MISO carries in a frame of `n` bytes: the response held, then 00h, as far as the frame goes. -/
def shifted (s : State) (n : Nat) : List Byte :=
  ((Result.code s.port.buffer.status :: s.port.buffer.data) ++ List.replicate n 0x00).take n

/-- `s` after a frame of `n` payload bytes whose command was taken: its owner has left the blocks as in `u`, and the port is
busy with the response `r` until the command finishes (R159). -/
def commandTaken (s u : State) (n : Nat) (r : Response) : State :=
  { u with port := { s.port with miso := shifted s (n + 2), busy := some (.write r) } }

/-- Slot `k` is being called with a CALL of this kind, and its answer is in reception (R116). -/
abbrev Hears (s : State) (k : Slot) (kind : CallKind) : Prop :=
  ∃ x ∈ exchangeOf s, x.slot = k ∧ x.kind = kind ∧ x.receiving = true

/-! ### How a round goes on (R113 to R116, R122 to R125) -/

/-- R165: a notice unit after one kind is raised. -/
def afterRaising (b : Nat) (n : NoticeUnit) : NoticeUnit :=
  { n with
    pending := n.pending ||| BitVec.twoPow 11 b
    attnN := decide ((n.pending ||| BitVec.twoPow 11 b) &&& n.enabled = 0) }

/-- R114, R115: the CALL that a slot receives when the round reaches it, its block being called. -/
def calledNow (s : State) (k : Slot) : Option CallKind :=
  if s.calls ⟨k.val / 8, by omega⟩ then s.selects k else none

/-- R113: the CALL that slot `j` receives from a round that has passed slot `after`, or has just begun. The block of the
slot passed is being called already. -/
def calledAfter (s : State) (after : Option Slot) (j : Slot) : Option CallKind :=
  match after with
  | none => calledNow s j
  | some k => if j ≤ k then none else if j.val / 8 = k.val / 8 then s.selects j else calledNow s j

/-- R124: the blocks that have their end in a round that goes from slot `after` (or from its beginning) to slot `next` (or to
its end), and whose block-end enable is set, in rising order. -/
def endsOnTheWay (s : State) (after next : Option Slot) : List Block :=
  (List.finRange 8).filter fun b =>
    (match after with
      | none => s.calls b
      | some k => decide (b.val = k.val / 8) || (decide (k.val / 8 < b.val) && s.calls b)) &&
    (match next with
      | none => true
      | some j => decide (b.val < j.val / 8)) &&
    s.line.blockEndEnable.getLsbD b.val

/-- R124: the notice unit after these block ends: BLOCK_END is raised with the last of them as its subject, in place of the
subject held. -/
def afterBlockEnds (l : List Block) (n : NoticeUnit) : NoticeUnit :=
  match l.getLast? with
  | none => n
  | some b => afterRaising 9 { n with blockEnd := some b }

/-- R113, R116, R119, R124: `t` is `s` once its round has gone on from slot `after`, or from its beginning, to the CALL of
slot `j`, the first that is called. The CALL is built from the slot's standing and verdict; a probe carries the standing NONE
and drops the verdict. -/
def GoesTo (s t : State) (after : Option Slot) (j : Slot) (kind : CallKind) : Prop :=
  calledAfter s after j = some kind ∧ (∀ i, i < j → calledAfter s after i = none) ∧
    t = { s with
      notice := afterBlockEnds (endsOnTheWay s after (some j)) s.notice
      line := { s.line with
        phase := .calling
          ⟨j, kind, callFrame j kind (if kind = .probe then .none else s.standing j) (s.slot j).verdict, s.now, false⟩
        slots := if kind = .probe then s.line.slots.set j { s.slot j with verdict := none } else s.line.slots } }

/-- R113: a state in which a round has just been opened: its number, its probe mark, the modes and the block mode in force,
and its start. -/
def roundOpened (s : State) : State :=
  let n := match s.line.roundNo with
    | none => 0
    | some n => (n + 1) % 65536
  { s with
    line := { s.line with
      roundNo := some n
      probe := decide (n % s.line.probeInterval = 0)
      roundStart := s.now
      dueAt := none
      slots := s.line.slots.map fun r => { r with mode := r.nextMode }
      blockMode := s.line.nextBlockMode } }

/-- R113, R122: `t` is `s` just after a round has begun: it has gone to its first CALL, or it is one in which no CALL is
sent. Nothing else differs. -/
def RoundBegun (s t : State) : Prop :=
  (∃ j kind, GoesTo (roundOpened s) t none j kind) ∨
    ((∀ j, calledAfter (roundOpened s) none j = none) ∧
      t = { roundOpened s with
        notice := afterBlockEnds (endsOnTheWay (roundOpened s) none none) s.notice
        line := { (roundOpened s).line with phase := .emptyRound } })

/-- R122, R123: `t` is `s` just after the end of its round. The round has been measured, LATE_ROUND is raised if the next
round came due before now, and the next round is waited for, or has begun at once. Nothing else differs. -/
def RoundEnded (s t : State) : Prop :=
  let d := min 65535 ((s.now - s.line.roundStart) / 10)
  let m : State :=
    { s with
      line := { s.line with
        lastDuration := d, minDuration := min d s.line.minDuration, maxDuration := max d s.line.maxDuration }
      notice := if ∃ n ∈ s.line.dueAt, n < s.now then afterRaising 8 s.notice else s.notice }
  (s.line.roundPeriod ≠ 0 → s.line.dueAt = none → t = m.setPhase .waiting) ∧
    (s.line.roundPeriod = 0 ∨ s.line.dueAt.isSome → RoundBegun m t)

/-- R113, R125: what follows the end of the exchange with slot `k`. A STOPPING link becomes STOPPED, with no block end, no
measure and no LATE_ROUND (R122 to R124). On a RUNNING link the round goes on to its next CALL, or has passed its last slot
and ends. Nothing else differs. -/
def ExchangeFollowed (s t : State) (k : Slot) : Prop :=
  (s.line.run = .stopping → t = { s with line := { s.line with run := .stopped, phase := .idle } }) ∧
    (s.line.run = .running → (∃ j kind, GoesTo s t (some k) j kind) ∨
      ((∀ j, calledAfter s (some k) j = none) ∧
        RoundEnded { s with notice := afterBlockEnds (endsOnTheWay s (some k) none) s.notice } t))

/-- `t` is `u` after the line has gone on from the exchange in progress: what `ExchangeFollowed` says, but for the moment of
a window's expiry, and with it that only the line controller moves on (a new round copies modes, and a probe drops the verdict
it carries), and that only BLOCK_END and LATE_ROUND are raised (R113, R119, R122, R124). -/
structure LineGoesOn (u t : State) : Prop where
  follows : ∀ x ∈ exchangeOf u,
    ExchangeFollowed u { t with line := { t.line with lastExpiry := u.line.lastExpiry } } x.slot
  rest : OnlyChanges [.line, .notice] u t
  slots : ∀ j, { t.slot j with mode := (u.slot j).mode, verdict := (u.slot j).verdict } = u.slot j
  verdicts : ∀ j, (t.slot j).verdict = (u.slot j).verdict ∨ ((u.slot j).link = .vacant ∧ (t.slot j).verdict = none)
  notices : ∀ b, b ≠ 8 → b ≠ 9 → t.notice.pending.getLsbD b = u.notice.pending.getLsbD b
  subjects : t.notice.overdue = u.notice.overdue ∧ t.notice.spent = u.notice.spent ∧
    t.notice.buried = u.notice.buried ∧ t.notice.unlisted = u.notice.unlisted ∧
    t.notice.frameError = u.notice.frameError ∧ t.notice.enabled = u.notice.enabled

/-! ### Answers -/

/-- `u` is `s` after the end of an exchange has been taken and before the line goes on: the modes, the round and its figures,
and the notices of the rounds are as they were. -/
structure EndTaken (s u : State) : Prop where
  rest : OnlyChanges [.line, .notice, .columns, .handoff, .lock, .manifest, .survey] s u
  line : u.line = { s.line with slots := u.line.slots }
  modes : ∀ j, (u.slot j).mode = (s.slot j).mode ∧ (u.slot j).nextMode = (s.slot j).nextMode
  notices : u.notice.pending.getLsbD 8 = s.notice.pending.getLsbD 8 ∧
    u.notice.pending.getLsbD 9 = s.notice.pending.getLsbD 9 ∧ u.notice.blockEnd = s.notice.blockEnd ∧
    u.notice.frameError = s.notice.frameError ∧ u.notice.enabled = s.notice.enabled

/-- R129, R118: a slot record after a valid answer with this status, with the verdict now pending. -/
def slotAfter (r : SlotRec) (st : Status) (v : Option Verdict) : SlotRec :=
  { r with
    miss := 0
    x := if 127 < st.x.toNat then 127 else st.x.toNat
    y := if 127 < st.y.toNat then 127 else st.y.toNat
    temp := if 63 < st.temp.toNat then 63 else st.temp.toNat
    cond := if st.cond = 0 then .ready else if st.cond = 1 then .busy else .fault
    carried := st.carried
    verdict := v }

/-- R76, R77: the condition of the answer ends no lock and removes no wait place: it is READY or BUSY, or the slot holds no
lock and waits for none. -/
abbrev Sound (s : State) (k : Slot) (st : Status) : Prop := st.cond = 0 ∨ st.cond = 1 ∨ k ∉ positions s

/-- A called slot that is not QUIET answers a regular CALL with a sound condition. -/
abbrev Reports (s : State) (k : Slot) (st : Status) : Prop :=
  Hears s k .regular ∧ (s.slot k).mode ≠ .quiet ∧ Sound s k st

/-- `u` is `s` as far as slot `k`, its answer and its verdict `v` go: its record is that of the answer, its expired mark is
clear, and the rest of the line controller and the other marks are as they were (R118, R78). -/
structure Answered (s u : State) (k : Slot) (st : Status) (v : Verdict) : Prop where
  slot : u.slot k = slotAfter (s.slot k) st (some v)
  others : ∀ j, j ≠ k → u.slot j = s.slot j
  line : u.line = { s.line with slots := u.line.slots }
  mark : u.mark k = none
  marks : ∀ j, j ≠ k → u.mark j = s.mark j
  limits : u.lock.placeLimit = s.lock.placeLimit ∧ u.lock.liftLimit = s.lock.liftLimit ∧
    u.lock.surveyLimit = s.lock.surveyLimit

/-- The command `i` completes with the answer of slot `k` taken, its verdict `v`, and `changes` true of the state before and
the state in which the answer has been taken; nothing else differs but the parts `ps`, the line controller and the marks. -/
def Takes (s : State) (i : Instr) (k : Slot) (st : Status) (v : Verdict) (ps : List Part) (changes : State → Prop) : Prop :=
  ∃ u t, exec i s = .next t ∧ LineGoesOn u t ∧ Answered s u k st v ∧ OnlyChanges (.line :: .lock :: ps) s u ∧ changes u

/-- The lock unit keeps its holders and wait lists. -/
abbrev SameLocks (s u : State) : Prop := ∀ c, u.lockOf c = s.lockOf c ∧ u.waitsOf c = s.waitsOf c

/-- R1: the command `i` completes with a verdict that changes nothing: the answer is taken, and that is all. -/
def Refuses (s : State) (i : Instr) (k : Slot) (st : Status) (v : Verdict) : Prop :=
  Takes s i k st v [] (SameLocks s)

/-- Only the locks and the wait list of column `c` may differ. -/
abbrev SameLocksBut (c : Col) (s u : State) : Prop := ∀ d, d ≠ c → u.lockOf d = s.lockOf d ∧ u.waitsOf d = s.waitsOf d

/-- Only column `c` may differ in the column table. -/
abbrev SameColumnsBut (c : Col) (s u : State) : Prop := ∀ d, d ≠ c → u.col d = s.col d

/-- Only the index `i` may differ in the handoff table. -/
abbrev SameEntriesBut (i : RecIdx) (s u : State) : Prop := ∀ j, j ≠ i → u.entry j = s.entry j

/-- The handoff table keeps its free count and its order. -/
abbrev SameCounts (s u : State) : Prop :=
  u.handoff.freeCount = s.handoff.freeCount ∧ u.handoff.order = s.handoff.order

/-- The command codes of R170 whose payload has one length, with that length. -/
def fixedPayloads : List (Nat × Nat) :=
  [(0x01, 24), (0x02, 0), (0x10, 5), (0x11, 2), (0x12, 1), (0x20, 2), (0x21, 3), (0x22, 1), (0x23, 1), (0x24, 1),
    (0x25, 0), (0x26, 0), (0x27, 0), (0x28, 0), (0x30, 0), (0x31, 0), (0x32, 0), (0x33, 4), (0x40, 14), (0x41, 1),
    (0x42, 0), (0x43, 4), (0x44, 0), (0x45, 0), (0x50, 2), (0x51, 4), (0x52, 0), (0x53, 3), (0x54, 2), (0x55, 2),
    (0x60, 2), (0x61, 0), (0x62, 0), (0x70, 0), (0x71, 2), (0x72, 2)]

/-- R117: a received answer fails a line check. -/
abbrev Spoiled (k : Slot) (bytes : List Byte) (badStop : Bool) : Prop :=
  let len := (bytes.getD 1 0).toNat
  badStop = true ∨ bytes.length ≠ len ∨ len < 11 ∨ 37 < len ∨ (bytes.getD 0 0).toNat ≠ k.val ∨
    crc8 (bytes.take (len - 1)) ≠ bytes.getD (len - 1) 0

/-- The command ends the exchange `x` in progress without a valid answer (R116, R117). -/
def EndsUnanswered (s : State) (x : Exchange) (i : Instr) : Prop :=
  exchangeOf s = some x ∧
    ((i = .replyWindowExpiry ∧ x.receiving = false) ∨ (i = .answerOverlength ∧ x.receiving = true) ∨
      ∃ bytes bad, i = .answerEnd bytes bad ∧ x.receiving = true ∧ Spoiled x.slot bytes bad)

/-- The command ends the exchange `x` in progress: without a valid answer, or with an answer in reception (R116 to R119). -/
def EndsExchange (s : State) (x : Exchange) (i : Instr) : Prop :=
  exchangeOf s = some x ∧
    ((i = .replyWindowExpiry ∧ x.receiving = false) ∨ (x.receiving = true ∧
      (i = .answerOverlength ∨ (∃ bytes bad, i = .answerEnd bytes bad) ∨ (requestOf i).isSome)))

/-- R172: the status fields of a received answer. -/
def statusIn (bytes : List Byte) : Status :=
  let b : Nat → Nat := fun n => (bytes.getD n 0).toNat
  ⟨bytes.getD 2 0, bytes.getD 3 0, bytes.getD 4 0, bytes.getD 5 0,
    BitVec.ofNat 32 (((b 6 * 256 + b 7) * 256 + b 8) * 256 + b 9)⟩

/-- R172, R131: a received answer carries a request that cannot be read: a code that names none, bits 4 to 7 set for a code
other than SURVEY, a SURVEY of more than 6 tags, another length than the code calls for, or a line handle that is none. -/
def Unreadable (bytes : List Byte) : Prop :=
  let b : Nat → Nat := fun n => (bytes.getD n 0).toNat
  let len := b 1
  let code := b 10 % 16
  let upper := b 10 / 16
  let handle : Nat → Nat := fun n => b n * 256 + b (n + 1)
  12 ≤ len ∧ ((code = 0 ∨ 9 < code) ∨ (code ≠ 9 ∧ upper ≠ 0) ∨ (code = 9 ∧ (6 < upper ∨ len ≠ 13 + 4 * upper)) ∨
    (∃ p ∈ [(1, 15), (2, 12), (3, 16), (4, 15), (5, 14), (6, 14), (7, 16), (8, 14)], code = p.1 ∧ len ≠ p.2) ∨
    (code = 4 ∧ 0x3FF < handle 12 ∧ handle 12 ≠ 0xFFFF) ∨ (code = 8 ∧ 0x3FF < handle 11 ∧ handle 11 ≠ 0xFFFF) ∨
    ((code = 5 ∨ code = 6) ∧ 0x3FF < handle 11))

/-- R147, R9: the lock `l` of column `c`, held for work on `h`, has ended by stranding; `r` was the record. -/
structure StrandedIn (s u : State) (c : Col) (l : Lock) (w : Work) (h : Handle) (r : Record) : Prop where
  lock : u.lockOf c = none ∧ u.waitsOf c = []
  locks : SameLocksBut c s u
  column : u.col c = { s.col c with
    prior := if (s.col c).service = .draining then .draining else .opened
    service := .suspect
    stranded := some h
    strandingId := (s.slot l.holder).robotId }
  columns : SameColumnsBut c s u
  record : u.entry h.idx = { s.entry h.idx with
    live := some { r with
      state := .stranded
      strandedFrom := some (match w with
        | .place => .placing
        | .lift => .lifting) } }
  records : SameEntriesBut h.idx s u
  counts : SameCounts s u

/-- R70: the waiter to whom the lock of a column goes at a release that leaves `top` at the top of its stack. -/
def nextHolder (s : State) (c : Col) (top : Option Handle) : Option WaitEntry :=
  (s.waitsOf c).find? fun e => decide (e.work = .place) || decide (top = some e.handle)

/-- R66: a record after the grant of a lock to a waiter. -/
def afterGrant (o : Option WaitEntry) (i : RecIdx) (r : Record) : Record :=
  match o with
  | none => r
  | some e => if e.handle.idx = i then { r with state := if e.work = .place then .placing else .lifting } else r

/-- R70: the lock of column `c`, released, has gone to the first possible waiter, or is free. -/
structure HandedOver (s u : State) (c : Col) (top : Option Handle) : Prop where
  locks : SameLocksBut c s u
  free : nextHolder s c top = none → u.lockOf c = none ∧ u.waitsOf c = s.waitsOf c
  granted : ∀ e, nextHolder s c top = some e →
    u.lockOf c = some ⟨e.slot, .work e.work e.handle,
      if e.work = .place then s.lock.placeLimit else s.lock.liftLimit, s.now⟩ ∧
    u.waitsOf c = (s.waitsOf c).erase e

/-- The column's top record, when it is PROMISED: it becomes buried by a push (R16, R17). -/
def promisedTop (s : State) (c : Col) : Option Handle :=
  (s.top c).bind fun h => (s.named h).bind fun r => if r.state = .promised then some h else none

/-- R16, R17: the notice unit after a push on column `c`: BURIED is raised with the record the push has buried, if any. -/
def noticeAfterPush (s : State) (c : Col) : NoticeUnit :=
  match promisedTop s c with
  | some h => afterRaising 5 { s.notice with buried := some (s.notice.buried.getD h) }
  | none => s.notice

/-- R16: a record of column `c` after a push, or a record of another column. -/
def underPush (c : Col) (r : Record) : Record :=
  if r.column = c ∧ r.state = .promised then { r with buried := true } else r

/-- R16: the record at the new top of column `c` after a pop, or another record. -/
def uncovered (s : State) (c : Col) (i : RecIdx) (r : Record) : Record :=
  if (s.col c).stack.dropLast.getLast? = some (s.handleAt i) ∧ r.column = c then { r with buried := false } else r

/-- R36: the manifest map after the consumption of a delivered tag's entry. -/
def consumedMap (s : State) (t : Tag) : List BinFacts := s.manifest.map.filter fun e => e.tag ≠ t || e.keep

/-- R85: the readings an age event takes into account, in slot order. -/
def readingsNow (s : State) : List Nat :=
  ((List.finRange 64).filter fun k : Slot =>
      decide ((s.slot k).link = .live) && decide ((s.slot k).cond ≠ .fault) && decide ((s.slot k).temp ≤ 62)).map
    fun k => (s.slot k).temp

/-- R56: `c` is the column chosen for a bin with facts `f` parked from (x, y). -/
abbrev Chosen (s : State) (x y : Nat) (f : BinFacts) (c : Col) : Prop :=
  s.eligible f.cls c ∧ ∀ d, s.eligible f.cls d → d ≠ c →
    s.score x y f c < s.score x y f d ∨
      (s.score x y f c = s.score x y f d ∧ (s.load c < s.load d ∨ (s.load c = s.load d ∧ c < d)))

/-! ### RESTACK (R157) -/

/-- R152, R148: the robot concerned of a stranded record of column `c` is LIVE. -/
abbrev ConcernedLive (s : State) (c : Col) (o : Option Slot) : Prop :=
  ∃ k ∈ o, (s.slot k).link = .live ∧ (s.slot k).robotId.isSome ∧ (s.slot k).robotId = (s.col c).strandingId

/-- R152: a placement stranded in column `c`, found absent, returns to RESERVED: the robot concerned is LIVE and is releaser of
no other RESERVED or PLACING record. -/
abbrev ReturnsToReserved (s : State) (c : Col) (i : RecIdx) (r : Record) : Prop :=
  ConcernedLive s c r.releaser ∧ ∀ k ∈ r.releaser, ∀ j, ∀ q ∈ s.live j, q.reservedBy k → j = i

/-- R157: the record at `i` names column `c` and is not listed, and is RESERVED once the RESTACK has resolved the stranded
record. -/
abbrev StaysReserved (s : State) (c : Col) (tags : List Tag) (i : RecIdx) (r : Record) : Prop :=
  r.column = c ∧ r.tag ∉ tags ∧
    (r.state = .reserved ∨ (r.strandedFrom = some .placing ∧ ReturnsToReserved s c i r))

/-- R157: the reservations that still name the column, in the order in which their records were made. -/
def stillReserved (s : State) (c : Col) (tags : List Tag) : List RecIdx :=
  s.handoff.order.filter fun i => decide (∃ r ∈ s.live i, StaysReserved s c tags i r)

/-- R157: how many of them are too many for the column's capacity. -/
def excess (s : State) (c : Col) (tags : List Tag) : Nat :=
  tags.length + (stillReserved s c tags).length - (s.col c).capacity

/-- R157: those that are trimmed, the latest made. -/
def trimmedNow (s : State) (c : Col) (tags : List Tag) : List RecIdx :=
  (stillReserved s c tags).drop ((stillReserved s c tags).length - excess s c tags)

/-- R157: the listed tags that no live record carries, bottom first, each with the index its new record takes: the lowest
free ones, in that order. -/
def newPlaces (s : State) (tags : List Tag) : List (RecIdx × Tag) :=
  ((List.finRange 64).filter fun i => (s.live i).isNone).zip
    (tags.filter fun t => decide (∀ i, ∀ r ∈ s.live i, r.tag ≠ t))

/-- R157, R34: what becomes of the record `r` at index `i` of column `c` in a RESTACK: its tag is listed at a level and it
stands there, or it is not listed and goes or stays RESERVED. -/
structure Restacked (s u : State) (c : Col) (tags : List Tag) (i : RecIdx) (r : Record) : Prop where
  listed : ∀ l, tags[l]? = some r.tag →
    let covered := decide (l + 1 < tags.length)
    let becomes := fun q : Record => u.entry i = { s.entry i with live := some { q with level := some l } }
    (r.state = .parked → becomes r) ∧
      (r.state = .promised → becomes { r with buried := covered }) ∧
      (r.state = .reserved ∨ r.strandedFrom = some .placing →
        becomes { r with state := .parked, collector := none, strandedFrom := none }) ∧
      (r.strandedFrom = some .lifting → ConcernedLive s c r.collector →
        becomes { r with state := .promised, strandedFrom := none, buried := covered }) ∧
      (r.strandedFrom = some .lifting → ¬ ConcernedLive s c r.collector →
        becomes { r with state := .parked, collector := none, strandedFrom := none })
  unlisted : r.tag ∉ tags →
    let goes := fun o : Retirement => u.entry i = ⟨(s.entry i).gen + 1, none, some ⟨s.handleAt i, o, r.tag, c⟩⟩
    (r.state = .parked ∨ r.state = .promised → goes .missing) ∧
      (r.strandedFrom = some .lifting → ConcernedLive s c r.collector → goes .delivered) ∧
      (r.strandedFrom = some .lifting → ¬ ConcernedLive s c r.collector → goes .carriedOff) ∧
      (r.strandedFrom = some .placing → ¬ ReturnsToReserved s c i r → goes .unplaced) ∧
      (StaysReserved s c tags i r →
        if i ∈ trimmedNow s c tags then goes .unplaced
        else u.entry i = { s.entry i with live := some { r with state := .reserved, level := none, strandedFrom := none } })

/-- R157, R52, R16, R17: the notice unit after a RESTACK that leaves `u`: UNLISTED is raised for new records on the zone
defaults and BURIED for the records that have become buried, and the first in list order is the subject if none is held. -/
def noticeAfterRestack (s u : State) (c : Col) (tags : List Tag) : NoticeUnit :=
  let n := match (newPlaces s tags).find? fun p => (s.manifest.find p.2).isNone with
    | some p => afterRaising 6 { s.notice with unlisted := some (s.notice.unlisted.getD (s.handleAt p.1)) }
    | none => s.notice
  match (u.col c).stack.find? fun h => (u.live h.idx).any (·.buried) && !(s.live h.idx).any (·.buried) with
  | some h => afterRaising 5 { n with buried := some (n.buried.getD h) }
  | none => n

end Sys2Proof.Safety
end

