-- ==== Sys2Proof/Certificates/Slice0/Obligations.lean ====
section
/-! DEFINITION. The statements for the provers: the machine as a whole, reset, the planner port, the host commands by block,
the line and its events, the robot requests, and the laws that every step keeps. The terms they use are those of
Sys2Proof.Safety. -/

open Sys2Proof Sys2Proof.Machine Sys2Proof.Safety

/-! ### The machine -/

/-- With a command at the front of the queue, a step is that command on the state with the queue's rest. On an empty queue
one microsecond of the model's clock passes: the model's choice (log entry 1). -/
def Obligations.StepTakesFrontCommand : Prop :=
  (∀ (c : Instr) (q : List Instr) (s : State), s.pending = c :: q → step s = exec c { s with pending := q }) ∧
    ∀ s : State, s.pending = [] → step s = .next { s with now := s.now + 1 }

/-- Every command completes in every state, and leaves what it does not own: only the three reset events touch the reset
line's phase, and only ZONE_SETUP, alone or as a frame, and RESET touch the weights, the zone defaults, the lease limits and the
line's and the age unit's settings (R57, R73, R92, R126, R163). That it leaves the queue and the model's clock, RESET included,
is the model's choice (log entry 1), and so is that an event which cannot occur in a state completes by changing nothing there
(log entry 2). -/
def Obligations.EveryCommandCompletes : Prop :=
  ∀ (c : Instr) (s : State), ∃ t, exec c s = .next t ∧ t.pending = s.pending ∧ t.now = s.now ∧
    (c ≠ .reset → c ≠ .resetNRise → c ≠ .partReady → t.power = s.power) ∧
    ((∀ p, c ≠ .zoneSetup p) → (∀ b k, c ≠ .frameEnd b k) → c ≠ .reset →
      t.placement = s.placement ∧
      (t.lock.placeLimit = s.lock.placeLimit ∧ t.lock.liftLimit = s.lock.liftLimit ∧
        t.lock.surveyLimit = s.lock.surveyLimit) ∧
      (t.line.lossThreshold = s.line.lossThreshold ∧ t.line.probeInterval = s.line.probeInterval ∧
        t.line.replyWindow = s.line.replyWindow ∧ t.line.lineRate = s.line.lineRate ∧
        t.line.roundPeriod = s.line.roundPeriod) ∧
      (t.age.period = s.age.period ∧ t.age.mode = s.age.mode ∧ t.age.fixedBand = s.age.fixedBand ∧
        t.age.t1 = s.age.t1 ∧ t.age.t2 = s.age.t2 ∧ t.age.t3 = s.age.t3 ∧ t.age.guardGap = s.age.guardGap))

/-! ### Reset -/

/-- RESET in any state leaves every block at its power-on values (R2, R44, R57, R60, R73, R81, R95, R97, R103, R110, R114,
R123, R125, R126, R149, R160, R165, R169). That the part then stands with RESET_N low is the model's reading (log entry
3). -/
def Obligations.ResetRestoresPowerOnValues : Prop :=
  ∀ s : State, ∃ t, exec .reset s = .next t ∧ t.power = .low ∧
    (t.handoff.freeCount = 64 ∧
      ∀ i, t.live i = none ∧ (t.entry i).gen = 0 ∧ (t.entry i).last = none) ∧
    (∀ c, t.col c = ⟨0, 0, 0, ⟨false, false, false⟩, .undefined, .opened, [], none, none⟩ ∧ t.lockOf c = none ∧
      t.waitsOf c = [] ∧ t.surveyor c = none) ∧
    (∀ k, t.slot k = ⟨.off, .off, .vacant, none, 0, 0, 0, 63, .ready, 0, none⟩ ∧ t.mark k = none) ∧
    (t.line.run = .stopped ∧ t.line.phase = .idle ∧ t.line.roundNo = none ∧ t.line.blockMode = .sweep ∧
      t.line.nextBlockMode = .sweep ∧ t.line.blockEndEnable = 0 ∧ t.line.lastDuration = 0 ∧
      t.line.minDuration = 65535 ∧ t.line.maxDuration = 0 ∧ t.line.lossThreshold = 4 ∧ t.line.probeInterval = 8 ∧
      t.line.replyWindow = 30 ∧ t.line.lineRate = 1 ∧ t.line.roundPeriod = 0) ∧
    t.placement = ⟨4, 2, 1, 32, .chilled, 1200, 2400⟩ ∧
    (t.lock.placeLimit = 60 ∧ t.lock.liftLimit = 60 ∧ t.lock.surveyLimit = 200) ∧
    t.age = ⟨.stopped, 0, 5, .fixed, 1, 8, 16, 24, 6, 1, none, 0⟩ ∧
    (t.manifest.map = [] ∧ t.manifest.merge = none ∧ t.manifest.report = ⟨.p0, 0, ⟨0, 0, 0, 0, 0⟩⟩ ∧
      t.manifest.p0.state = .filling ∧ t.manifest.p1.state = .empty ∧
      ∀ r ∈ t.manifest.p0.rows.toList, r = ⟨.upsert, 0, .ambient, 0, 0, 0, false⟩) ∧
    t.survey.box = none ∧
    t.notice = ⟨0, 0, none, none, none, none, none, none, true⟩ ∧
    t.port.buffer = ⟨.none, []⟩ ∧ t.port.busy = none

/-- R169: RESET_N_RISE begins the 200 µs and PART_READY ends them; every frame that ends before then, and every frame that was
begun before then, is ignored, with MISO high-impedance. That RESET_N_RISE and PART_READY change nothing elsewhere is the
model's choice (log entry 2), that an empty MISO stands for high-impedance is its choice (log entry 20), and that a frame's
beginning is marked by FRAME_BEGUN_TOO_SOON is its reading (log entry 11). -/
def Obligations.PartBecomesReady : Prop :=
  ∀ s : State,
    let ignored : Host.Outcome State Fault Refusal := .next { s with port := { s.port with frame := .judged, miso := [] } }
    (s.power = .low → exec .resetNRise s = .next { s with power := .counting s.now }) ∧
    (s.power ≠ .low → exec .resetNRise s = .next s) ∧
    (∀ n, s.power = .counting n → exec .partReady s = .next { s with power := .ready }) ∧
    ((∀ n, s.power ≠ .counting n) → exec .partReady s = .next s) ∧
    (s.power ≠ .ready → exec .frameBegunTooSoon s = .next { s with port := { s.port with frame := .ignored } }) ∧
    (s.power ≠ .ready ∨ s.port.frame = .ignored →
      (∀ i f, encodeFrame i = some f → exec i s = ignored) ∧ ∀ bytes k, exec (.frameEnd bytes k) s = ignored)

/-! ### The planner port -/

/-- R159, R160, R170: under-length and over-length frames are discarded with FRAME_ERROR and the response FRAME, a code that
names no command is answered UNKNOWN_CODE, and a payload of the wrong length RANGE. That a frame with a length byte above 40
is over-length even when it is short is the model's reading (log entry 6). -/
def Obligations.FramesAreJudgedByLength : Prop :=
  ∀ (s : State) (bytes : List Byte) (k : Fin 8), PortFree s →
    let n := (bytes.getD 1 0).toNat
    let code := (bytes.getD 0 0).toNat
    let answered := fun r : Result => { s.port with miso := shifted s bytes.length, buffer := ⟨r, []⟩ }
    let discarded : FrameKind → Host.Outcome State Fault Refusal := fun kind => .next
      { s with
        port := answered .frame
        notice := afterRaising 10 { s.notice with frameError := some (s.notice.frameError.getD kind) } }
    (bytes.length < 2 ∨ (n ≤ 40 ∧ bytes.length < n + 2) → exec (.frameEnd bytes k) s = discarded .under) ∧
    (2 ≤ bytes.length ∧ (40 < n ∨ n + 2 < bytes.length) → exec (.frameEnd bytes k) s = discarded .over) ∧
    (n ≤ 40 ∧ bytes.length = n + 2 →
      (code ≠ 0 ∧ code ≠ 0x63 ∧ code ∉ fixedPayloads.map Prod.fst →
        exec (.frameEnd bytes k) s = .next { s with port := answered .unknownCode }) ∧
      (∀ p ∈ fixedPayloads, code = p.1 → n ≠ p.2 →
        exec (.frameEnd bytes k) s = .next { s with port := answered .range }) ∧
      (code = 0x63 → n % 4 ≠ 1 → exec (.frameEnd bytes k) s = .next { s with port := answered .range }))

/-- R170, R159: the frame that R170 lays out for a host command reads as that command, with every operand. That its end is the
command's own row is the model's choice of what the row stands for (log entry 4). -/
def Obligations.FrameOfACommandIsThatCommand : Prop :=
  ∀ (i : Instr) (f : List Byte) (k : Fin 8) (s : State), i.wellFormed = true → encodeFrame i = some f →
    readFrame f = .command i ∧ exec (.frameEnd f k) s = exec i s

/-- R159 to R161: while a command is in progress a frame is begun too soon; it clocks out BUSY_PORT and is discarded, the
command finishing before its end or not; the finish writes the response; NOP keeps the buffer. That NOP keeps the port busy
like any other command is the model's reading (log entry 6), and that COMMAND_FINISH with no command in progress changes
nothing is its choice (log entry 2). -/
def Obligations.PortBusyUntilFinish : Prop :=
  ∀ s : State,
    (s.power = .ready → s.port.busy.isSome →
      exec .frameBegunTooSoon s = .next { s with port := { s.port with frame := .tooSoon } }) ∧
    (s.power = .ready → s.port.frame = .tooSoon → ∀ bytes k,
      exec (.frameEnd bytes k) s =
        .next { s with
          port := { s.port with
            frame := .judged, miso := (0x0A :: List.replicate bytes.length 0x00).take bytes.length } }) ∧
    (∀ r, s.port.busy = some (.write r) →
      exec .commandFinish s = .next { s with port := { s.port with busy := none, buffer := r } }) ∧
    (s.port.busy = some .keep → exec .commandFinish s = .next { s with port := { s.port with busy := none } }) ∧
    (s.port.busy = none → exec .commandFinish s = .next s) ∧
    (PortFree s → ∀ filler, filler.length ≤ 40 →
      exec (.nop filler) s =
        .next { s with port := { s.port with miso := shifted s (filler.length + 2), busy := some .keep } })

/-! ### Columns -/

/-- R4: COLUMN_DEFINE in its order of checks. -/
def Obligations.ColumnDefineJudged : Prop :=
  ∀ (s : State) (col x y k set : Byte), PortFree s →
    let bad := 15 < col.toNat ∨ 127 < x.toNat ∨ 127 < y.toNat ∨ k.toNat = 0 ∨ 6 < k.toNat ∨ set.toNat = 0 ∨
      8 ≤ set.toNat
    (bad → exec (.columnDefine col x y k set) s = .next (commandTaken s s 5 ⟨.range, []⟩)) ∧
    (¬ bad → ∀ c : Col, col.toNat = c.val →
      ((s.col c).service ∈ [.opened, .draining, .suspect, .fault] →
        exec (.columnDefine col x y k set) s = .next (commandTaken s s 5 ⟨.wrongState, []⟩)) ∧
      ((s.col c).service ∈ [.undefined, .out] →
        exec (.columnDefine col x y k set) s = .next (commandTaken s
          (s.setCol c
            { s.col c with
              x := x.toNat
              y := y.toNat
              capacity := k.toNat
              allowed := ⟨set.getLsbD 0, set.getLsbD 1, set.getLsbD 2⟩
              service := .out
              prior := .opened })
          5 ⟨.ok, []⟩)))

/-- R7: COLUMN_SERVICE in its order of checks. -/
def Obligations.ColumnServiceJudged : Prop :=
  ∀ (s : State) (col state : Byte), PortFree s →
    let bad := 15 < col.toNat ∨ (state ≠ 1 ∧ state ≠ 2 ∧ state ≠ 5)
    let asked : Service := if state = 1 then .opened else if state = 2 then .draining else .out
    (bad → exec (.columnService col state) s = .next (commandTaken s s 2 ⟨.range, []⟩)) ∧
    (¬ bad → ∀ c : Col, col.toNat = c.val →
      let present := (s.col c).service
      (present ∈ [.undefined, .suspect, .fault] →
        exec (.columnService col state) s = .next (commandTaken s s 2 ⟨.wrongState, []⟩)) ∧
      (present ∈ [.opened, .draining, .out] →
        (asked = present → exec (.columnService col state) s = .next (commandTaken s s 2 ⟨.ok, []⟩)) ∧
        (asked ≠ present → asked = .out → 0 < s.load c ∨ (s.lockOf c).isSome →
          exec (.columnService col state) s = .next (commandTaken s s 2 ⟨.busy, []⟩)) ∧
        (asked ≠ present → ¬ (asked = .out ∧ (0 < s.load c ∨ (s.lockOf c).isSome)) →
          exec (.columnService col state) s =
            .next (commandTaken s (s.setCol c { s.col c with service := asked }) 2 ⟨.ok, []⟩))))

/-- R18, R170: READ_COLUMN's 41 data bytes by their places, and that it changes nothing. The bytes of absent stack handles
and wait list entries are the model's reading (log entry 8). -/
def Obligations.ReadColumnLayout : Prop :=
  ∀ (s : State) (col : Byte), PortFree s →
    (15 < col.toNat → exec (.readColumn col) s = .next (commandTaken s s 1 ⟨.range, []⟩)) ∧
    ∀ c : Col, col.toNat = c.val →
      ∃ d, exec (.readColumn col) s = .next (commandTaken s s 1 ⟨.ok, d⟩) ∧ d.length = 41 ∧
        let r := s.col c
        let byte : Nat → Byte := fun n => BitVec.ofNat 8 n
        let pair : Option Handle → List Byte := fun o => match o with
          | some h => [byte h.idx.val, byte h.gen.val]
          | none => [0xFF, 0xFF]
        d.take 7 = [byte c.val, byte r.x, byte r.y, byte r.capacity,
          byte (r.allowed.ambient.toNat + 2 * r.allowed.chilled.toNat + 4 * r.allowed.frozen.toNat),
          byte (r.service.code + 16 * if r.prior = .opened then 1 else 2), byte r.stack.length] ∧
        (∀ n, n < 6 → (d.drop (7 + 2 * n)).take 2 = pair r.stack[n]?) ∧
        d[19]? = some (byte (16 * s.reservations c + s.load c)) ∧
        (d.drop 20).take 2 = pair r.stranded ∧
        (d.drop 22).take 1 = (match (r.stranded.bind s.named).bind (·.strandedFrom) with
          | some .placing => [0x00]
          | some .lifting => [0x01]
          | none => [0xFF]) ∧
        (d.drop 23).take 4 = (match s.lockOf c with
          | some l => [byte (l.holder.val + 64 * l.hold.code)] ++ pair l.hold.handle ++ [byte (l.remaining s.now)]
          | none => [0xFF, 0xFF, 0xFF, 0x00]) ∧
        d[27]? = some (byte (s.waitsOf c).length) ∧
        (∀ n, n < 4 → (d.drop (28 + 3 * n)).take 3 = match (s.waitsOf c)[n]? with
          | some e => byte (e.slot.val + 64 * if e.work = .place then 0 else 1) :: pair (some e.handle)
          | none => [0xFF, 0xFF, 0xFF]) ∧
        d[40]? = some (byte (((s.surveyor c).map (·.val)).getD 0xFF))

/-! ### Reading the tables -/

/-- R37, R170: READ_HANDOFF's four cases, with the data of each. That the case of no outcome has no data is the model's
choice (log entry 9). -/
def Obligations.ReadHandoffJudged : Prop :=
  ∀ (s : State) (i g : Byte), PortFree s →
    let opt : Option Nat → Byte := fun o => BitVec.ofNat 8 (o.getD 0xFF)
    (63 < i.toNat ∨ 15 < g.toNat → exec (.readHandoff i g) s = .next (commandTaken s s 2 ⟨.range, []⟩)) ∧
    ∀ h : Handle, i.toNat = h.idx.val → g.toNat = h.gen.val →
      (∀ r, s.named h = some r →
        exec (.readHandoff i g) s = .next (commandTaken s s 2 ⟨.ok,
          [i, g, BitVec.ofNat 8 r.state.code] ++ bytes32 r.tag ++ [BitVec.ofNat 8 r.cls.code]
            ++ bytes32 (BitVec.ofNat 32 r.deadline) ++ bytes16 (BitVec.ofNat 16 r.budget)
            ++ bytes16 (BitVec.ofNat 16 r.orderRef)
            ++ [BitVec.ofNat 8 (r.overdue.toNat + 2 * r.spent.toNat + 4 * r.unlisted.toNat + 8 * r.buried.toNat
                + 16 * r.found.toNat),
              opt (r.releaser.map (·.val)), opt (r.collector.map (·.val)), BitVec.ofNat 8 r.column.val, opt r.level,
              opt (r.level.map fun l => (s.col r.column).stack.length - 1 - l),
              opt (r.strandedFrom.map StrandedFrom.code)]⟩)) ∧
      (s.named h = none → ∀ o, (s.entry h.idx).last = some o → o.handle = h →
        exec (.readHandoff i g) s = .next (commandTaken s s 2 ⟨.stale,
          [i, g, BitVec.ofNat 8 o.outcome.code] ++ bytes32 o.tag ++ [BitVec.ofNat 8 o.column.val]⟩)) ∧
      (s.named h = none → (∀ o, (s.entry h.idx).last = some o → o.handle ≠ h) →
        exec (.readHandoff i g) s = .next (commandTaken s s 2 ⟨.stale, []⟩))

/-- R38, R24, R106: FIND_TAG, FREE_COUNT, MANIFEST_FIND and MANIFEST_COUNT answer from the tables and change nothing. The
width of the class, budget and keep fields of a manifest entry follows R170's kinds (log entry 7), and 01h for a keep flag
that is set is the model's choice (log entry 26). -/
def Obligations.TagAndCountQueries : Prop :=
  ∀ (s : State) (t : Tag), PortFree s →
    (t = 0 ∨ (∀ i, ∀ r ∈ s.live i, r.tag ≠ t) →
      exec (.findTag t) s = .next (commandTaken s s 4 ⟨.ok, [0xFF, 0xFF]⟩)) ∧
    (TagsUnique s → ∀ i, ∀ r ∈ s.live i, r.tag = t →
      exec (.findTag t) s =
        .next (commandTaken s s 4 ⟨.ok, [BitVec.ofNat 8 i.val, BitVec.ofNat 8 (s.entry i).gen.val]⟩)) ∧
    exec .freeCount s = .next (commandTaken s s 0 ⟨.ok, [BitVec.ofNat 8 s.handoff.freeCount]⟩) ∧
    (t = 0 ∨ (∀ e ∈ s.manifest.map, e.tag ≠ t) →
      exec (.manifestFind t) s = .next (commandTaken s s 4 ⟨.ok, [0x00]⟩)) ∧
    (MapInForm s → t ≠ 0 → ∀ e ∈ s.manifest.map, e.tag = t →
      exec (.manifestFind t) s = .next (commandTaken s s 4 ⟨.ok,
        [0x01, BitVec.ofNat 8 e.cls.code] ++ bytes32 (BitVec.ofNat 32 e.deadline)
          ++ bytes16 (BitVec.ofNat 16 e.budget) ++ bytes16 (BitVec.ofNat 16 e.orderRef)
          ++ [if e.keep then 0x01 else 0x00]⟩)) ∧
    exec .manifestCount s =
      .next (commandTaken s s 0 ⟨.ok, bytes16 (BitVec.ofNat 16 s.manifest.map.length)⟩)

/-- R91, R104, R123, R127, R166: READ_AGE, MERGE_RESULT, READ_STATS, READ_SLOT and NOTICES report what their owners hold and
change nothing. The bytes for the run states and the pages are free values (log entry 5), the layout of the standing and the
expired mark in READ_SLOT is the model's choice (log entry 9), and that SWEEP's A and B are FFh and the widths R170's kinds
do not name are its reading (log entry 7). -/
def Obligations.StatusReports : Prop :=
  ∀ s : State, PortFree s →
    let byte : Nat → Byte := fun n => BitVec.ofNat 8 n
    let opt : Option Nat → Byte := fun o => byte (o.getD 0xFF)
    let word : Nat → List Byte := fun n => bytes16 (BitVec.ofNat 16 n)
    let pair : Option Handle → List Byte := fun o => match o with
      | some h => [byte h.idx.val, byte h.gen.val]
      | none => [0xFF, 0xFF]
    let mode : BlockMode → List Byte := fun m => match m with
      | .sweep => [0x00, 0xFF, 0xFF]
      | .paired a b => [0x01, byte a.val, byte b.val]
    exec .readAge s = .next (commandTaken s s 0 ⟨.ok,
      [Config.ageRunCode (decide (s.age.run ≠ .stopped))] ++ bytes32 (BitVec.ofNat 32 s.age.clock)
        ++ [byte ((s.age.remaining s.now).getD 0), byte s.age.period, byte s.age.mode.code, byte s.age.fixedBand,
          byte s.age.t1, byte s.age.t2, byte s.age.t3, byte s.age.guardGap, byte s.age.band, opt s.age.aggregate,
          byte s.age.readings]⟩) ∧
    exec .mergeResult s = .next (commandTaken s s 0 ⟨.ok,
      [byte s.manifest.p0.state.code, byte s.manifest.p1.state.code]
        ++ (match s.manifest.merge with
          | some g => [0x01, Config.pageCode g.page, byte g.count, byte g.taken]
          | none => [0x00])
        ++ [Config.pageCode s.manifest.report.page, byte s.manifest.report.count, byte s.manifest.report.tally.inserted,
          byte s.manifest.report.tally.replaced, byte s.manifest.report.tally.deleted,
          byte s.manifest.report.tally.absent, byte s.manifest.report.tally.refused]
        ++ word s.manifest.map.length⟩) ∧
    exec .readStats s = .next (commandTaken s s 0 ⟨.ok,
      [Config.linkRunCode s.line.run]
        ++ (match s.line.roundNo with
          | some n => 0x01 :: word n
          | none => [0x00])
        ++ (match exchangeOf s with
          | some x => [byte (x.slot.val / 8), byte x.slot.val]
          | none => [0xFF, 0xFF])
        ++ mode s.line.blockMode ++ mode s.line.nextBlockMode
        ++ word s.line.lastDuration ++ word s.line.minDuration ++ word s.line.maxDuration⟩) ∧
    (∀ b : Byte, 63 < b.toNat → exec (.readSlot b) s = .next (commandTaken s s 1 ⟨.range, []⟩)) ∧
    (∀ (b : Byte) (k : Slot), b.toNat = k.val → exec (.readSlot b) s = .next (commandTaken s s 1 ⟨.ok,
      [byte (s.slot k).mode.code, byte (s.slot k).nextMode.code, byte (s.slot k).link.code]
        ++ bytes24 ((s.slot k).robotId.getD 0)
        ++ [byte (s.slot k).miss, byte (s.slot k).x, byte (s.slot k).y, byte (s.slot k).temp, byte (s.slot k).cond.code]
        ++ bytes32 (s.slot k).carried ++ verdictBytes (s.slot k).verdict
        ++ (match s.standing k with
          | .none => [0x00, 0xFF, 0xFF, 0xFF, 0x00]
          | .waiting c p => [0x01, byte c.val, 0xFF, 0xFF, byte p]
          | .holding c h l => [0x02, byte c.val] ++ pair h ++ [byte l]
          | .expired c => [0x03, byte c.val, 0xFF, 0xFF, 0x00])
        ++ [opt ((s.mark k).map (·.val))]⟩)) ∧
    let pending : Nat → Bool := fun b => s.notice.pending.getLsbD b
    exec .notices s = .next (commandTaken s s 0 ⟨.ok,
      word s.notice.pending.toNat ++ word s.notice.enabled.toNat
        ++ [opt (if pending 0 then ((List.finRange 64).find? fun k => (s.slot k).link = .lost).map (·.val) else none),
          opt (if pending 1 then ((List.finRange 16).find? fun c => (s.col c).service = .suspect).map (·.val) else none),
          opt (if pending 2 then ((List.finRange 16).find? fun c => (s.col c).service = .fault).map (·.val) else none)]
        ++ pair (if pending 3 then s.notice.overdue else none) ++ pair (if pending 4 then s.notice.spent else none)
        ++ pair (if pending 5 then s.notice.buried else none) ++ pair (if pending 6 then s.notice.unlisted else none)
        ++ [opt (if pending 9 then s.notice.blockEnd.map (·.val) else none),
          opt (if pending 10 then s.notice.frameError.map FrameKind.code else none)]⟩)

/-- R155, R170: SURVEY_READ answers the box's entry or that it is empty, and SURVEY_CLEAR empties it and changes no column.
That nothing follows the presence byte of an empty box is the model's reading (log entry 7). -/
def Obligations.SurveyBoxReadAndCleared : Prop :=
  ∀ s : State, PortFree s →
    (s.survey.box = none → exec .surveyRead s = .next (commandTaken s s 0 ⟨.ok, [0x00]⟩)) ∧
    (∀ b, s.survey.box = some b →
      exec .surveyRead s = .next (commandTaken s s 0 ⟨.ok,
        [0x01, BitVec.ofNat 8 b.column.val, BitVec.ofNat 8 b.surveyor.val, BitVec.ofNat 8 b.tags.length]
          ++ b.tags.flatMap bytes32⟩)) ∧
    exec .surveyClear s =
      .next (commandTaken s { s with survey := { s.survey with box := none } } 0 ⟨.ok, []⟩)

/-! ### The line's host commands -/

/-- R111, R114, R123, R124: SLOT_MODE and BLOCK_MODE write what takes force at the next round start, BLOCK_END_ENABLE writes
the eight enables, and STATS_CLEAR the three figures; nothing else changes. -/
def Obligations.LineSettingsAreStored : Prop :=
  ∀ s : State, PortFree s →
    (∀ b m : Byte, 63 < b.toNat ∨ 2 < m.toNat →
      exec (.slotMode b m) s = .next (commandTaken s s 2 ⟨.range, []⟩)) ∧
    (∀ (b m : Byte) (k : Slot), b.toNat = k.val → m.toNat ≤ 2 →
      exec (.slotMode b m) s = .next (commandTaken s
        (s.setSlot k { s.slot k with nextMode := if m = 0 then .off else if m = 1 then .quiet else .on }) 2 ⟨.ok, []⟩)) ∧
    (∀ m a b : Byte, 1 < m.toNat ∨ (m = 1 ∧ (7 < a.toNat ∨ 7 < b.toNat)) →
      exec (.blockMode m a b) s = .next (commandTaken s s 3 ⟨.range, []⟩)) ∧
    (∀ a b : Byte, exec (.blockMode 0 a b) s =
      .next (commandTaken s { s with line := { s.line with nextBlockMode := .sweep } } 3 ⟨.ok, []⟩)) ∧
    (∀ (a b : Byte) (x y : Block), a.toNat = x.val → b.toNat = y.val → exec (.blockMode 1 a b) s =
      .next (commandTaken s { s with line := { s.line with nextBlockMode := .paired x y } } 3 ⟨.ok, []⟩)) ∧
    (∀ mask, exec (.blockEndEnable mask) s =
      .next (commandTaken s { s with line := { s.line with blockEndEnable := mask } } 1 ⟨.ok, []⟩)) ∧
    exec .statsClear s = .next (commandTaken s
      { s with line := { s.line with lastDuration := 0, minDuration := 65535, maxDuration := 0 } } 0 ⟨.ok, []⟩)

/-- R146: CLEAR_LOST returns a LOST slot to VACANT and refuses every other. -/
def Obligations.ClearLostJudged : Prop :=
  ∀ (s : State) (b : Byte), PortFree s →
    (63 < b.toNat → exec (.clearLost b) s = .next (commandTaken s s 1 ⟨.range, []⟩)) ∧
    ∀ k : Slot, b.toNat = k.val →
      ((s.slot k).link ≠ .lost → exec (.clearLost b) s = .next (commandTaken s s 1 ⟨.wrongState, []⟩)) ∧
      ((s.slot k).link = .lost → exec (.clearLost b) s = .next (commandTaken s
        (s.setSlot k { s.slot k with link := .vacant, robotId := none, miss := 0 }) 1 ⟨.ok, []⟩))

/-- R113, R122, R125: LINK_START on a STOPPED link begins a round at once, and ROUND_PERIOD_DUE begins the round that is waited
for. That ROUND_PERIOD_DUE keeps its moment while the round before it is in progress is the model's reading (log entry 13), and
that it means nothing with a period of 0 or with no round is its choice (log entry 2). -/
def Obligations.RoundsBegin : Prop :=
  ∀ s : State,
    (PortFree s → s.line.run = .stopped → ∃ u,
      exec .linkStart s = .next (commandTaken s u 0 ⟨.ok, []⟩) ∧
        RoundBegun { s with line := { s.line with run := .running } } u) ∧
    (s.line.phase = .waiting → ∃ t, exec .roundPeriodDue s = .next t ∧ RoundBegun s t) ∧
    (s.line.phase = .emptyRound ∨ (exchangeOf s).isSome →
      exec .roundPeriodDue s = .next
        (if s.line.roundPeriod = 0 then s
          else { s with line := { s.line with dueAt := some (s.line.dueAt.getD s.now) } })) ∧
    (s.line.phase = .idle → exec .roundPeriodDue s = .next s)

/-- R125: LINK_START on a RUNNING or STOPPING link, LINK_STOP in every run state, and the end of an exchange in each. On a
RUNNING link the round goes on after the exchange: each block passed has its end, with BLOCK_END for the last of those enabled,
and the next CALL is sent, or the round ends, is measured, and is followed by the next (R113, R115, R116, R122 to R124; the
clause `follows` of LineGoesOn). On a STOPPING link the round is abandoned, whatever ends the exchange: no BLOCK_END and no
LATE_ROUND is raised and nothing is measured, which for the last exchange of a block or a round is the model's reading (log
entry 14). -/
def Obligations.LinkStopsAndGoesOn : Prop :=
  ∀ s : State,
    (PortFree s →
      (s.line.run = .running → exec .linkStart s = .next (commandTaken s s 0 ⟨.ok, []⟩)) ∧
      (s.line.run = .stopping → exec .linkStart s =
        .next (commandTaken s { s with line := { s.line with run := .running } } 0 ⟨.ok, []⟩)) ∧
      (s.line.run ≠ .running → exec .linkStop s = .next (commandTaken s s 0 ⟨.ok, []⟩)) ∧
      (s.line.run = .running → (exchangeOf s).isSome → exec .linkStop s =
        .next (commandTaken s { s with line := { s.line with run := .stopping } } 0 ⟨.ok, []⟩)) ∧
      (s.line.run = .running → exchangeOf s = none → exec .linkStop s =
        .next (commandTaken s { s with line := { s.line with run := .stopped, phase := .idle } } 0 ⟨.ok, []⟩))) ∧
    ∀ x i, EndsExchange s x i → ∃ u t, exec i s = .next t ∧ EndTaken s u ∧ LineGoesOn u t ∧
      t.line.lastExpiry = (if i = .replyWindowExpiry then some s.now else s.line.lastExpiry) ∧
      (s.line.run = .stopping →
        t.line = { s.line with
          slots := u.line.slots, run := .stopped, phase := .idle, lastExpiry := t.line.lastExpiry } ∧
        t.notice = u.notice ∧ t.notice.pending.getLsbD 8 = s.notice.pending.getLsbD 8 ∧
        t.notice.pending.getLsbD 9 = s.notice.pending.getLsbD 9 ∧ t.notice.blockEnd = s.notice.blockEnd)

/-! ### The age unit -/

/-- R83: AGE_START and AGE_STOP; a start gives a full period, whatever ran before. -/
def Obligations.AgeTimerStartsAndStops : Prop :=
  ∀ s : State, PortFree s →
    (s.age.run = .stopped → exec .ageStart s =
      .next (commandTaken s { s with age := { s.age with run := .running s.now } } 0 ⟨.ok, []⟩)) ∧
    (∀ n, s.age.run = .running n → exec .ageStart s = .next (commandTaken s s 0 ⟨.ok, []⟩)) ∧
    exec .ageStop s = .next (commandTaken s { s with age := { s.age with run := .stopped } } 0 ⟨.ok, []⟩) ∧
    (1 ≤ s.age.period →
      ({ s.age with run := .running s.now } : Age).remaining s.now = some s.age.period ∧
        ({ s.age with run := .stopped } : Age).remaining s.now = none) ∧
    (s.age.run = .stopped → exec .ageEvent s = .next s)

/-- R90: REBUDGET in its order of checks. -/
def Obligations.RebudgetJudged : Prop :=
  ∀ (s : State) (i g : Byte) (b : BitVec 16), PortFree s →
    (63 < i.toNat ∨ 15 < g.toNat → exec (.rebudget i g b) s = .next (commandTaken s s 4 ⟨.range, []⟩)) ∧
    ∀ h : Handle, i.toNat = h.idx.val → g.toNat = h.gen.val →
      (s.named h = none → exec (.rebudget i g b) s = .next (commandTaken s s 4 ⟨.stale, []⟩)) ∧
      ∀ r, s.named h = some r → exec (.rebudget i g b) s = .next (commandTaken s
        (s.setRec h.idx
          { r with
            budget := if 4095 < b.toNat then 4095 else b.toNat
            spent := if b.toNat = 0 then r.spent else false }) 4 ⟨.ok, []⟩)

/-! ### The manifest -/

/-- R98: PAGE_WRITE writes one row of the FILLING page whole. The byte that names the page is a free value (log entry 5). -/
def Obligations.PageWriteJudged : Prop :=
  ∀ (s : State) (row op : Byte) (tag : Tag) (cls : Byte) (span budget order : BitVec 16) (keep : Byte), PortFree s →
    let i := Instr.pageWrite row op tag cls span budget order keep
    (15 < row.toNat ∨ 1 < op.toNat ∨ 2 < cls.toNat → exec i s = .next (commandTaken s s 14 ⟨.range, []⟩)) ∧
    (PagesInForm s → ∀ (n : Fin 16) (p : Page), row.toNat = n.val → op.toNat ≤ 1 → cls.toNat ≤ 2 →
      (s.manifest.page p).state = .filling →
      exec i s = .next (commandTaken s
        (s.setManifest (s.manifest.setPage p
          { s.manifest.page p with
            rows := (s.manifest.page p).rows.set n
              ⟨if op = 0 then .upsert else .delete, tag,
                if cls = 0 then .ambient else if cls = 1 then .chilled else .frozen, span.toNat,
                if 4095 < budget.toNat then 4095 else budget.toNat, order.toNat, decide (keep ≠ 0)⟩ }))
        14 ⟨.ok, [Config.pageCode p]⟩))

/-- R99, R107: PAGE_MERGE in its order of checks and the change it makes, and MANIFEST_CLEAR, which empties the map unless a
page is MERGING. The byte that names the page is a free value (log entry 5). -/
def Obligations.PageMergeAndMapClear : Prop :=
  ∀ s : State, PortFree s → PagesInForm s →
    (∀ (count : Byte) (p : Page), (s.manifest.page p).state = .filling →
      (count.toNat = 0 ∨ 16 < count.toNat → exec (.pageMerge count) s = .next (commandTaken s s 1 ⟨.range, []⟩)) ∧
      (1 ≤ count.toNat → count.toNat ≤ 16 →
        ((s.manifest.page p.other).state = .merging →
          exec (.pageMerge count) s = .next (commandTaken s s 1 ⟨.busy, []⟩)) ∧
        ((s.manifest.page p.other).state = .empty →
          exec (.pageMerge count) s = .next (commandTaken s
            (s.setManifest
              { (s.manifest.setPage p { s.manifest.page p with state := .merging }).setPage p.other
                  ⟨.filling, Vector.replicate 16 ⟨.upsert, 0, .ambient, 0, 0, 0, false⟩⟩ with
                merge := some ⟨p, count.toNat, 0, ⟨0, 0, 0, 0, 0⟩⟩ })
            1 ⟨.ok, [Config.pageCode p]⟩)))) ∧
    ((∃ p, (s.manifest.page p).state = .merging) →
      exec .manifestClear s = .next (commandTaken s s 0 ⟨.busy, []⟩)) ∧
    ((∀ p, (s.manifest.page p).state ≠ .merging) →
      exec .manifestClear s =
        .next (commandTaken s (s.setManifest { s.manifest with map := [] }) 0 ⟨.ok, []⟩))

/-- R100 to R103: a merge step takes one row into the map, adds one to one of the five counts, and with the last row ends the
merge, writes its result and raises MERGED; a lookup of any other tag finds what it found before. That MERGE_STEP with no
merge in flight changes nothing is the model's choice (log entry 2). -/
def Obligations.MergeStepTakesOneRow : Prop :=
  ∀ s : State, MapInForm s → PagesInForm s →
    (s.manifest.merge = none → exec .mergeStep s = .next s) ∧
    ∀ g, s.manifest.merge = some g → ∀ row, (s.manifest.page g.page).rows.toList[g.taken]? = some row →
      let present := ∃ e ∈ s.manifest.map, e.tag = row.tag
      let refused := row.tag = 0 ∨ (row.op = .upsert ∧ ¬ present ∧ s.manifest.map.length = 256)
      ∃ t tally, exec .mergeStep s = .next t ∧ OnlyChanges [.manifest, .notice] s t ∧ MapInForm t ∧
        (∀ tag, tag ≠ row.tag ∨ refused → t.manifest.find tag = s.manifest.find tag) ∧
        (refused → tally = { g.tally with refused := g.tally.refused + 1 }) ∧
        (¬ refused → row.op = .upsert →
          t.manifest.find row.tag = some ⟨row.tag, row.cls,
            if row.dueSpan = 65535 then 4294967295
            else if 4294967294 < s.age.clock + row.dueSpan then 4294967294 else s.age.clock + row.dueSpan,
            row.budget, row.orderRef, row.keep⟩ ∧
          (present → tally = { g.tally with replaced := g.tally.replaced + 1 }) ∧
          (¬ present → tally = { g.tally with inserted := g.tally.inserted + 1 })) ∧
        (¬ refused → row.op = .delete → t.manifest.find row.tag = none ∧
          (present → tally = { g.tally with deleted := g.tally.deleted + 1 }) ∧
          (¬ present → tally = { g.tally with absent := g.tally.absent + 1 })) ∧
        (g.taken + 1 < g.count → t.notice = s.notice ∧ t.manifest.report = s.manifest.report ∧
          (∀ p, t.manifest.page p = s.manifest.page p) ∧
          t.manifest.merge = some { g with taken := g.taken + 1, tally := tally }) ∧
        (g.taken + 1 = g.count → t.notice = afterRaising 7 s.notice ∧ t.manifest.report = ⟨g.page, g.count, tally⟩ ∧
          (t.manifest.page g.page).state = .empty ∧
          t.manifest.page g.page.other = s.manifest.page g.page.other ∧ t.manifest.merge = none)

/-! ### Collectors and reservations -/

/-- R39: ASSIGN in its order of checks; on acceptance the record is promised to the slot, its buried flag follows its depth
and raises BURIED when it is set, and the old collector's wait place for its lift goes. -/
def Obligations.AssignJudged : Prop :=
  ∀ (s : State) (i g b : Byte), PortFree s →
    let cmd := Instr.assign i g b
    (63 < i.toNat ∨ 15 < g.toNat ∨ 63 < b.toNat → exec cmd s = .next (commandTaken s s 3 ⟨.range, []⟩)) ∧
    ∀ (h : Handle) (k : Slot), i.toNat = h.idx.val → g.toNat = h.gen.val → b.toNat = k.val →
      (s.named h = none → exec cmd s = .next (commandTaken s s 3 ⟨.stale, []⟩)) ∧
      ∀ r, s.named h = some r →
        (r.state = .lifting → exec cmd s = .next (commandTaken s s 3 ⟨.busy, []⟩)) ∧
        (r.state ∈ [.reserved, .placing, .stranded] →
          exec cmd s = .next (commandTaken s s 3 ⟨.wrongState, []⟩)) ∧
        (r.state ∈ [.parked, .promised] → s.isLive k = false →
          exec cmd s = .next (commandTaken s s 3 ⟨.wrongState, []⟩)) ∧
        (r.state = .promised → s.isLive k → r.collector = some k →
          exec cmd s = .next (commandTaken s s 3 ⟨.ok, []⟩)) ∧
        (r.state = .parked ∨ (r.state = .promised ∧ r.collector ≠ some k) → s.isLive k → ∃ u,
          exec cmd s = .next (commandTaken s u 3 ⟨.ok, []⟩) ∧ OnlyChanges [.handoff, .lock, .notice] s u ∧
          SameEntriesBut h.idx s u ∧ SameCounts s u ∧
          (let deep := (s.depth r).any (0 < ·)
           u.entry h.idx = { s.entry h.idx with
              live := some { r with state := .promised, collector := some k, strandedFrom := none, buried := deep } } ∧
            u.notice = if deep ∧ r.buried = false then
                afterRaising 5 { s.notice with buried := some (s.notice.buried.getD h) }
              else s.notice) ∧
          SameLocksBut r.column s u ∧ u.lockOf r.column = s.lockOf r.column ∧
          u.lock = { s.lock with waits := u.lock.waits } ∧
          u.waitsOf r.column = (s.waitsOf r.column).filter fun e =>
            !(decide (r.state = .promised) && decide (r.collector = some e.slot) && decide (e.work = .lift) &&
              decide (e.handle = h)))

/-- R40: UNASSIGN in its order of checks; on acceptance the record is PARKED, not buried and without collector, and the
collector's wait place for its lift goes. -/
def Obligations.UnassignJudged : Prop :=
  ∀ (s : State) (i g : Byte), PortFree s →
    let cmd := Instr.unassign i g
    (63 < i.toNat ∨ 15 < g.toNat → exec cmd s = .next (commandTaken s s 2 ⟨.range, []⟩)) ∧
    ∀ h : Handle, i.toNat = h.idx.val → g.toNat = h.gen.val →
      (s.named h = none → exec cmd s = .next (commandTaken s s 2 ⟨.stale, []⟩)) ∧
      ∀ r, s.named h = some r →
        (r.state = .lifting → exec cmd s = .next (commandTaken s s 2 ⟨.busy, []⟩)) ∧
        (r.state ∈ [.reserved, .placing, .parked, .stranded] →
          exec cmd s = .next (commandTaken s s 2 ⟨.wrongState, []⟩)) ∧
        (r.state = .promised → ∃ u,
          exec cmd s = .next (commandTaken s u 2 ⟨.ok, []⟩) ∧ OnlyChanges [.handoff, .lock] s u ∧
          SameEntriesBut h.idx s u ∧ SameCounts s u ∧
          u.entry h.idx = { s.entry h.idx with
            live := some { r with state := .parked, collector := none, strandedFrom := none, buried := false } } ∧
          SameLocksBut r.column s u ∧ u.lockOf r.column = s.lockOf r.column ∧
          u.lock = { s.lock with waits := u.lock.waits } ∧
          u.waitsOf r.column = (s.waitsOf r.column).filter fun e =>
            !(decide (r.collector = some e.slot) && decide (e.work = .lift) && decide (e.handle = h)))

/-- R42, R34: CANCEL in its order of checks; on acceptance the record is retired CANCELLED: its index is free at the next
generation with its outcome entry, the free count rises, and the wait places for it go. -/
def Obligations.CancelJudged : Prop :=
  ∀ (s : State) (i g : Byte), PortFree s →
    let cmd := Instr.cancel i g
    (63 < i.toNat ∨ 15 < g.toNat → exec cmd s = .next (commandTaken s s 2 ⟨.range, []⟩)) ∧
    ∀ h : Handle, i.toNat = h.idx.val → g.toNat = h.gen.val →
      (s.named h = none → exec cmd s = .next (commandTaken s s 2 ⟨.stale, []⟩)) ∧
      ∀ r, s.named h = some r →
        (r.state = .placing → exec cmd s = .next (commandTaken s s 2 ⟨.busy, []⟩)) ∧
        (r.state ∈ [.parked, .promised, .lifting, .stranded] →
          exec cmd s = .next (commandTaken s s 2 ⟨.wrongState, []⟩)) ∧
        (r.state = .reserved → ∃ u,
          exec cmd s = .next (commandTaken s u 2 ⟨.ok, []⟩) ∧ OnlyChanges [.handoff, .lock] s u ∧
          SameEntriesBut h.idx s u ∧ u.entry h.idx = ⟨h.gen + 1, none, some ⟨h, .cancelled, r.tag, r.column⟩⟩ ∧
          u.handoff.freeCount = s.handoff.freeCount + 1 ∧
          u.handoff.order = s.handoff.order.filter (· ≠ h.idx) ∧
          SameLocksBut r.column s u ∧ u.lockOf r.column = s.lockOf r.column ∧
          u.lock = { s.lock with waits := u.lock.waits } ∧
          u.waitsOf r.column = (s.waitsOf r.column).filter (·.handle ≠ h))

/-! ### Surveyors and RESTACK -/

/-- R150, R65: SURVEY_ASK in its order of checks; naming another surveyor ends the old one's SURVEY lock, with no expired
mark. -/
def Obligations.SurveyAskJudged : Prop :=
  ∀ (s : State) (col b : Byte), PortFree s →
    let cmd := Instr.surveyAsk col b
    (15 < col.toNat ∨ 63 < b.toNat → exec cmd s = .next (commandTaken s s 2 ⟨.range, []⟩)) ∧
    ∀ (c : Col) (k : Slot), col.toNat = c.val → b.toNat = k.val →
      ((s.col c).service ≠ .suspect ∨ s.isLive k = false →
        exec cmd s = .next (commandTaken s s 2 ⟨.wrongState, []⟩)) ∧
      ((s.col c).service = .suspect → s.isLive k →
        (s.surveyor c = some k → exec cmd s = .next (commandTaken s s 2 ⟨.ok, []⟩)) ∧
        (s.surveyor c ≠ some k → ∃ u,
          exec cmd s = .next (commandTaken s u 2 ⟨.ok, []⟩) ∧ OnlyChanges [.lock, .survey] s u ∧
          u.surveyor c = some k ∧ (∀ d, d ≠ c → u.surveyor d = s.surveyor d) ∧ u.survey.box = s.survey.box ∧
          u.lock = { s.lock with locks := u.lock.locks } ∧ (∀ d, d ≠ c → u.lockOf d = s.lockOf d) ∧
          u.lockOf c =
            if (∃ l ∈ s.lockOf c, s.surveyor c = some l.holder ∧ l.hold = .survey) then none else s.lockOf c))

/-- R156: RESTACK's checks in their order. -/
def Obligations.RestackRefusals : Prop :=
  ∀ (s : State) (col : Byte) (tags : List Tag), PortFree s → tags.length ≤ 9 →
    let cmd := Instr.restack col tags
    let n := 1 + 4 * tags.length
    (15 < col.toNat → exec cmd s = .next (commandTaken s s n ⟨.range, []⟩)) ∧
    ∀ c : Col, col.toNat = c.val →
      let bad := (s.col c).capacity < tags.length ∨ (0 : Tag) ∈ tags ∨ ¬ tags.Nodup
      let repairable := (s.col c).service = .suspect ∨ (s.col c).service = .fault
      let elsewhere := ∃ t ∈ tags, ∃ i r, s.live i = some r ∧ r.tag = t ∧ r.column ≠ c
      let unknown := (tags.filter fun t => decide (∀ i, ∀ r ∈ s.live i, r.tag ≠ t)).length
      (bad → exec cmd s = .next (commandTaken s s n ⟨.range, []⟩)) ∧
      (¬ bad → ¬ repairable → exec cmd s = .next (commandTaken s s n ⟨.wrongState, []⟩)) ∧
      (¬ bad → repairable → (s.lockOf c).isSome → exec cmd s = .next (commandTaken s s n ⟨.busy, []⟩)) ∧
      (TagsUnique s → ¬ bad → repairable → s.lockOf c = none →
        (elsewhere → exec cmd s = .next (commandTaken s s n ⟨.conflict, []⟩)) ∧
        (¬ elsewhere → s.handoff.freeCount < unknown →
          exec cmd s = .next (commandTaken s s n ⟨.full, []⟩)) ∧
        (¬ elsewhere → unknown ≤ s.handoff.freeCount →
          ∃ u d, exec cmd s = .next (commandTaken s u n ⟨.ok, d⟩)))

/-- R157: an accepted RESTACK, whole. The column's stack is the list, at renumbered levels, and the column is back in its prior
service state; each listed tag without a record has a new PARKED record with the found flag, at the lowest free indices in list
order; each record that named the column is what R157 and R152 make of it (Restacked), the stranded one included; the
reservations that make the load too large are retired UNPLACED, latest made first, and the response gives their number; a
DELIVERED lift consumes its manifest entry; UNLISTED and BURIED are raised for what is newly so. That the robot concerned is
judged on the state when the command is taken is the model's reading (log entry 10). -/
def Obligations.RestackRewritesTheStack : Prop :=
  ∀ (s : State) (col : Byte) (tags : List Tag) (c : Col), PortFree s → Coherent s → MapInForm s → col.toNat = c.val →
    tags.length ≤ (s.col c).capacity → (0 : Tag) ∉ tags → tags.Nodup →
    (s.col c).service = .suspect ∨ (s.col c).service = .fault → s.lockOf c = none →
    (∀ t ∈ tags, ∀ i, ∀ r ∈ s.live i, r.tag = t → r.column = c) →
    (tags.filter fun t => decide (∀ i, ∀ r ∈ s.live i, r.tag ≠ t)).length ≤ s.handoff.freeCount →
    ∃ u, exec (.restack col tags) s = .next (commandTaken s u (1 + 4 * tags.length) ⟨.ok,
        [BitVec.ofNat 8 tags.length]
          ++ (u.col c).stack.flatMap (fun h => [BitVec.ofNat 8 h.idx.val, BitVec.ofNat 8 h.gen.val])
          ++ [BitVec.ofNat 8 (excess s c tags)]⟩) ∧
      OnlyChanges [.columns, .handoff, .lock, .manifest, .notice, .survey] s u ∧
      -- the column, its survey and its lock
      u.stackTags c = tags ∧ (u.col c).stack.length = tags.length ∧
      (∀ n, ∀ h, (u.col c).stack[n]? = some h → ∃ r, u.named h = some r ∧ r.level = some n ∧ r.column = c) ∧
      u.col c = { s.col c with
        stack := (u.col c).stack, stranded := none, strandingId := none, service := (s.col c).prior.toService } ∧
      SameColumnsBut c s u ∧ u.surveyor c = none ∧ (∀ d, d ≠ c → u.surveyor d = s.surveyor d) ∧
      u.survey.box = s.survey.box ∧ SameLocks s u ∧ u.lock = { s.lock with waits := u.lock.waits } ∧
      u.load c ≤ (u.col c).capacity ∧
      -- the new records
      (∀ p ∈ newPlaces s tags, ∃ l, tags[l]? = some p.2 ∧ u.entry p.1 = ⟨(s.entry p.1).gen,
        some ⟨.parked, p.2, (s.factsOf p.2).1.cls, (s.factsOf p.2).1.deadline, (s.factsOf p.2).1.budget, false, false,
          (s.manifest.find p.2).isNone, false, true, none, none, c, some l, (s.factsOf p.2).1.orderRef, none⟩, none⟩) ∧
      -- the records there were, and the indices that stay free
      (∀ i, ∀ r ∈ s.live i, if r.column = c then Restacked s u c tags i r else u.entry i = s.entry i) ∧
      (∀ i, s.live i = none → i ∉ (newPlaces s tags).map Prod.fst → u.entry i = s.entry i) ∧
      FreeCounted u ∧
      u.handoff.order =
        (s.handoff.order ++ (newPlaces s tags).map Prod.fst).filter (fun i => (u.live i).isSome) ∧
      -- the manifest and the notices
      (∀ h r, (s.col c).stranded = some h → s.named h = some r →
        u.manifest = if r.strandedFrom = some .lifting ∧ r.tag ∉ tags ∧ ConcernedLive s c r.collector then
            { s.manifest with map := consumedMap s r.tag }
          else s.manifest) ∧
      u.notice = noticeAfterRestack s u c tags

/-! ### Notices -/

/-- R167, R168: NOTICE_ACK clears the kinds it selects with their subjects, NOTICE_ENABLE writes the enable set, bits 11 to
15 of either mask are ignored, and ATTN_N follows. -/
def Obligations.NoticeMasksApply : Prop :=
  ∀ (s : State) (m : BitVec 16), PortFree s →
    let low := m.extractLsb' 0 11
    let pending := s.notice.pending &&& ~~~low
    exec (.noticeAck m) s = .next (commandTaken s
      { s with notice :=
        { pending := pending
          enabled := s.notice.enabled
          overdue := if m.getLsbD 3 then none else s.notice.overdue
          spent := if m.getLsbD 4 then none else s.notice.spent
          buried := if m.getLsbD 5 then none else s.notice.buried
          unlisted := if m.getLsbD 6 then none else s.notice.unlisted
          blockEnd := if m.getLsbD 9 then none else s.notice.blockEnd
          frameError := if m.getLsbD 10 then none else s.notice.frameError
          attnN := decide (pending &&& s.notice.enabled = 0) } } 2 ⟨.ok, []⟩) ∧
    exec (.noticeEnable m) s = .next (commandTaken s
      { s with notice := { s.notice with enabled := low, attnN := decide (s.notice.pending &&& low = 0) } } 2 ⟨.ok, []⟩)

/-! ### The zone -/

/-- R162, R163, with R57, R73, R92 and R126: ZONE_SETUP is refused unless the link and the age unit are both STOPPED, and
stores every parameter as clamped, the thresholds in rising order. -/
def Obligations.ZoneSetupClamps : Prop :=
  ∀ (s : State) (p : ZoneParams), PortFree s →
    let upTo : Nat → Nat → Nat := fun most n => if most < n then most else n
    let within : Nat → Nat → Nat → Nat := fun least most n => if n < least then least else upTo most n
    (s.line.run ≠ .stopped ∨ s.age.run ≠ .stopped →
      exec (.zoneSetup p) s = .next (commandTaken s s 24 ⟨.notStopped, []⟩)) ∧
    (s.line.run = .stopped → s.age.run = .stopped → ∃ u,
      exec (.zoneSetup p) s = .next (commandTaken s u 24 ⟨.ok, []⟩) ∧
      OnlyChanges [.placement, .line, .lock, .age] s u ∧
      u.placement = ⟨upTo 15 p.wd.toNat, upTo 15 p.wh.toNat, upTo 15 p.wb.toNat, p.wc.toNat,
        if p.defaultClass = 0 then .ambient else if p.defaultClass = 1 then .chilled else .frozen,
        upTo 4095 p.defaultBudget.toNat, p.defaultDueSpan.toNat⟩ ∧
      u.line = { s.line with
        lossThreshold := within 1 15 p.lossThreshold.toNat
        probeInterval := within 1 16 p.probeInterval.toNat
        replyWindow := within 2 255 p.replyWindow.toNat
        lineRate := upTo 3 p.lineRate.toNat
        roundPeriod := p.roundPeriod.toNat } ∧
      u.lock = { s.lock with
        placeLimit := within 1 255 p.placeLimit.toNat
        liftLimit := within 1 255 p.liftLimit.toNat
        surveyLimit := within 1 255 p.surveyLimit.toNat } ∧
      u.age = { s.age with
        period := within 1 255 p.agePeriod.toNat
        mode := if p.warmthMode = 0 then .fixed else if p.warmthMode = 1 then .highest else .guarded
        fixedBand := upTo 3 p.fixedBand.toNat
        t1 := u.age.t1
        t2 := u.age.t2
        t3 := u.age.t3
        guardGap := upTo 31 p.guardGap.toNat } ∧
      u.age.t1 ≤ u.age.t2 ∧ u.age.t2 ≤ u.age.t3 ∧
      [u.age.t1, u.age.t2, u.age.t3].Perm [upTo 62 p.t1.toNat, upTo 62 p.t2.toNat, upTo 62 p.t3.toNat])

/-- R162, R164, with R20, R45, R60, R127 and R149: ZONE_CLEAR is refused unless both are STOPPED, and empties the relay
table in every block, keeping definitions, settings and bin facts. -/
def Obligations.ZoneClearEmptiesTheTable : Prop :=
  ∀ s : State, PortFree s →
    (s.line.run ≠ .stopped ∨ s.age.run ≠ .stopped →
      exec .zoneClear s = .next (commandTaken s s 0 ⟨.notStopped, []⟩)) ∧
    (s.line.run = .stopped → s.age.run = .stopped → ∃ u,
      exec .zoneClear s = .next (commandTaken s u 0 ⟨.ok, []⟩) ∧
      OnlyChanges [.handoff, .columns, .lock, .survey, .line, .notice] s u ∧
      (∀ i, u.entry i = { s.entry i with gen := (s.entry i).gen + 1, live := none }) ∧ u.handoff.freeCount = 64 ∧
      (∀ c, u.col c = { s.col c with
          stack := []
          stranded := none
          strandingId := none
          service := if (s.col c).service = .suspect ∨ (s.col c).service = .fault then
              (if (s.col c).prior = .opened then .opened else .draining)
            else (s.col c).service } ∧
        u.lockOf c = none ∧ u.waitsOf c = [] ∧ u.surveyor c = none ∧ u.load c = 0) ∧
      (u.lock.placeLimit = s.lock.placeLimit ∧ u.lock.liftLimit = s.lock.liftLimit ∧
        u.lock.surveyLimit = s.lock.surveyLimit) ∧
      u.survey.box = none ∧ u.line = { s.line with slots := u.line.slots } ∧
      (∀ k, u.mark k = none ∧
        u.slot k = { s.slot k with link := .vacant, robotId := none, miss := 0, verdict := none }) ∧
      u.notice = { s.notice with
        pending := s.notice.pending &&& ~~~(0b111#11)
        attnN := decide (s.notice.pending &&& ~~~(0b111#11) &&& s.notice.enabled = 0) })

/-! ### Exchanges, rounds and timers -/

/-- R116 to R119: a start bit opens reception, after which the window's expiry does nothing, unless it is taken after the expiry
of its own window, when its bytes are received by no exchange; that such a start bit is known by the CALL begun at the expiry
being still in the sending is the model's reading (log entry 24). An exchange that ends without a valid answer raises the miss
count of a called slot that stays below the loss threshold, and counts nothing on a probe. Outside an exchange the line's
events change nothing. -/
def Obligations.MissIsCounted : Prop :=
  ∀ s : State,
    (∀ x, exchangeOf s = some x →
      let late := x.receiving = false ∧ s.line.lastExpiry = some x.startedAt ∧
        (s.now - x.startedAt) * 2 ^ s.line.lineRate < 300
      (¬ late → exec .answerStartBit s = .next (s.setPhase (.calling { x with receiving := true }))) ∧
      (late → exec .answerStartBit s = .next { s with line := { s.line with lastExpiry := none } }) ∧
      (x.receiving = true → exec .replyWindowExpiry s = .next s) ∧
      (x.receiving = false → exec .answerOverlength s = .next s ∧ ∀ bytes bad, exec (.answerEnd bytes bad) s = .next s)) ∧
    (exchangeOf s = none →
      exec .answerStartBit s = .next s ∧ exec .replyWindowExpiry s = .next s ∧ exec .answerOverlength s = .next s ∧
        ∀ bytes bad, exec (.answerEnd bytes bad) s = .next s) ∧
    ∀ x i, EndsUnanswered s x i →
      (x.kind = .regular → min 15 ((s.slot x.slot).miss + 1) < s.line.lossThreshold → ∃ t, exec i s = .next t ∧
        LineGoesOn (s.setSlot x.slot { s.slot x.slot with miss := min 15 ((s.slot x.slot).miss + 1) }) t) ∧
      (x.kind = .probe → ∃ t, exec i s = .next t ∧ LineGoesOn s t)

/-- R118, R145, R147: a miss that reaches the loss threshold makes the slot LOST: its PLACE or LIFT lock is stranded and its
SURVEY lock ends, its wait place goes, its RESERVED record is retired UNPLACED, its PROMISED records become PARKED, its
designations and its expired mark go, and LOST is raised, with STRANDED when a lock was stranded. -/
def Obligations.MissAtThresholdLoses : Prop :=
  ∀ (s : State) (x : Exchange) (i : Instr), Coherent s → EndsUnanswered s x i → x.kind = .regular →
    s.line.lossThreshold ≤ min 15 ((s.slot x.slot).miss + 1) →
    let k := x.slot
    ∃ u t, exec i s = .next t ∧ LineGoesOn u t ∧ OnlyChanges [.line, .notice, .handoff, .columns, .lock, .survey] s u ∧
      u.line = { s.line with slots := u.line.slots } ∧
      u.slot k = { s.slot k with miss := min 15 ((s.slot k).miss + 1), link := .lost, verdict := none } ∧
      (∀ j, j ≠ k → u.slot j = s.slot j ∧ u.mark j = s.mark j) ∧ u.mark k = none ∧
      (∀ c, u.surveyor c = if s.surveyor c = some k then none else s.surveyor c) ∧ u.survey.box = s.survey.box ∧
      (∀ c, let lost := (∃ l ∈ s.lockOf c, l.holder = k)
        let strands := (∃ l ∈ s.lockOf c, l.holder = k ∧ l.hold ≠ .survey)
        u.lockOf c = (if lost then none else s.lockOf c) ∧
        u.waitsOf c = (if strands then [] else (s.waitsOf c).filter fun e => decide (e.slot ≠ k)) ∧
        (strands → (u.col c).service = .suspect ∧ (u.col c).stranded = ((s.lockOf c).bind (·.hold.handle)) ∧
          (u.col c).strandingId = (s.slot k).robotId ∧ (u.col c).prior.toService = (s.col c).service ∧
          (u.col c).stack = (s.col c).stack) ∧
        (¬ strands → u.col c = s.col c)) ∧
      (∀ j, ∀ r ∈ s.live j,
        (r.state = .reserved → r.releaser = some k →
          u.entry j = ⟨(s.entry j).gen + 1, none, some ⟨s.handleAt j, .unplaced, r.tag, r.column⟩⟩) ∧
        (r.state = .promised → r.collector = some k →
          u.live j = some { r with state := .parked, collector := none, buried := false }) ∧
        (r.state = .placing → r.releaser = some k →
          u.live j = some { r with state := .stranded, strandedFrom := some .placing }) ∧
        (r.state = .lifting → r.collector = some k →
          u.live j = some { r with state := .stranded, strandedFrom := some .lifting }) ∧
        (¬ (r.reserves ∧ r.releaser = some k) → ¬ ((r.state = .promised ∨ r.state = .lifting) ∧ r.collector = some k) →
          u.entry j = s.entry j)) ∧
      u.notice = afterRaising 0
        (if ∃ c, ∃ l ∈ s.lockOf c, l.holder = k ∧ l.hold ≠ .survey then afterRaising 1 s.notice else s.notice)

/-- R131, R172, R173: the ANSWER that R172 lays out for a request reads as that request with its status and passes the
line checks of the slot called. That its end is the request's own row is the model's choice of what the row stands for (log entry
4). -/
def Obligations.AnswerCarriesItsRequest : Prop :=
  ∀ (s : State) (k : Slot) (kind : CallKind) (st : Status) (i : Instr) (q : Request), Hears s k kind →
    requestOf i = some (st, q) → q.wellFormed = true →
    ¬ Spoiled k (encodeAnswer k st (some q)) false ∧ ¬ Spoiled k (encodeAnswer k st none) false ∧
    readAnswer k (encodeAnswer k st none) false = .valid st none ∧
    readAnswer k (encodeAnswer k st (some q)) false = .valid st (some q) ∧
    exec (.answerEnd (encodeAnswer k st (some q)) false) s = exec i s

/-- R122, R123: a round in which no CALL is sent ends: it is measured, LATE_ROUND is raised if its successor came due before
now, and the next round begins at once or is waited for, all else being as it was (RoundEnded). That a successor due at this
very moment makes no round late is the model's reading (log entry 13), and that EMPTY_ROUND_END means nothing elsewhere is its
choice (log entry 2). -/
def Obligations.EmptyRoundEnds : Prop :=
  ∀ s : State,
    (s.line.phase ≠ .emptyRound → exec .emptyRoundEnd s = .next s) ∧
    (s.line.phase = .emptyRound → ∃ t, exec .emptyRoundEnd s = .next t ∧ RoundEnded s t)

/-- R74, R76, R77, R78, R130: the expiry of a lease strands PLACE and LIFT work, ends a SURVEY lock, and sets the holder's
expired mark; an answer that reports FAULT does the same to its slot's lock, and removes a waiter's place. A request that it
carries is judged after that: a waiter's as in the state without its place, a holder's as in the state after the expiry of its
lease, where the mark that this answer has set stays unless the slot leaves the line. That LEASE_EXPIRY on a free lock changes
nothing is the model's choice (log entry 2). -/
def Obligations.LeaseExpiryAndFaultEndLocks : Prop :=
  ∀ (s : State) (c : Col), Coherent s →
    (s.lockOf c = none → exec (.leaseExpiry c) s = .next s) ∧
    (∀ l, s.lockOf c = some l → l.hold = .survey →
      exec (.leaseExpiry c) s = .next ((s.setLockOf c none).setMark l.holder (some c))) ∧
    (∀ l w h, s.lockOf c = some l → l.hold = .work w h → ∃ r u, s.named h = some r ∧
      exec (.leaseExpiry c) s = .next u ∧ OnlyChanges [.lock, .handoff, .columns, .notice] s u ∧
      StrandedIn s u c l w h r ∧ u.notice = afterRaising 1 s.notice ∧
      u.mark l.holder = some c ∧ ∀ j, j ≠ l.holder → u.mark j = s.mark j) ∧
    (∀ (k : Slot) (st : Status), Hears s k .regular → st.cond ≠ 0 → st.cond ≠ 1 → ∃ u t,
      exec (.answerEnd (encodeAnswer k st none) false) s = .next t ∧ LineGoesOn u t ∧
      OnlyChanges [.line, .lock, .handoff, .columns, .notice] s u ∧ u.line = { s.line with slots := u.line.slots } ∧
      u.slot k = slotAfter (s.slot k) st none ∧ (∀ j, j ≠ k → u.slot j = s.slot j) ∧
      (∀ l w h, s.lockOf c = some l → l.holder = k → l.hold = .work w h → ∃ r, s.named h = some r ∧
        StrandedIn s u c l w h r ∧ u.notice = afterRaising 1 s.notice ∧ u.mark k = some c) ∧
      (∀ l, s.lockOf c = some l → l.holder = k → l.hold = .survey →
        u.lockOf c = none ∧ SameLocksBut c s u ∧ u.columns = s.columns ∧ u.handoff = s.handoff ∧
          u.notice = s.notice ∧ u.mark k = some c) ∧
      ((∀ d, ∀ l ∈ s.lockOf d, l.holder ≠ k) →
        u.waitsOf c = (s.waitsOf c).filter (fun e => decide (e.slot ≠ k)) ∧ u.lockOf c = s.lockOf c ∧
          u.columns = s.columns ∧ u.handoff = s.handoff ∧ u.notice = s.notice ∧ u.mark k = s.mark k)) ∧
    ∀ (k : Slot) (st : Status) (i : Instr) (q : Request), Hears s k .regular → st.cond ≠ 0 → st.cond ≠ 1 →
      requestOf i = some (st, q) → q.wellFormed = true →
      ((∀ d, ∀ l ∈ s.lockOf d, l.holder ≠ k) → exec i s = exec i
        { s with lock := { s.lock with
          waits := s.lock.waits.map fun es => es.filter fun e => decide (e.slot ≠ k) } }) ∧
      (∀ l, s.lockOf c = some l → l.holder = k → ∃ v u t u' t', exec (.leaseExpiry c) s = .next v ∧
        exec i s = .next t ∧ LineGoesOn u t ∧ exec i v = .next t' ∧ LineGoesOn u' t' ∧
        u' = u.setMark k none ∧ u.mark k = if (u.slot k).link = .live then some c else none)

/-- R82, R84, R87, R88, R89: an age event raises the clock, lowers every live record's budget by its class's share at the new
band, sets the spent and overdue flags, and raises SPENT and OVERDUE with the lowest index newly flagged as the subject of a
kind that holds none. That a record made before the event is one of those lowered and tested follows R84, where a row of R93 has
the orders the other way round: the model's reading (log entry 27). -/
def Obligations.AgeEventLowersBudgets : Prop :=
  ∀ (s : State) (n : Nat), s.age.run = .running n → ∃ t, exec .ageEvent s = .next t ∧
    OnlyChanges [.age, .handoff, .notice] s t ∧ SameCounts s t ∧
    t.age = { s.age with
      run := .running s.now
      clock := if 4294967294 ≤ s.age.clock then 4294967294 else s.age.clock + 1
      band := t.age.band
      aggregate := t.age.aggregate
      readings := t.age.readings } ∧
    let weight : StorageClass → Nat := fun c => match c with
      | .ambient => 0
      | .chilled => 1
      | .frozen => 2
    let left : Record → Nat := fun r => r.budget - weight r.cls * (t.age.band + 1)
    let spends : RecIdx → Bool := fun i => (s.live i).any fun r => decide (left r = 0) && !r.spent
    let falls : RecIdx → Bool := fun i => (s.live i).any fun r => decide (r.deadline ≤ t.age.clock) && !r.overdue
    (∀ i, t.entry i = { s.entry i with
      live := (s.live i).map fun r =>
        { r with
          budget := left r
          spent := r.spent || decide (left r = 0)
          overdue := r.overdue || decide (r.deadline ≤ t.age.clock) } }) ∧
    t.notice.spent = (s.notice.spent.or (((List.finRange 64).find? spends).map s.handleAt)) ∧
    t.notice.overdue = (s.notice.overdue.or (((List.finRange 64).find? falls).map s.handleAt)) ∧
    (t.notice.pending.getLsbD 4 = (s.notice.pending.getLsbD 4 || (List.finRange 64).any spends)) ∧
    (t.notice.pending.getLsbD 3 = (s.notice.pending.getLsbD 3 || (List.finRange 64).any falls)) ∧
    (∀ b, b ≠ 3 → b ≠ 4 → t.notice.pending.getLsbD b = s.notice.pending.getLsbD b) ∧
    t.notice = { s.notice with
      pending := t.notice.pending, spent := t.notice.spent, overdue := t.notice.overdue, attnN := t.notice.attnN }

/-- R85, R86: the aggregate temperature and the band that an age event writes, by the warmth mode. -/
def Obligations.WarmthBandIsFound : Prop :=
  ∀ (s : State) (n : Nat), s.age.run = .running n → ∃ t, exec .ageEvent s = .next t ∧
    let l := readingsNow s
    t.age.readings = l.length ∧
    (s.age.mode = .fixed ∨ l = [] → t.age.aggregate = none ∧ t.age.band = s.age.fixedBand) ∧
    (s.age.mode = .highest → ∀ a ∈ l, (∀ b ∈ l, b ≤ a) → t.age.aggregate = some a) ∧
    (s.age.mode = .guarded → ∀ a, l = [a] → t.age.aggregate = some a) ∧
    (s.age.mode = .guarded → ∀ a ∈ l, (∀ b ∈ l, b ≤ a) → ∀ b ∈ l.erase a, (∀ x ∈ l.erase a, x ≤ b) →
      t.age.aggregate = some (if s.age.guardGap < a - b then b else a)) ∧
    ∀ a, t.age.aggregate = some a → t.age.band = ([s.age.t1, s.age.t2, s.age.t3].filter (· ≤ a)).length

/-! ### Robot requests -/

/-- R119, R120, R131: JOIN on a probe and on a regular CALL; nothing but JOIN is heard on a probe. -/
def Obligations.JoinJudged : Prop :=
  ∀ (s : State) (k : Slot) (st : Status) (id : RobotId),
    (Hears s k .probe →
      (id = 0 → ∃ t, exec (.join st id) s = .next t ∧ LineGoesOn s t) ∧
      (id ≠ 0 → (∃ j, (s.slot j).link = .live ∧ (s.slot j).robotId = some id) → ∃ t, exec (.join st id) s = .next t ∧
        LineGoesOn (s.setSlot k { s.slot k with verdict := some .refusedId }) t) ∧
      (id ≠ 0 → (∀ j, (s.slot j).link = .live → (s.slot j).robotId ≠ some id) → ∃ t, exec (.join st id) s = .next t ∧
        LineGoesOn
          (s.setSlot k { slotAfter (s.slot k) st (some .welcome) with link := .live, robotId := some id }) t) ∧
      ∀ i q, requestOf i = some (st, q) → (∀ id, q ≠ .join id) → ∃ t, exec i s = .next t ∧ LineGoesOn s t) ∧
    (Hears s k .regular → Sound s k st →
      Refuses s (.join st id) k st (if (s.slot k).robotId = some id then .welcome else .wrongState))

/-- R121: LEAVE from a slot that is not QUIET: refused while it holds a lock or is releaser of a RESERVED or PLACING record;
otherwise its wait place, promises, expired mark and designations go, and it becomes VACANT. -/
def Obligations.LeaveJudged : Prop :=
  ∀ (s : State) (k : Slot) (st : Status), Reports s k st →
    let holds := ∃ c, ∃ l ∈ s.lockOf c, l.holder = k
    let reserves := ∃ i, ∃ r ∈ s.live i, (r.state = .reserved ∨ r.state = .placing) ∧ r.releaser = some k
    (holds ∨ reserves → Refuses s (.leave st) k st .wrongState) ∧
    (¬ holds → ¬ reserves → ∃ u t, exec (.leave st) s = .next t ∧ LineGoesOn u t ∧
      OnlyChanges [.line, .lock, .handoff, .survey] s u ∧ u.line = { s.line with slots := u.line.slots } ∧
      u.slot k = { slotAfter (s.slot k) st (some .left) with link := .vacant, robotId := none } ∧
      (∀ j, j ≠ k → u.slot j = s.slot j ∧ u.mark j = s.mark j) ∧ u.mark k = none ∧ SameCounts s u ∧
      (∀ c, u.lockOf c = s.lockOf c ∧ u.waitsOf c = (s.waitsOf c).filter fun e => decide (e.slot ≠ k)) ∧
      (∀ c, u.surveyor c = if s.surveyor c = some k then none else s.surveyor c) ∧ u.survey.box = s.survey.box ∧
      (∀ i, ∀ r ∈ s.live i, r.state = .promised → r.collector = some k →
        u.entry i = { s.entry i with
          live := some { r with state := .parked, collector := none, strandedFrom := none, buried := false } }) ∧
      ∀ i, (∀ r ∈ s.live i, ¬ (r.state = .promised ∧ r.collector = some k)) → u.entry i = s.entry i)

/-- R47, R51, R52, R56: a PARK that passes its checks makes a RESERVED record at the lowest free index, with the bin's facts,
on the column with the lowest score, then the lowest load, then the lowest number, judged from the position of the same
answer; and whenever a column is eligible, exactly one is chosen. -/
def Obligations.ParkReservesBestPlace : Prop :=
  ∀ (s : State) (k : Slot) (st : Status) (t : Tag) (i : RecIdx) (c : Col) (f : BinFacts), Reports s k st →
    (∀ d, ∀ e ∈ s.waitsOf d, e.slot ≠ k) → FreeCounted s → t ≠ 0 → (∀ j, ∀ r ∈ s.live j, r.tag ≠ t) →
    (∀ j, ∀ r ∈ s.live j, r.reservedBy k = false) → s.live i = none → (∀ j, j < i → (s.live j).isSome) →
    (s.manifest.find t = some f ∨ (s.manifest.find t = none ∧
      f = ⟨t, s.placement.defaultClass,
        if s.placement.defaultDueSpan = 65535 then 4294967295
        else if 4294967294 < s.age.clock + s.placement.defaultDueSpan then 4294967294
        else s.age.clock + s.placement.defaultDueSpan,
        s.placement.defaultBudget, 0, false⟩)) →
    let x := if 127 < st.x.toNat then 127 else st.x.toNat
    let y := if 127 < st.y.toNat then 127 else st.y.toNat
    ((∃ d, s.eligible f.cls d) → ∃! d, Chosen s x y f d) ∧
    (Chosen s x y f c → Takes s (.park st t) k st (.place c ⟨i, (s.entry i).gen⟩) [.handoff, .notice] fun u =>
      SameLocks s u ∧ SameEntriesBut i s u ∧
      u.entry i = ⟨(s.entry i).gen,
        some ⟨.reserved, t, f.cls, f.deadline, f.budget, false, false, (s.manifest.find t).isNone, false, false, some k,
          none, c, none, f.orderRef, none⟩, none⟩ ∧
      u.handoff.freeCount = s.handoff.freeCount - 1 ∧ u.handoff.order = s.handoff.order ++ [i] ∧
      u.notice = if (s.manifest.find t).isNone then
          afterRaising 6 { s.notice with unlisted := some (s.notice.unlisted.getD ⟨i, (s.entry i).gen⟩) }
        else s.notice)

/-- R47, R48: the refusals of PARK and its repeat, in their order. -/
def Obligations.ParkRefusals : Prop :=
  ∀ (s : State) (k : Slot) (st : Status) (t : Tag), Reports s k st → (∀ d, ∀ e ∈ s.waitsOf d, e.slot ≠ k) →
    TagsUnique s → OneReservation s → FreeCounted s →
    let free := ∀ i, ∀ r ∈ s.live i, r.tag ≠ t
    (t = 0 → Refuses s (.park st t) k st .unknown) ∧
    (∀ i, ∀ r ∈ s.live i, r.tag = t →
      (r.state = .reserved → r.releaser = some k →
        Refuses s (.park st t) k st (.place r.column (s.handleAt i))) ∧
      (¬ (r.state = .reserved ∧ r.releaser = some k) → Refuses s (.park st t) k st .duplicate)) ∧
    (t ≠ 0 → free → ∀ i, ∀ r ∈ s.live i, r.state = .reserved ∨ r.state = .placing → r.releaser = some k →
      Refuses s (.park st t) k st (.oneOnly (s.handleAt i))) ∧
    (t ≠ 0 → free → (∀ i, ∀ r ∈ s.live i, r.reservedBy k = false) →
      (s.handoff.freeCount = 0 → Refuses s (.park st t) k st .full) ∧
      (s.handoff.freeCount ≠ 0 → (∀ c, s.eligible (s.factsOf t).1.cls c = false) →
        Refuses s (.park st t) k st .noRoom))

/-- R62 to R67: LOCK in its order of checks, from a waiter, a holder and a slot that is neither, with the grant and the
queuing it makes. -/
def Obligations.LockJudged : Prop :=
  ∀ (s : State) (k : Slot) (st : Status) (col : Byte) (o : Option Handle), Reports s k st → OnePosition s →
    let cmd := Instr.lock st col o
    let granted := fun (c : Col) (hold : Hold) (limit : Nat) (u : State) =>
      u.lockOf c = some ⟨k, hold, limit, s.now⟩ ∧ u.waitsOf c = s.waitsOf c ∧ SameLocksBut c s u
    (∀ c n e, (s.waitsOf c)[n]? = some e → e.slot = k → Refuses s cmd k st
      (if col.toNat = c.val ∧ o = some e.handle then .queued c (n + 1) else .busy)) ∧
    (∀ c, ∀ l ∈ s.lockOf c, l.holder = k → Refuses s cmd k st
      (if col.toNat = c.val ∧ o = l.hold.handle then .granted c l.hold (l.remaining s.now) else .busy)) ∧
    (k ∉ positions s →
      (o = none →
        (15 < col.toNat → Refuses s cmd k st .notYours) ∧
        ∀ c : Col, col.toNat = c.val →
          ((s.col c).service ≠ .suspect ∨ s.surveyor c ≠ some k → Refuses s cmd k st .notYours) ∧
          ((s.col c).service = .suspect → s.surveyor c = some k →
            Takes s cmd k st (.granted c .survey s.lock.surveyLimit) [] (granted c .survey s.lock.surveyLimit))) ∧
      ∀ h, o = some h →
        (15 < col.toNat → Refuses s cmd k st .shut) ∧
        ∀ c : Col, col.toNat = c.val →
          (¬ inService s c → Refuses s cmd k st .shut) ∧
          (inService s c → s.named h = none → Refuses s cmd k st .stale) ∧
          (inService s c → ∀ r, s.named h = some r →
            let place := r.column = c ∧ r.state = .reserved ∧ r.releaser = some k
            let lift := r.column = c ∧ r.state = .promised ∧ r.collector = some k
            let depth := (s.depth r).getD 0
            (¬ place → ¬ lift → Refuses s cmd k st .notYours) ∧
            (lift → 0 < depth → Refuses s cmd k st (.buried depth)) ∧
            (place ∨ (lift ∧ depth = 0) →
              let work : Work := if r.state = .reserved then .place else .lift
              let limit := if r.state = .reserved then s.lock.placeLimit else s.lock.liftLimit
              (s.lockOf c = none →
                Takes s cmd k st (.granted c (.work work h) limit) [.handoff] fun u =>
                  granted c (.work work h) limit u ∧ SameEntriesBut h.idx s u ∧ SameCounts s u ∧
                  u.entry h.idx = { s.entry h.idx with
                    live := some (if r.state = .reserved then { r with state := .placing }
                      else { r with state := .lifting, buried := false }) }) ∧
              ((s.lockOf c).isSome → (s.waitsOf c).length < 4 →
                Takes s cmd k st (.queued c ((s.waitsOf c).length + 1)) [] fun u =>
                  u.waitsOf c = s.waitsOf c ++ [⟨k, work, h⟩] ∧ u.lockOf c = s.lockOf c ∧ SameLocksBut c s u) ∧
              ((s.lockOf c).isSome → 4 ≤ (s.waitsOf c).length → Refuses s cmd k st .queueFull))))

/-- R68, R135, R70: SET_DOWN. On acceptance the record is PARKED at the level of the stack's length and pushed, a PROMISED
record beneath it is buried with BURIED raised, and the lock goes to the first possible waiter or is free. -/
def Obligations.SetDownJudged : Prop :=
  ∀ (s : State) (k : Slot) (st : Status) (h : Handle), Coherent s → Reports s k st →
    (∀ d, ∀ e ∈ s.waitsOf d, e.slot ≠ k) →
    let cmd := Instr.setDown st h
    (s.named h = none → Refuses s cmd k st .stale) ∧
    ∀ r, s.named h = some r →
      let late := r.state = .stranded ∧ ((r.strandedFrom = some .placing ∧ r.releaser = some k) ∨
        (r.strandedFrom = some .lifting ∧ r.collector = some k))
      let holds := ∃ l ∈ s.lockOf r.column, l.holder = k ∧ l.hold = .work .place h
      (late → Refuses s cmd k st .late) ∧
      (¬ late → ¬ holds → Refuses s cmd k st .notYours) ∧
      (¬ late → holds → st.carried = r.tag → Refuses s cmd k st .stillHeld) ∧
      (¬ late → holds → st.carried ≠ r.tag →
        let c := r.column
        let level := (s.col c).stack.length
        let next := nextHolder s c (some h)
        Takes s cmd k st (.done (some level)) [.columns, .handoff, .notice] fun u =>
          u.col c = { s.col c with stack := (s.col c).stack ++ [h] } ∧ SameColumnsBut c s u ∧ SameCounts s u ∧
          HandedOver s u c (some h) ∧ u.notice = noticeAfterPush s c ∧
          u.entry h.idx = { s.entry h.idx with live := some { r with state := .parked, level := some level } } ∧
          ∀ i, i ≠ h.idx → u.entry i = { s.entry i with
            live := (s.live i).map fun q => afterGrant next i (underPush c q) })

/-- R68, R137, R138, R36, R70: PICK_UP. On acceptance the record is popped and retired DELIVERED, its manifest entry consumed
unless kept, the record it uncovers is no longer buried, and the lock goes to the first possible waiter or is free; with
another nonzero tag the lift is stranded. -/
def Obligations.PickUpJudged : Prop :=
  ∀ (s : State) (k : Slot) (st : Status) (h : Handle), Coherent s → MapInForm s → Reports s k st →
    (∀ d, ∀ e ∈ s.waitsOf d, e.slot ≠ k) →
    let cmd := Instr.pickUp st h
    (s.named h = none → Refuses s cmd k st .stale) ∧
    ∀ r, s.named h = some r →
      let late := r.state = .stranded ∧ ((r.strandedFrom = some .placing ∧ r.releaser = some k) ∨
        (r.strandedFrom = some .lifting ∧ r.collector = some k))
      let holds := ∃ l ∈ s.lockOf r.column, l.holder = k ∧ l.hold = .work .lift h
      (late → Refuses s cmd k st .late) ∧
      (¬ late → ¬ holds → Refuses s cmd k st .notYours) ∧
      (¬ late → holds → st.carried = 0 → Refuses s cmd k st .notHeld) ∧
      (¬ late → holds → st.carried ≠ 0 → st.carried ≠ r.tag → ∀ l, s.lockOf r.column = some l →
        Takes s cmd k st .wrongBin [.columns, .handoff, .notice] fun u =>
          StrandedIn s u r.column l .lift h r ∧ u.notice = afterRaising 1 s.notice) ∧
      (¬ late → holds → st.carried = r.tag →
        let c := r.column
        let below := (s.col c).stack.dropLast
        let next := nextHolder s c below.getLast?
        Takes s cmd k st (.done none) [.columns, .handoff, .manifest] fun u =>
          s.top c = some h ∧ u.col c = { s.col c with stack := below } ∧ SameColumnsBut c s u ∧
          HandedOver s u c below.getLast? ∧
          u.entry h.idx = ⟨h.gen + 1, none, some ⟨h, .delivered, r.tag, c⟩⟩ ∧
          u.handoff.freeCount = s.handoff.freeCount + 1 ∧
          u.handoff.order = s.handoff.order.filter (· ≠ h.idx) ∧
          u.manifest = { s.manifest with map := consumedMap s r.tag } ∧
          ∀ i, i ≠ h.idx → u.entry i = { s.entry i with
            live := (s.live i).map fun q => afterGrant next i (uncovered s c i q) })

/-- R140: CLAIM in its order of checks. -/
def Obligations.ClaimJudged : Prop :=
  ∀ (s : State) (k : Slot) (st : Status) (t : Tag), Reports s k st → (∀ d, ∀ e ∈ s.waitsOf d, e.slot ≠ k) →
    TagsUnique s → FieldsFit s →
    let cmd := Instr.claim st t
    (t = 0 ∨ (∀ i, ∀ r ∈ s.live i, r.tag ≠ t) → Refuses s cmd k st .unknown) ∧
    ∀ i, ∀ r ∈ s.live i, r.tag = t →
      (r.state = .promised → r.collector ≠ some k → Refuses s cmd k st .taken) ∧
      (r.state ∈ [.reserved, .placing, .lifting, .stranded] → Refuses s cmd k st .wrongState) ∧
      ∀ level, r.level = some level →
        let depth := (s.col r.column).stack.length - 1 - level
        let verdict := Verdict.claimed (s.handleAt i) r.column level depth
        (r.state = .promised → r.collector = some k → Refuses s cmd k st verdict) ∧
        (r.state = .parked → Takes s cmd k st verdict [.handoff, .notice] fun u =>
          SameLocks s u ∧ SameEntriesBut i s u ∧ SameCounts s u ∧
          u.entry i = { s.entry i with
            live := some { r with state := .promised, collector := some k, buried := decide (0 < depth) } } ∧
          u.notice = if 0 < depth ∧ r.buried = false then
              afterRaising 5 { s.notice with buried := some (s.notice.buried.getD (s.handleAt i)) }
            else s.notice)

/-- R142, R143: YIELD in its order of cases, and YIELD of SURVEY. -/
def Obligations.YieldJudged : Prop :=
  ∀ (s : State) (k : Slot) (st : Status), Coherent s → Reports s k st →
    (∀ h : Handle, let cmd := Instr.yield st h
      (s.named h = none → Refuses s cmd k st .stale) ∧
      ∀ r, s.named h = some r →
        let c := r.column
        let late := r.state = .stranded ∧ ((r.strandedFrom = some .placing ∧ r.releaser = some k) ∨
          (r.strandedFrom = some .lifting ∧ r.collector = some k))
        (late → Refuses s cmd k st .late) ∧
        (¬ late →
          (∀ w, s.lockOf c = some ⟨k, .work w h, ((s.lockOf c).map (·.limit)).getD 0,
              ((s.lockOf c).map (·.grantedAt)).getD 0⟩ →
            let next := nextHolder s c (s.top c)
            Takes s cmd k st .released [.handoff] fun u =>
              HandedOver s u c (s.top c) ∧ SameCounts s u ∧
              u.entry h.idx = { s.entry h.idx with
                live := some { r with state := if w = .place then .reserved else .promised } } ∧
              ∀ i, i ≠ h.idx → u.entry i = { s.entry i with live := (s.live i).map (afterGrant next i) }) ∧
          (∀ e ∈ s.waitsOf c, e.slot = k → e.handle = h → Takes s cmd k st .released [] fun u =>
            u.waitsOf c = (s.waitsOf c).filter (fun e => decide (e.slot ≠ k)) ∧ u.lockOf c = s.lockOf c ∧
              SameLocksBut c s u) ∧
          (∀ d, (∃ l ∈ s.lockOf d, l.holder = k ∧ l.hold.handle ≠ some h) ∨
              (∃ e ∈ s.waitsOf d, e.slot = k ∧ e.handle ≠ h) → Refuses s cmd k st .busy) ∧
          (k ∉ positions s →
            (r.state = .promised → r.collector = some k → Takes s cmd k st .released [.handoff] fun u =>
              SameLocks s u ∧ SameEntriesBut h.idx s u ∧ SameCounts s u ∧
              u.entry h.idx = { s.entry h.idx with
                live := some { r with state := .parked, collector := none, buried := false } }) ∧
            (r.state = .reserved → r.releaser = some k → Takes s cmd k st .released [.handoff] fun u =>
              SameLocks s u ∧ SameEntriesBut h.idx s u ∧
              u.entry h.idx = ⟨h.gen + 1, none, some ⟨h, .cancelled, r.tag, c⟩⟩ ∧
              u.handoff.freeCount = s.handoff.freeCount + 1 ∧
              u.handoff.order = s.handoff.order.filter (· ≠ h.idx)) ∧
            (¬ (r.state = .promised ∧ r.collector = some k) → ¬ (r.state = .reserved ∧ r.releaser = some k) →
              Refuses s cmd k st .notYours)))) ∧
    (∀ c, ∀ l ∈ s.lockOf c, l.holder = k → l.hold = .survey →
      Takes s (.yieldSurvey st) k st .released [] fun u =>
        u.lockOf c = none ∧ u.waitsOf c = s.waitsOf c ∧ SameLocksBut c s u) ∧
    ((∀ c, ∀ l ∈ s.lockOf c, l.holder = k → l.hold ≠ .survey) → Refuses s (.yieldSurvey st) k st .notYours)

/-- R151 to R154, R32, R148: SURVEY from a slot that is neither QUIET nor a waiter: refused without the designation or the
lock; matched, it settles the column and resolves the stranded record; a mismatch goes into an empty box and the column to
FAULT, or is answered BOX_FULL. -/
def Obligations.SurveyJudged : Prop :=
  ∀ (s : State) (k : Slot) (st : Status) (col : Byte) (tags : List Tag), Coherent s → MapInForm s → Reports s k st →
    (∀ d, ∀ e ∈ s.waitsOf d, e.slot ≠ k) → tags.length ≤ 6 →
    let cmd := Instr.survey st col tags
    (15 < col.toNat → Refuses s cmd k st .notYours) ∧
    ∀ c : Col, col.toNat = c.val →
      let surveys := ∃ l ∈ s.lockOf c, l.holder = k ∧ l.hold = .survey
      (s.surveyor c ≠ some k ∨ ¬ surveys → Refuses s cmd k st .notYours) ∧
      (s.surveyor c = some k → surveys → ∃ h r, (s.col c).stranded = some h ∧ s.named h = some r ∧
        let expected := (s.stackTags c).reverse
        let placed := r.strandedFrom = some .placing
        let isLive : Option Slot → Prop := fun o => ∃ j ∈ o, (s.slot j).link = .live ∧
          (s.slot j).robotId.isSome ∧ (s.slot j).robotId = (s.col c).strandingId
        let free : State → Prop := fun u => u.lockOf c = none ∧ u.waitsOf c = s.waitsOf c ∧ SameLocksBut c s u
        let settled : State → Prop := fun u => free u ∧ u.surveyor c = none ∧
          (∀ d, d ≠ c → u.surveyor d = s.surveyor d) ∧ u.survey.box = s.survey.box ∧ SameColumnsBut c s u ∧
          u.col c = { s.col c with
            stack := (u.col c).stack, stranded := none, strandingId := none, service := (s.col c).prior.toService }
        let plain := fun u : State => SameEntriesBut h.idx s u ∧ (u.col c).stack = (s.col c).stack ∧
          u.notice = s.notice ∧ u.manifest = s.manifest
        let matched := fun changes => Takes s cmd k st .matched [.columns, .handoff, .manifest, .notice, .survey]
          fun u => settled u ∧ changes u
        let mismatch := tags ≠ expected ∧ (placed → tags ≠ r.tag :: expected) ∧ (¬ placed → tags ≠ expected.tail ∨ expected = [])
        (placed → tags = expected →
          ((∃ j ∈ r.releaser, isLive r.releaser ∧ ∀ i, ∀ q ∈ s.live i, q.reservedBy j = false) →
            matched fun u => plain u ∧ SameCounts s u ∧
              u.entry h.idx = { s.entry h.idx with live := some { r with state := .reserved, strandedFrom := none } }) ∧
          ((∀ j ∈ r.releaser, ¬ (isLive r.releaser ∧ ∀ i, ∀ q ∈ s.live i, q.reservedBy j = false)) →
            matched fun u => plain u ∧ u.entry h.idx = ⟨h.gen + 1, none, some ⟨h, .unplaced, r.tag, c⟩⟩ ∧
              u.handoff.freeCount = s.handoff.freeCount + 1)) ∧
        (placed → tags = r.tag :: expected → matched fun u => SameCounts s u ∧ u.manifest = s.manifest ∧
          (u.col c).stack = (s.col c).stack ++ [h] ∧ u.notice = noticeAfterPush s c ∧
          u.entry h.idx = { s.entry h.idx with
            live := some { r with state := .parked, strandedFrom := none, level := some (s.col c).stack.length } } ∧
          ∀ i, i ≠ h.idx → u.entry i = { s.entry i with live := (s.live i).map (underPush c) }) ∧
        (¬ placed → tags = expected →
          (isLive r.collector → matched fun u => plain u ∧ SameCounts s u ∧
            u.entry h.idx = { s.entry h.idx with live := some { r with state := .promised, strandedFrom := none } }) ∧
          (¬ isLive r.collector → matched fun u => plain u ∧ SameCounts s u ∧
            u.entry h.idx = { s.entry h.idx with
              live := some { r with state := .parked, collector := none, strandedFrom := none } })) ∧
        (¬ placed → expected ≠ [] → tags = expected.tail →
          let gone := fun o : Retirement => fun u : State => (u.col c).stack = (s.col c).stack.dropLast ∧
            u.notice = s.notice ∧ u.entry h.idx = ⟨h.gen + 1, none, some ⟨h, o, r.tag, c⟩⟩ ∧
            u.handoff.freeCount = s.handoff.freeCount + 1 ∧
            ∀ i, i ≠ h.idx → u.entry i = { s.entry i with live := (s.live i).map (uncovered s c i) }
          (isLive r.collector → matched fun u => gone .delivered u ∧
            u.manifest = { s.manifest with map := consumedMap s r.tag }) ∧
          (¬ isLive r.collector → matched fun u => gone .carriedOff u ∧ u.manifest = s.manifest)) ∧
        (mismatch → s.survey.box = none → Takes s cmd k st .recorded [.columns, .notice, .survey] fun u =>
          free u ∧ u.survey.box = some ⟨c, k, tags⟩ ∧ u.surveyor c = none ∧
          (∀ d, d ≠ c → u.surveyor d = s.surveyor d) ∧ SameColumnsBut c s u ∧
          u.col c = { s.col c with service := .fault } ∧ u.notice = afterRaising 2 s.notice) ∧
        (mismatch → s.survey.box.isSome → Takes s cmd k st .boxFull [] fun u => free u))

/-- R118, R131, R132, R172: what is answered before any owner. A QUIET slot's requests other than JOIN receive HELD, a waiter's
PARK, SET_DOWN, PICK_UP, CLAIM and SURVEY receive BUSY, and a request that cannot be read, a SURVEY of more than 6 tags among
them, receives BAD_REQUEST from any slot; none changes anything. An answer without a request leaves no verdict and keeps the
expired mark. On a probe neither does anything. -/
def Obligations.QuietAndWaitingSlots : Prop :=
  ∀ (s : State) (k : Slot) (st : Status),
    (Hears s k .regular → Sound s k st →
      (∀ i q, requestOf i = some (st, q) → q.wellFormed = true → (s.slot k).mode = .quiet → (∀ id, q ≠ .join id) →
        Refuses s i k st .held) ∧
      ((s.slot k).mode ≠ .quiet → (∃ c, ∃ e ∈ s.waitsOf c, e.slot = k) →
        (∀ t, Refuses s (.park st t) k st .busy ∧ Refuses s (.claim st t) k st .busy) ∧
        (∀ h, Refuses s (.setDown st h) k st .busy ∧ Refuses s (.pickUp st h) k st .busy) ∧
        ∀ col tags, tags.length ≤ 6 → Refuses s (.survey st col tags) k st .busy) ∧
      (∀ col tags, 6 < tags.length → Refuses s (.survey st col tags) k st .badRequest) ∧
      (∀ bytes, ¬ Spoiled k bytes false → Unreadable bytes → statusIn bytes = st →
        Refuses s (.answerEnd bytes false) k st .badRequest) ∧
      ∃ t, exec (.answerEnd (encodeAnswer k st none) false) s = .next t ∧
        LineGoesOn (s.setSlot k (slotAfter (s.slot k) st none)) t) ∧
    (Hears s k .probe →
      (∃ t, exec (.answerEnd (encodeAnswer k st none) false) s = .next t ∧ LineGoesOn s t) ∧
      ∀ bytes, ¬ Spoiled k bytes false → Unreadable bytes →
        ∃ t, exec (.answerEnd bytes false) s = .next t ∧ LineGoesOn s t)

/-! ### Figures and frames -/

/-- R54, R55: the score of a column by its four terms, the deadline reference it uses, and the law that it lies within
0 to 7965 for the weights, coordinates and loads the part admits. -/
def Obligations.ScoresFollowTheTerms : Prop :=
  ∀ (s : State) (x y : Nat) (f : BinFacts) (c : Col),
    let col := s.col c
    let refs : Nat → Prop := fun d => (∃ h, s.top c = some h ∧ ∃ r ∈ s.named h, r.deadline = d) ∨
      ∃ i, ∃ r ∈ s.live i, (r.state = .reserved ∨ r.state = .placing) ∧ r.column = c ∧ r.deadline = d
    let distance := (max x col.x - min x col.x) + (max y col.y - min y col.y)
    let cold := if f.cls = .ambient ∧ (col.allowed.chilled = true ∨ col.allowed.frozen = true) then 1 else 0
    let score : Nat → Nat := fun b => s.placement.wd * distance + s.placement.wh * s.load c + s.placement.wb * b
      + s.placement.wc * cold
    ((∀ d, ¬ refs d) → s.score x y f c = score 0) ∧
    (∀ d, refs d → (∀ e, refs e → d ≤ e) → s.score x y f c = score
      (if f.deadline ≤ d then 0 else if f.deadline = 4294967295 then 255 else min (f.deadline - d) 255)) ∧
    (s.placement.wd ≤ 15 → s.placement.wh ≤ 15 → s.placement.wb ≤ 15 → s.placement.wc ≤ 255 → x ≤ 127 → y ≤ 127 →
      col.x ≤ 127 → col.y ≤ 127 → col.capacity ≤ 6 → s.eligible f.cls c → s.score x y f c ≤ 7965)

/-- R170, R92: the codes of the responses, each enumeration from 0 up, and the fields of more than one byte, the most significant
byte first; a pending verdict is reported as bytes 7 to 13 of a CALL. R13, R14, R51 to R53, R73, R79, R91, R114, R115, R148: the
figures that are worked out when they are used, spelled out on the tables: a column's reservations and load, its eligibility, a
record's depth, a bin's facts, the lease and the period remaining, a slot's standing, the blocks a round calls and the CALL a slot receives, and whether the robot concerned is LIVE.
That a figure counted down reads at least 1 is the model's choice (log entry 12), and that a slot without a position keeps the
standing EXPIRED while its mark is set, also when its wait place or its SURVEY lock has just been taken from it, is its choice
(log entry 25). -/
def Obligations.DerivedFiguresAreSpelledOut : Prop :=
  ([Result.none, .ok, .busy, .wrongState, .stale, .range, .full, .conflict, .notStopped, .frame, .busyPort,
      .unknownCode].map Result.code = [0x00, 0x01, 0x02, 0x03, 0x04, 0x05, 0x06, 0x07, 0x08, 0x09, 0x0A, 0x0B] ∧
    [StorageClass.ambient, .chilled, .frozen].map StorageClass.code = [0, 1, 2] ∧
    [Service.undefined, .opened, .draining, .suspect, .fault, .out].map Service.code = [0, 1, 2, 3, 4, 5] ∧
    [RecState.reserved, .placing, .parked, .promised, .lifting, .stranded].map RecState.code = [0, 1, 2, 3, 4, 5] ∧
    [Retirement.delivered, .cancelled, .unplaced, .carriedOff, .missing].map Retirement.code = [0, 1, 2, 3, 4] ∧
    (∀ h, [Hold.work .place h, .work .lift h, .survey].map Hold.code = [0, 1, 2]) ∧
    [StrandedFrom.placing, .lifting].map StrandedFrom.code = [0, 1] ∧
    [SlotMode.off, .quiet, .on].map SlotMode.code = [0, 1, 2] ∧
    [LinkState.vacant, .live, .lost].map LinkState.code = [0, 1, 2] ∧
    [Condition.ready, .busy, .fault].map Condition.code = [0, 1, 2] ∧
    [PageState.filling, .merging, .empty].map PageState.code = [0, 1, 2] ∧
    [FrameKind.under, .over].map FrameKind.code = [0, 1] ∧
    [WarmthMode.fixed, .highest, .guarded].map WarmthMode.code = [0, 1, 2] ∧
    (∀ a b c d : Byte, bytes16 (a ++ b) = [a, b] ∧ bytes24 (a ++ b ++ c) = [a, b, c] ∧
      bytes32 (a ++ b ++ c ++ d) = [a, b, c, d]) ∧
    ∀ k kind st v, verdictBytes v = ((callFrame k kind st v).drop 7).take 7) ∧
  ∀ s : State,
    (∀ c : Col,
      s.reservations c = ((List.finRange 64).filter fun i => decide (∃ r ∈ s.live i,
        (r.state = .reserved ∨ r.state = .placing) ∧ r.column = c)).length ∧
      s.load c = (s.col c).stack.length + s.reservations c +
        (if ∃ h ∈ (s.col c).stranded, ∃ r ∈ s.named h, r.strandedFrom = some .placing then 1 else 0) ∧
      ∀ cls, s.eligible cls c ↔ (s.col c).service = .opened ∧ s.load c < (s.col c).capacity ∧
        (match cls with
          | .ambient => (s.col c).allowed.ambient
          | .chilled => (s.col c).allowed.chilled
          | .frozen => (s.col c).allowed.frozen) = true ∧
        ∀ h, (s.col c).stack.getLast? = some h → ∃ r ∈ s.named h, r.state = .parked) ∧
    (∀ r l, r.level = some l → s.depth r = some ((s.col r.column).stack.length - 1 - l)) ∧
    (∀ t f, s.manifest.find t = some f → s.factsOf t = (f, false)) ∧
    (∀ t, s.manifest.find t = none → s.factsOf t = (⟨t, s.placement.defaultClass,
      if s.placement.defaultDueSpan = 65535 then 4294967295
      else if 4294967294 < s.age.clock + s.placement.defaultDueSpan then 4294967294
      else s.age.clock + s.placement.defaultDueSpan,
      s.placement.defaultBudget, 0, false⟩, true)) ∧
    (∀ (l : Lock) (n now : Nat), l.grantedAt + 100000 * n ≤ now → now < l.grantedAt + 100000 * (n + 1) →
      l.remaining now = if n < l.limit then l.limit - n else 1) ∧
    (∀ (a : Age) (since n now : Nat), a.run = .running since → since + 100000 * n ≤ now →
      now < since + 100000 * (n + 1) → a.remaining now = some (if n < a.period then a.period - n else 1)) ∧
    (OnePosition s → ∀ k : Slot,
      (∀ c l, s.lockOf c = some l → l.holder = k → s.standing k = .holding c l.hold.handle (l.remaining s.now)) ∧
      (∀ c n e, (s.waitsOf c)[n]? = some e → e.slot = k → s.standing k = .waiting c (n + 1)) ∧
      (k ∉ positions s → s.standing k = match s.mark k with
        | some c => .expired c
        | none => .none)) ∧
    (∀ b : Block, s.calls b ↔ s.line.blockMode = .sweep ∨
      ∃ x y, s.line.blockMode = .paired x y ∧ (b = x ∨ b = y ∨ ∃ k ∈ positions s, k.val / 8 = b.val)) ∧
    (∀ k : Slot, s.selects k =
      if (s.slot k).link = .live ∧ (s.slot k).mode ≠ .off then some .regular
      else if (s.slot k).link = .vacant ∧ (s.slot k).mode = .on ∧ s.line.probe then some .probe else none) ∧
    ∀ c o, s.concernedLive c o ↔ ConcernedLive s c o

/-- R171, R173: the 15 bytes of a CALL, its check value over bytes 0 to 13, and the test value of the check. -/
def Obligations.CallFrameLayout : Prop :=
  crc8 [0x31, 0x32, 0x33, 0x34, 0x35, 0x36, 0x37, 0x38, 0x39] = 0xF4 ∧
  ∀ (k : Slot) (kind : CallKind) (st : Standing) (v : Option Verdict),
    let frame := callFrame k kind st v
    let byte : Nat → Byte := fun n => BitVec.ofNat 8 n
    let line : Handle → List Byte := fun h => [byte (h.idx.val / 16), byte (h.idx.val % 16 * 16 + h.gen.val)]
    frame.length = 15 ∧ frame[14]? = some (crc8 (frame.take 14)) ∧
    frame.take 2 = [byte k.val, if kind = .probe then 0x01 else 0x00] ∧
    (frame.drop 2).take 5 = (match st with
      | .none => [0x00, 0xFF, 0xFF, 0xFF, 0x00]
      | .waiting c p => [0x01, byte c.val, 0xFF, 0xFF, byte p]
      | .holding c (some h) l => [0x02, byte c.val] ++ line h ++ [byte l]
      | .holding c none l => [0x02, byte c.val, 0xFF, 0xFF, byte l]
      | .expired c => [0x03, byte c.val, 0xFF, 0xFF, 0x00]) ∧
    (frame.drop 7).take 7 = (match v with
      | none => [0, 0, 0, 0, 0, 0, 0]
      | some .welcome => [0x01, 0, 0, 0, 0, 0, 0]
      | some .refusedId => [0x02, 0, 0, 0, 0, 0, 0]
      | some .left => [0x03, 0, 0, 0, 0, 0, 0]
      | some (.place c h) => [0x04, byte c.val] ++ line h ++ [0, 0, 0]
      | some (.granted c (.work w h) l) => [0x05, byte c.val, if w = .place then 0x00 else 0x01] ++ line h ++ [byte l, 0]
      | some (.granted c .survey l) => [0x05, byte c.val, 0x02, 0xFF, 0xFF, byte l, 0]
      | some (.queued c p) => [0x06, byte c.val, byte p, 0, 0, 0, 0]
      | some (.done (some l)) => [0x07, byte l, 0, 0, 0, 0, 0]
      | some (.done none) => [0x07, 0xFF, 0, 0, 0, 0, 0]
      | some .stillHeld => [0x08, 0, 0, 0, 0, 0, 0]
      | some .notHeld => [0x09, 0, 0, 0, 0, 0, 0]
      | some .wrongBin => [0x0A, 0, 0, 0, 0, 0, 0]
      | some (.claimed h c l d) => [0x0B] ++ line h ++ [byte c.val, byte l, byte d, 0]
      | some .released => [0x0C, 0, 0, 0, 0, 0, 0]
      | some .matched => [0x0D, 0, 0, 0, 0, 0, 0]
      | some .recorded => [0x0E, 0, 0, 0, 0, 0, 0]
      | some .boxFull => [0x0F, 0, 0, 0, 0, 0, 0]
      | some .held => [0x10, 0, 0, 0, 0, 0, 0]
      | some .busy => [0x11, 0, 0, 0, 0, 0, 0]
      | some .stale => [0x12, 0, 0, 0, 0, 0, 0]
      | some .notYours => [0x13, 0, 0, 0, 0, 0, 0]
      | some .late => [0x14, 0, 0, 0, 0, 0, 0]
      | some .shut => [0x15, 0, 0, 0, 0, 0, 0]
      | some (.buried d) => [0x16, byte d, 0, 0, 0, 0, 0]
      | some .queueFull => [0x17, 0, 0, 0, 0, 0, 0]
      | some .unknown => [0x18, 0, 0, 0, 0, 0, 0]
      | some .duplicate => [0x19, 0, 0, 0, 0, 0, 0]
      | some (.oneOnly h) => [0x1A] ++ line h ++ [0, 0, 0, 0]
      | some .full => [0x1B, 0, 0, 0, 0, 0, 0]
      | some .noRoom => [0x1C, 0, 0, 0, 0, 0, 0]
      | some .taken => [0x1D, 0, 0, 0, 0, 0, 0]
      | some .wrongState => [0x1E, 0, 0, 0, 0, 0, 0]
      | some .badRequest => [0x1F, 0, 0, 0, 0, 0, 0])

/-! ### The laws that every step keeps -/

/-- R168: ATTN_N goes on following the pending and the enable set. -/
def Obligations.AttnFollowsNoticesKept : Prop :=
  ∀ s t : State, AttnFollowsNotices s → step s = .next t → AttnFollowsNotices t

/-- R95, R97, R100: the manifest map stays in form and within 256 entries, and the two pages and the merge in flight agree. -/
def Obligations.ManifestStaysInForm : Prop :=
  ∀ s t : State, MapInForm s → PagesInForm s → step s = .next t → MapInForm t ∧ PagesInForm t

/-- R87, R82, R110, R129: budgets stay within 4095, the age clock below the value of no deadline, and the slot records within
their ranges. -/
def Obligations.FiguresStayInRange : Prop :=
  ∀ s t : State, BudgetsBounded s → ClockBounded s → SlotRanges s → step s = .next t →
    BudgetsBounded t ∧ ClockBounded t ∧ SlotRanges t

/-- R24, R25, R157: the free count stays the number of free indices, the tags of live records stay unique and nonzero, and the
order of making lists exactly the live indices. -/
def Obligations.HandoffTableStaysCounted : Prop :=
  ∀ s t : State, FreeCounted s → TagsUnique s → OrderFits s → step s = .next t →
    FreeCounted t ∧ TagsUnique t ∧ OrderFits t

/-- R61, R110, R112, R115: a slot stays holder of one lock or entry of one wait list at most, the slot records keep their
form, and a CALL goes to a slot that its kind fits. -/
def Obligations.PositionsAndSlotsKept : Prop :=
  (∀ s t : State, OnePosition s → step s = .next t → OnePosition t) ∧
    ∀ s t : State, SlotsInForm s → CallsFit s → step s = .next t → SlotsInForm t ∧ CallsFit t

/-- R11, R14, R16, R24, R25, R26, R31, R33, R61, R71, R112, R147: the laws of the relay table hold together after every step
from every state in which they hold. -/
def Obligations.RelayTableStaysCoherent : Prop :=
  ∀ s t : State, Coherent s → step s = .next t → Coherent t

/-- The state after reset meets every law. -/
def Obligations.ResetStateIsLawful : Prop :=
  Coherent State.reset ∧ AttnFollowsNotices State.reset ∧ MapInForm State.reset ∧ PagesInForm State.reset ∧
    BudgetsBounded State.reset ∧ ClockBounded State.reset ∧ SlotRanges State.reset
end

