-- ==== Sys2Proof/Laws/State.lean ====
section
/-! SUPPORT. One lemma for each field under each update of the state, so that no later proof unfolds a record update. -/

namespace Sys2Proof.Machine

/-! ### The setters of the blocks, field by field -/

variable (s : State)

@[simp] theorem setPower_pending (x : Power) : (s.setPower x).pending = s.pending := (rfl)
@[simp] theorem setPower_now (x : Power) : (s.setPower x).now = s.now := (rfl)
@[simp] theorem setPower_power (x : Power) : (s.setPower x).power = x := (rfl)
@[simp] theorem setPower_port (x : Power) : (s.setPower x).port = s.port := (rfl)
@[simp] theorem setPower_notice (x : Power) : (s.setPower x).notice = s.notice := (rfl)
@[simp] theorem setPower_line (x : Power) : (s.setPower x).line = s.line := (rfl)
@[simp] theorem setPower_columns (x : Power) : (s.setPower x).columns = s.columns := (rfl)
@[simp] theorem setPower_handoff (x : Power) : (s.setPower x).handoff = s.handoff := (rfl)
@[simp] theorem setPower_placement (x : Power) : (s.setPower x).placement = s.placement := (rfl)
@[simp] theorem setPower_lock (x : Power) : (s.setPower x).lock = s.lock := (rfl)
@[simp] theorem setPower_age (x : Power) : (s.setPower x).age = s.age := (rfl)
@[simp] theorem setPower_manifest (x : Power) : (s.setPower x).manifest = s.manifest := (rfl)
@[simp] theorem setPower_survey (x : Power) : (s.setPower x).survey = s.survey := (rfl)

@[simp] theorem setPort_pending (x : Port) : (s.setPort x).pending = s.pending := (rfl)
@[simp] theorem setPort_now (x : Port) : (s.setPort x).now = s.now := (rfl)
@[simp] theorem setPort_power (x : Port) : (s.setPort x).power = s.power := (rfl)
@[simp] theorem setPort_port (x : Port) : (s.setPort x).port = x := (rfl)
@[simp] theorem setPort_notice (x : Port) : (s.setPort x).notice = s.notice := (rfl)
@[simp] theorem setPort_line (x : Port) : (s.setPort x).line = s.line := (rfl)
@[simp] theorem setPort_columns (x : Port) : (s.setPort x).columns = s.columns := (rfl)
@[simp] theorem setPort_handoff (x : Port) : (s.setPort x).handoff = s.handoff := (rfl)
@[simp] theorem setPort_placement (x : Port) : (s.setPort x).placement = s.placement := (rfl)
@[simp] theorem setPort_lock (x : Port) : (s.setPort x).lock = s.lock := (rfl)
@[simp] theorem setPort_age (x : Port) : (s.setPort x).age = s.age := (rfl)
@[simp] theorem setPort_manifest (x : Port) : (s.setPort x).manifest = s.manifest := (rfl)
@[simp] theorem setPort_survey (x : Port) : (s.setPort x).survey = s.survey := (rfl)

@[simp] theorem setNotice_pending (x : NoticeUnit) : (s.setNotice x).pending = s.pending := (rfl)
@[simp] theorem setNotice_now (x : NoticeUnit) : (s.setNotice x).now = s.now := (rfl)
@[simp] theorem setNotice_power (x : NoticeUnit) : (s.setNotice x).power = s.power := (rfl)
@[simp] theorem setNotice_port (x : NoticeUnit) : (s.setNotice x).port = s.port := (rfl)
@[simp] theorem setNotice_notice (x : NoticeUnit) : (s.setNotice x).notice = x := (rfl)
@[simp] theorem setNotice_line (x : NoticeUnit) : (s.setNotice x).line = s.line := (rfl)
@[simp] theorem setNotice_columns (x : NoticeUnit) : (s.setNotice x).columns = s.columns := (rfl)
@[simp] theorem setNotice_handoff (x : NoticeUnit) : (s.setNotice x).handoff = s.handoff := (rfl)
@[simp] theorem setNotice_placement (x : NoticeUnit) : (s.setNotice x).placement = s.placement := (rfl)
@[simp] theorem setNotice_lock (x : NoticeUnit) : (s.setNotice x).lock = s.lock := (rfl)
@[simp] theorem setNotice_age (x : NoticeUnit) : (s.setNotice x).age = s.age := (rfl)
@[simp] theorem setNotice_manifest (x : NoticeUnit) : (s.setNotice x).manifest = s.manifest := (rfl)
@[simp] theorem setNotice_survey (x : NoticeUnit) : (s.setNotice x).survey = s.survey := (rfl)

@[simp] theorem setLine_pending (x : Line) : (s.setLine x).pending = s.pending := (rfl)
@[simp] theorem setLine_now (x : Line) : (s.setLine x).now = s.now := (rfl)
@[simp] theorem setLine_power (x : Line) : (s.setLine x).power = s.power := (rfl)
@[simp] theorem setLine_port (x : Line) : (s.setLine x).port = s.port := (rfl)
@[simp] theorem setLine_notice (x : Line) : (s.setLine x).notice = s.notice := (rfl)
@[simp] theorem setLine_line (x : Line) : (s.setLine x).line = x := (rfl)
@[simp] theorem setLine_columns (x : Line) : (s.setLine x).columns = s.columns := (rfl)
@[simp] theorem setLine_handoff (x : Line) : (s.setLine x).handoff = s.handoff := (rfl)
@[simp] theorem setLine_placement (x : Line) : (s.setLine x).placement = s.placement := (rfl)
@[simp] theorem setLine_lock (x : Line) : (s.setLine x).lock = s.lock := (rfl)
@[simp] theorem setLine_age (x : Line) : (s.setLine x).age = s.age := (rfl)
@[simp] theorem setLine_manifest (x : Line) : (s.setLine x).manifest = s.manifest := (rfl)
@[simp] theorem setLine_survey (x : Line) : (s.setLine x).survey = s.survey := (rfl)

@[simp] theorem setColumns_pending (x : Vector Column 16) : (s.setColumns x).pending = s.pending := (rfl)
@[simp] theorem setColumns_now (x : Vector Column 16) : (s.setColumns x).now = s.now := (rfl)
@[simp] theorem setColumns_power (x : Vector Column 16) : (s.setColumns x).power = s.power := (rfl)
@[simp] theorem setColumns_port (x : Vector Column 16) : (s.setColumns x).port = s.port := (rfl)
@[simp] theorem setColumns_notice (x : Vector Column 16) : (s.setColumns x).notice = s.notice := (rfl)
@[simp] theorem setColumns_line (x : Vector Column 16) : (s.setColumns x).line = s.line := (rfl)
@[simp] theorem setColumns_columns (x : Vector Column 16) : (s.setColumns x).columns = x := (rfl)
@[simp] theorem setColumns_handoff (x : Vector Column 16) : (s.setColumns x).handoff = s.handoff := (rfl)
@[simp] theorem setColumns_placement (x : Vector Column 16) : (s.setColumns x).placement = s.placement := (rfl)
@[simp] theorem setColumns_lock (x : Vector Column 16) : (s.setColumns x).lock = s.lock := (rfl)
@[simp] theorem setColumns_age (x : Vector Column 16) : (s.setColumns x).age = s.age := (rfl)
@[simp] theorem setColumns_manifest (x : Vector Column 16) : (s.setColumns x).manifest = s.manifest := (rfl)
@[simp] theorem setColumns_survey (x : Vector Column 16) : (s.setColumns x).survey = s.survey := (rfl)

@[simp] theorem setHandoff_pending (x : Handoff) : (s.setHandoff x).pending = s.pending := (rfl)
@[simp] theorem setHandoff_now (x : Handoff) : (s.setHandoff x).now = s.now := (rfl)
@[simp] theorem setHandoff_power (x : Handoff) : (s.setHandoff x).power = s.power := (rfl)
@[simp] theorem setHandoff_port (x : Handoff) : (s.setHandoff x).port = s.port := (rfl)
@[simp] theorem setHandoff_notice (x : Handoff) : (s.setHandoff x).notice = s.notice := (rfl)
@[simp] theorem setHandoff_line (x : Handoff) : (s.setHandoff x).line = s.line := (rfl)
@[simp] theorem setHandoff_columns (x : Handoff) : (s.setHandoff x).columns = s.columns := (rfl)
@[simp] theorem setHandoff_handoff (x : Handoff) : (s.setHandoff x).handoff = x := (rfl)
@[simp] theorem setHandoff_placement (x : Handoff) : (s.setHandoff x).placement = s.placement := (rfl)
@[simp] theorem setHandoff_lock (x : Handoff) : (s.setHandoff x).lock = s.lock := (rfl)
@[simp] theorem setHandoff_age (x : Handoff) : (s.setHandoff x).age = s.age := (rfl)
@[simp] theorem setHandoff_manifest (x : Handoff) : (s.setHandoff x).manifest = s.manifest := (rfl)
@[simp] theorem setHandoff_survey (x : Handoff) : (s.setHandoff x).survey = s.survey := (rfl)

@[simp] theorem setPlacement_pending (x : Placement) : (s.setPlacement x).pending = s.pending := (rfl)
@[simp] theorem setPlacement_now (x : Placement) : (s.setPlacement x).now = s.now := (rfl)
@[simp] theorem setPlacement_power (x : Placement) : (s.setPlacement x).power = s.power := (rfl)
@[simp] theorem setPlacement_port (x : Placement) : (s.setPlacement x).port = s.port := (rfl)
@[simp] theorem setPlacement_notice (x : Placement) : (s.setPlacement x).notice = s.notice := (rfl)
@[simp] theorem setPlacement_line (x : Placement) : (s.setPlacement x).line = s.line := (rfl)
@[simp] theorem setPlacement_columns (x : Placement) : (s.setPlacement x).columns = s.columns := (rfl)
@[simp] theorem setPlacement_handoff (x : Placement) : (s.setPlacement x).handoff = s.handoff := (rfl)
@[simp] theorem setPlacement_placement (x : Placement) : (s.setPlacement x).placement = x := (rfl)
@[simp] theorem setPlacement_lock (x : Placement) : (s.setPlacement x).lock = s.lock := (rfl)
@[simp] theorem setPlacement_age (x : Placement) : (s.setPlacement x).age = s.age := (rfl)
@[simp] theorem setPlacement_manifest (x : Placement) : (s.setPlacement x).manifest = s.manifest := (rfl)
@[simp] theorem setPlacement_survey (x : Placement) : (s.setPlacement x).survey = s.survey := (rfl)

@[simp] theorem setLock_pending (x : LockUnit) : (s.setLock x).pending = s.pending := (rfl)
@[simp] theorem setLock_now (x : LockUnit) : (s.setLock x).now = s.now := (rfl)
@[simp] theorem setLock_power (x : LockUnit) : (s.setLock x).power = s.power := (rfl)
@[simp] theorem setLock_port (x : LockUnit) : (s.setLock x).port = s.port := (rfl)
@[simp] theorem setLock_notice (x : LockUnit) : (s.setLock x).notice = s.notice := (rfl)
@[simp] theorem setLock_line (x : LockUnit) : (s.setLock x).line = s.line := (rfl)
@[simp] theorem setLock_columns (x : LockUnit) : (s.setLock x).columns = s.columns := (rfl)
@[simp] theorem setLock_handoff (x : LockUnit) : (s.setLock x).handoff = s.handoff := (rfl)
@[simp] theorem setLock_placement (x : LockUnit) : (s.setLock x).placement = s.placement := (rfl)
@[simp] theorem setLock_lock (x : LockUnit) : (s.setLock x).lock = x := (rfl)
@[simp] theorem setLock_age (x : LockUnit) : (s.setLock x).age = s.age := (rfl)
@[simp] theorem setLock_manifest (x : LockUnit) : (s.setLock x).manifest = s.manifest := (rfl)
@[simp] theorem setLock_survey (x : LockUnit) : (s.setLock x).survey = s.survey := (rfl)

@[simp] theorem setAge_pending (x : Age) : (s.setAge x).pending = s.pending := (rfl)
@[simp] theorem setAge_now (x : Age) : (s.setAge x).now = s.now := (rfl)
@[simp] theorem setAge_power (x : Age) : (s.setAge x).power = s.power := (rfl)
@[simp] theorem setAge_port (x : Age) : (s.setAge x).port = s.port := (rfl)
@[simp] theorem setAge_notice (x : Age) : (s.setAge x).notice = s.notice := (rfl)
@[simp] theorem setAge_line (x : Age) : (s.setAge x).line = s.line := (rfl)
@[simp] theorem setAge_columns (x : Age) : (s.setAge x).columns = s.columns := (rfl)
@[simp] theorem setAge_handoff (x : Age) : (s.setAge x).handoff = s.handoff := (rfl)
@[simp] theorem setAge_placement (x : Age) : (s.setAge x).placement = s.placement := (rfl)
@[simp] theorem setAge_lock (x : Age) : (s.setAge x).lock = s.lock := (rfl)
@[simp] theorem setAge_age (x : Age) : (s.setAge x).age = x := (rfl)
@[simp] theorem setAge_manifest (x : Age) : (s.setAge x).manifest = s.manifest := (rfl)
@[simp] theorem setAge_survey (x : Age) : (s.setAge x).survey = s.survey := (rfl)

@[simp] theorem setManifest_pending (x : Manifest) : (s.setManifest x).pending = s.pending := (rfl)
@[simp] theorem setManifest_now (x : Manifest) : (s.setManifest x).now = s.now := (rfl)
@[simp] theorem setManifest_power (x : Manifest) : (s.setManifest x).power = s.power := (rfl)
@[simp] theorem setManifest_port (x : Manifest) : (s.setManifest x).port = s.port := (rfl)
@[simp] theorem setManifest_notice (x : Manifest) : (s.setManifest x).notice = s.notice := (rfl)
@[simp] theorem setManifest_line (x : Manifest) : (s.setManifest x).line = s.line := (rfl)
@[simp] theorem setManifest_columns (x : Manifest) : (s.setManifest x).columns = s.columns := (rfl)
@[simp] theorem setManifest_handoff (x : Manifest) : (s.setManifest x).handoff = s.handoff := (rfl)
@[simp] theorem setManifest_placement (x : Manifest) : (s.setManifest x).placement = s.placement := (rfl)
@[simp] theorem setManifest_lock (x : Manifest) : (s.setManifest x).lock = s.lock := (rfl)
@[simp] theorem setManifest_age (x : Manifest) : (s.setManifest x).age = s.age := (rfl)
@[simp] theorem setManifest_manifest (x : Manifest) : (s.setManifest x).manifest = x := (rfl)
@[simp] theorem setManifest_survey (x : Manifest) : (s.setManifest x).survey = s.survey := (rfl)

@[simp] theorem setSurvey_pending (x : SurveyUnit) : (s.setSurvey x).pending = s.pending := (rfl)
@[simp] theorem setSurvey_now (x : SurveyUnit) : (s.setSurvey x).now = s.now := (rfl)
@[simp] theorem setSurvey_power (x : SurveyUnit) : (s.setSurvey x).power = s.power := (rfl)
@[simp] theorem setSurvey_port (x : SurveyUnit) : (s.setSurvey x).port = s.port := (rfl)
@[simp] theorem setSurvey_notice (x : SurveyUnit) : (s.setSurvey x).notice = s.notice := (rfl)
@[simp] theorem setSurvey_line (x : SurveyUnit) : (s.setSurvey x).line = s.line := (rfl)
@[simp] theorem setSurvey_columns (x : SurveyUnit) : (s.setSurvey x).columns = s.columns := (rfl)
@[simp] theorem setSurvey_handoff (x : SurveyUnit) : (s.setSurvey x).handoff = s.handoff := (rfl)
@[simp] theorem setSurvey_placement (x : SurveyUnit) : (s.setSurvey x).placement = s.placement := (rfl)
@[simp] theorem setSurvey_lock (x : SurveyUnit) : (s.setSurvey x).lock = s.lock := (rfl)
@[simp] theorem setSurvey_age (x : SurveyUnit) : (s.setSurvey x).age = s.age := (rfl)
@[simp] theorem setSurvey_manifest (x : SurveyUnit) : (s.setSurvey x).manifest = s.manifest := (rfl)
@[simp] theorem setSurvey_survey (x : SurveyUnit) : (s.setSurvey x).survey = x := (rfl)

@[simp] theorem setPending_pending (x : List Instr) : (s.setPending x).pending = x := (rfl)
@[simp] theorem setPending_now (x : List Instr) : (s.setPending x).now = s.now := (rfl)
@[simp] theorem setPending_power (x : List Instr) : (s.setPending x).power = s.power := (rfl)
@[simp] theorem setPending_port (x : List Instr) : (s.setPending x).port = s.port := (rfl)
@[simp] theorem setPending_notice (x : List Instr) : (s.setPending x).notice = s.notice := (rfl)
@[simp] theorem setPending_line (x : List Instr) : (s.setPending x).line = s.line := (rfl)
@[simp] theorem setPending_columns (x : List Instr) : (s.setPending x).columns = s.columns := (rfl)
@[simp] theorem setPending_handoff (x : List Instr) : (s.setPending x).handoff = s.handoff := (rfl)
@[simp] theorem setPending_placement (x : List Instr) : (s.setPending x).placement = s.placement := (rfl)
@[simp] theorem setPending_lock (x : List Instr) : (s.setPending x).lock = s.lock := (rfl)
@[simp] theorem setPending_age (x : List Instr) : (s.setPending x).age = s.age := (rfl)
@[simp] theorem setPending_manifest (x : List Instr) : (s.setPending x).manifest = s.manifest := (rfl)
@[simp] theorem setPending_survey (x : List Instr) : (s.setPending x).survey = s.survey := (rfl)

@[simp] theorem tick_pending : s.tick.pending = s.pending := (rfl)
@[simp] theorem tick_now : s.tick.now = s.now + 1 := (rfl)
@[simp] theorem tick_power : s.tick.power = s.power := (rfl)
@[simp] theorem tick_port : s.tick.port = s.port := (rfl)
@[simp] theorem tick_notice : s.tick.notice = s.notice := (rfl)
@[simp] theorem tick_line : s.tick.line = s.line := (rfl)
@[simp] theorem tick_columns : s.tick.columns = s.columns := (rfl)
@[simp] theorem tick_handoff : s.tick.handoff = s.handoff := (rfl)
@[simp] theorem tick_placement : s.tick.placement = s.placement := (rfl)
@[simp] theorem tick_lock : s.tick.lock = s.lock := (rfl)
@[simp] theorem tick_age : s.tick.age = s.age := (rfl)
@[simp] theorem tick_manifest : s.tick.manifest = s.manifest := (rfl)
@[simp] theorem tick_survey : s.tick.survey = s.survey := (rfl)

/-! ### The rows of the tables under the setters of other blocks -/

@[simp] theorem setPower_slot (x : Power) (k : Slot) : (s.setPower x).slot k = s.slot k := (rfl)
@[simp] theorem setPower_col (x : Power) (c : Col) : (s.setPower x).col c = s.col c := (rfl)
@[simp] theorem setPower_entry (x : Power) (i : RecIdx) : (s.setPower x).entry i = s.entry i := (rfl)
@[simp] theorem setPower_live (x : Power) (i : RecIdx) : (s.setPower x).live i = s.live i := (rfl)
@[simp] theorem setPower_handleAt (x : Power) (i : RecIdx) : (s.setPower x).handleAt i = s.handleAt i := (rfl)
@[simp] theorem setPower_named (x : Power) (h : Handle) : (s.setPower x).named h = s.named h := (rfl)
@[simp] theorem setPower_lockOf (x : Power) (c : Col) : (s.setPower x).lockOf c = s.lockOf c := (rfl)
@[simp] theorem setPower_waitsOf (x : Power) (c : Col) : (s.setPower x).waitsOf c = s.waitsOf c := (rfl)
@[simp] theorem setPower_mark (x : Power) (m : Slot) : (s.setPower x).mark m = s.mark m := (rfl)
@[simp] theorem setPower_surveyor (x : Power) (c : Col) : (s.setPower x).surveyor c = s.surveyor c := (rfl)
@[simp] theorem setPower_isLive (x : Power) (k : Slot) : (s.setPower x).isLive k = s.isLive k := (rfl)

@[simp] theorem setPort_slot (x : Port) (k : Slot) : (s.setPort x).slot k = s.slot k := (rfl)
@[simp] theorem setPort_col (x : Port) (c : Col) : (s.setPort x).col c = s.col c := (rfl)
@[simp] theorem setPort_entry (x : Port) (i : RecIdx) : (s.setPort x).entry i = s.entry i := (rfl)
@[simp] theorem setPort_live (x : Port) (i : RecIdx) : (s.setPort x).live i = s.live i := (rfl)
@[simp] theorem setPort_handleAt (x : Port) (i : RecIdx) : (s.setPort x).handleAt i = s.handleAt i := (rfl)
@[simp] theorem setPort_named (x : Port) (h : Handle) : (s.setPort x).named h = s.named h := (rfl)
@[simp] theorem setPort_lockOf (x : Port) (c : Col) : (s.setPort x).lockOf c = s.lockOf c := (rfl)
@[simp] theorem setPort_waitsOf (x : Port) (c : Col) : (s.setPort x).waitsOf c = s.waitsOf c := (rfl)
@[simp] theorem setPort_mark (x : Port) (m : Slot) : (s.setPort x).mark m = s.mark m := (rfl)
@[simp] theorem setPort_surveyor (x : Port) (c : Col) : (s.setPort x).surveyor c = s.surveyor c := (rfl)
@[simp] theorem setPort_isLive (x : Port) (k : Slot) : (s.setPort x).isLive k = s.isLive k := (rfl)

@[simp] theorem setNotice_slot (x : NoticeUnit) (k : Slot) : (s.setNotice x).slot k = s.slot k := (rfl)
@[simp] theorem setNotice_col (x : NoticeUnit) (c : Col) : (s.setNotice x).col c = s.col c := (rfl)
@[simp] theorem setNotice_entry (x : NoticeUnit) (i : RecIdx) : (s.setNotice x).entry i = s.entry i := (rfl)
@[simp] theorem setNotice_live (x : NoticeUnit) (i : RecIdx) : (s.setNotice x).live i = s.live i := (rfl)
@[simp] theorem setNotice_handleAt (x : NoticeUnit) (i : RecIdx) : (s.setNotice x).handleAt i = s.handleAt i := (rfl)
@[simp] theorem setNotice_named (x : NoticeUnit) (h : Handle) : (s.setNotice x).named h = s.named h := (rfl)
@[simp] theorem setNotice_lockOf (x : NoticeUnit) (c : Col) : (s.setNotice x).lockOf c = s.lockOf c := (rfl)
@[simp] theorem setNotice_waitsOf (x : NoticeUnit) (c : Col) : (s.setNotice x).waitsOf c = s.waitsOf c := (rfl)
@[simp] theorem setNotice_mark (x : NoticeUnit) (m : Slot) : (s.setNotice x).mark m = s.mark m := (rfl)
@[simp] theorem setNotice_surveyor (x : NoticeUnit) (c : Col) : (s.setNotice x).surveyor c = s.surveyor c := (rfl)
@[simp] theorem setNotice_isLive (x : NoticeUnit) (k : Slot) : (s.setNotice x).isLive k = s.isLive k := (rfl)

@[simp] theorem setLine_col (x : Line) (c : Col) : (s.setLine x).col c = s.col c := (rfl)
@[simp] theorem setLine_entry (x : Line) (i : RecIdx) : (s.setLine x).entry i = s.entry i := (rfl)
@[simp] theorem setLine_live (x : Line) (i : RecIdx) : (s.setLine x).live i = s.live i := (rfl)
@[simp] theorem setLine_handleAt (x : Line) (i : RecIdx) : (s.setLine x).handleAt i = s.handleAt i := (rfl)
@[simp] theorem setLine_named (x : Line) (h : Handle) : (s.setLine x).named h = s.named h := (rfl)
@[simp] theorem setLine_lockOf (x : Line) (c : Col) : (s.setLine x).lockOf c = s.lockOf c := (rfl)
@[simp] theorem setLine_waitsOf (x : Line) (c : Col) : (s.setLine x).waitsOf c = s.waitsOf c := (rfl)
@[simp] theorem setLine_mark (x : Line) (m : Slot) : (s.setLine x).mark m = s.mark m := (rfl)
@[simp] theorem setLine_surveyor (x : Line) (c : Col) : (s.setLine x).surveyor c = s.surveyor c := (rfl)

@[simp] theorem setColumns_slot (x : Vector Column 16) (k : Slot) : (s.setColumns x).slot k = s.slot k := (rfl)
@[simp] theorem setColumns_entry (x : Vector Column 16) (i : RecIdx) : (s.setColumns x).entry i = s.entry i := (rfl)
@[simp] theorem setColumns_live (x : Vector Column 16) (i : RecIdx) : (s.setColumns x).live i = s.live i := (rfl)
@[simp] theorem setColumns_handleAt (x : Vector Column 16) (i : RecIdx) : (s.setColumns x).handleAt i = s.handleAt i := (rfl)
@[simp] theorem setColumns_named (x : Vector Column 16) (h : Handle) : (s.setColumns x).named h = s.named h := (rfl)
@[simp] theorem setColumns_lockOf (x : Vector Column 16) (c : Col) : (s.setColumns x).lockOf c = s.lockOf c := (rfl)
@[simp] theorem setColumns_waitsOf (x : Vector Column 16) (c : Col) : (s.setColumns x).waitsOf c = s.waitsOf c := (rfl)
@[simp] theorem setColumns_mark (x : Vector Column 16) (m : Slot) : (s.setColumns x).mark m = s.mark m := (rfl)
@[simp] theorem setColumns_surveyor (x : Vector Column 16) (c : Col) : (s.setColumns x).surveyor c = s.surveyor c := (rfl)
@[simp] theorem setColumns_isLive (x : Vector Column 16) (k : Slot) : (s.setColumns x).isLive k = s.isLive k := (rfl)

@[simp] theorem setHandoff_slot (x : Handoff) (k : Slot) : (s.setHandoff x).slot k = s.slot k := (rfl)
@[simp] theorem setHandoff_col (x : Handoff) (c : Col) : (s.setHandoff x).col c = s.col c := (rfl)
@[simp] theorem setHandoff_lockOf (x : Handoff) (c : Col) : (s.setHandoff x).lockOf c = s.lockOf c := (rfl)
@[simp] theorem setHandoff_waitsOf (x : Handoff) (c : Col) : (s.setHandoff x).waitsOf c = s.waitsOf c := (rfl)
@[simp] theorem setHandoff_mark (x : Handoff) (m : Slot) : (s.setHandoff x).mark m = s.mark m := (rfl)
@[simp] theorem setHandoff_surveyor (x : Handoff) (c : Col) : (s.setHandoff x).surveyor c = s.surveyor c := (rfl)
@[simp] theorem setHandoff_isLive (x : Handoff) (k : Slot) : (s.setHandoff x).isLive k = s.isLive k := (rfl)

@[simp] theorem setPlacement_slot (x : Placement) (k : Slot) : (s.setPlacement x).slot k = s.slot k := (rfl)
@[simp] theorem setPlacement_col (x : Placement) (c : Col) : (s.setPlacement x).col c = s.col c := (rfl)
@[simp] theorem setPlacement_entry (x : Placement) (i : RecIdx) : (s.setPlacement x).entry i = s.entry i := (rfl)
@[simp] theorem setPlacement_live (x : Placement) (i : RecIdx) : (s.setPlacement x).live i = s.live i := (rfl)
@[simp] theorem setPlacement_handleAt (x : Placement) (i : RecIdx) : (s.setPlacement x).handleAt i = s.handleAt i := (rfl)
@[simp] theorem setPlacement_named (x : Placement) (h : Handle) : (s.setPlacement x).named h = s.named h := (rfl)
@[simp] theorem setPlacement_lockOf (x : Placement) (c : Col) : (s.setPlacement x).lockOf c = s.lockOf c := (rfl)
@[simp] theorem setPlacement_waitsOf (x : Placement) (c : Col) : (s.setPlacement x).waitsOf c = s.waitsOf c := (rfl)
@[simp] theorem setPlacement_mark (x : Placement) (m : Slot) : (s.setPlacement x).mark m = s.mark m := (rfl)
@[simp] theorem setPlacement_surveyor (x : Placement) (c : Col) : (s.setPlacement x).surveyor c = s.surveyor c := (rfl)
@[simp] theorem setPlacement_isLive (x : Placement) (k : Slot) : (s.setPlacement x).isLive k = s.isLive k := (rfl)

@[simp] theorem setLock_slot (x : LockUnit) (k : Slot) : (s.setLock x).slot k = s.slot k := (rfl)
@[simp] theorem setLock_col (x : LockUnit) (c : Col) : (s.setLock x).col c = s.col c := (rfl)
@[simp] theorem setLock_entry (x : LockUnit) (i : RecIdx) : (s.setLock x).entry i = s.entry i := (rfl)
@[simp] theorem setLock_live (x : LockUnit) (i : RecIdx) : (s.setLock x).live i = s.live i := (rfl)
@[simp] theorem setLock_handleAt (x : LockUnit) (i : RecIdx) : (s.setLock x).handleAt i = s.handleAt i := (rfl)
@[simp] theorem setLock_named (x : LockUnit) (h : Handle) : (s.setLock x).named h = s.named h := (rfl)
@[simp] theorem setLock_surveyor (x : LockUnit) (c : Col) : (s.setLock x).surveyor c = s.surveyor c := (rfl)
@[simp] theorem setLock_isLive (x : LockUnit) (k : Slot) : (s.setLock x).isLive k = s.isLive k := (rfl)

@[simp] theorem setAge_slot (x : Age) (k : Slot) : (s.setAge x).slot k = s.slot k := (rfl)
@[simp] theorem setAge_col (x : Age) (c : Col) : (s.setAge x).col c = s.col c := (rfl)
@[simp] theorem setAge_entry (x : Age) (i : RecIdx) : (s.setAge x).entry i = s.entry i := (rfl)
@[simp] theorem setAge_live (x : Age) (i : RecIdx) : (s.setAge x).live i = s.live i := (rfl)
@[simp] theorem setAge_handleAt (x : Age) (i : RecIdx) : (s.setAge x).handleAt i = s.handleAt i := (rfl)
@[simp] theorem setAge_named (x : Age) (h : Handle) : (s.setAge x).named h = s.named h := (rfl)
@[simp] theorem setAge_lockOf (x : Age) (c : Col) : (s.setAge x).lockOf c = s.lockOf c := (rfl)
@[simp] theorem setAge_waitsOf (x : Age) (c : Col) : (s.setAge x).waitsOf c = s.waitsOf c := (rfl)
@[simp] theorem setAge_mark (x : Age) (m : Slot) : (s.setAge x).mark m = s.mark m := (rfl)
@[simp] theorem setAge_surveyor (x : Age) (c : Col) : (s.setAge x).surveyor c = s.surveyor c := (rfl)
@[simp] theorem setAge_isLive (x : Age) (k : Slot) : (s.setAge x).isLive k = s.isLive k := (rfl)

@[simp] theorem setManifest_slot (x : Manifest) (k : Slot) : (s.setManifest x).slot k = s.slot k := (rfl)
@[simp] theorem setManifest_col (x : Manifest) (c : Col) : (s.setManifest x).col c = s.col c := (rfl)
@[simp] theorem setManifest_entry (x : Manifest) (i : RecIdx) : (s.setManifest x).entry i = s.entry i := (rfl)
@[simp] theorem setManifest_live (x : Manifest) (i : RecIdx) : (s.setManifest x).live i = s.live i := (rfl)
@[simp] theorem setManifest_handleAt (x : Manifest) (i : RecIdx) : (s.setManifest x).handleAt i = s.handleAt i := (rfl)
@[simp] theorem setManifest_named (x : Manifest) (h : Handle) : (s.setManifest x).named h = s.named h := (rfl)
@[simp] theorem setManifest_lockOf (x : Manifest) (c : Col) : (s.setManifest x).lockOf c = s.lockOf c := (rfl)
@[simp] theorem setManifest_waitsOf (x : Manifest) (c : Col) : (s.setManifest x).waitsOf c = s.waitsOf c := (rfl)
@[simp] theorem setManifest_mark (x : Manifest) (m : Slot) : (s.setManifest x).mark m = s.mark m := (rfl)
@[simp] theorem setManifest_surveyor (x : Manifest) (c : Col) : (s.setManifest x).surveyor c = s.surveyor c := (rfl)
@[simp] theorem setManifest_isLive (x : Manifest) (k : Slot) : (s.setManifest x).isLive k = s.isLive k := (rfl)

@[simp] theorem setSurvey_slot (x : SurveyUnit) (k : Slot) : (s.setSurvey x).slot k = s.slot k := (rfl)
@[simp] theorem setSurvey_col (x : SurveyUnit) (c : Col) : (s.setSurvey x).col c = s.col c := (rfl)
@[simp] theorem setSurvey_entry (x : SurveyUnit) (i : RecIdx) : (s.setSurvey x).entry i = s.entry i := (rfl)
@[simp] theorem setSurvey_live (x : SurveyUnit) (i : RecIdx) : (s.setSurvey x).live i = s.live i := (rfl)
@[simp] theorem setSurvey_handleAt (x : SurveyUnit) (i : RecIdx) : (s.setSurvey x).handleAt i = s.handleAt i := (rfl)
@[simp] theorem setSurvey_named (x : SurveyUnit) (h : Handle) : (s.setSurvey x).named h = s.named h := (rfl)
@[simp] theorem setSurvey_lockOf (x : SurveyUnit) (c : Col) : (s.setSurvey x).lockOf c = s.lockOf c := (rfl)
@[simp] theorem setSurvey_waitsOf (x : SurveyUnit) (c : Col) : (s.setSurvey x).waitsOf c = s.waitsOf c := (rfl)
@[simp] theorem setSurvey_mark (x : SurveyUnit) (m : Slot) : (s.setSurvey x).mark m = s.mark m := (rfl)
@[simp] theorem setSurvey_isLive (x : SurveyUnit) (k : Slot) : (s.setSurvey x).isLive k = s.isLive k := (rfl)

@[simp] theorem setPending_slot (x : List Instr) (k : Slot) : (s.setPending x).slot k = s.slot k := (rfl)
@[simp] theorem setPending_col (x : List Instr) (c : Col) : (s.setPending x).col c = s.col c := (rfl)
@[simp] theorem setPending_entry (x : List Instr) (i : RecIdx) : (s.setPending x).entry i = s.entry i := (rfl)
@[simp] theorem setPending_live (x : List Instr) (i : RecIdx) : (s.setPending x).live i = s.live i := (rfl)
@[simp] theorem setPending_handleAt (x : List Instr) (i : RecIdx) : (s.setPending x).handleAt i = s.handleAt i := (rfl)
@[simp] theorem setPending_named (x : List Instr) (h : Handle) : (s.setPending x).named h = s.named h := (rfl)
@[simp] theorem setPending_lockOf (x : List Instr) (c : Col) : (s.setPending x).lockOf c = s.lockOf c := (rfl)
@[simp] theorem setPending_waitsOf (x : List Instr) (c : Col) : (s.setPending x).waitsOf c = s.waitsOf c := (rfl)
@[simp] theorem setPending_mark (x : List Instr) (m : Slot) : (s.setPending x).mark m = s.mark m := (rfl)
@[simp] theorem setPending_surveyor (x : List Instr) (c : Col) : (s.setPending x).surveyor c = s.surveyor c := (rfl)
@[simp] theorem setPending_isLive (x : List Instr) (k : Slot) : (s.setPending x).isLive k = s.isLive k := (rfl)

/-! ### The rows under the setter of their own block -/

@[simp] theorem setLine_slot (x : Line) (k : Slot) : (s.setLine x).slot k = x.slots[k] := (rfl)
@[simp] theorem setColumns_col (x : Vector Column 16) (c : Col) : (s.setColumns x).col c = x[c] := (rfl)
@[simp] theorem setHandoff_entry (x : Handoff) (i : RecIdx) : (s.setHandoff x).entry i = x.entries[i] := (rfl)
@[simp] theorem setLock_lockOf (x : LockUnit) (c : Col) : (s.setLock x).lockOf c = x.locks[c] := (rfl)
@[simp] theorem setLock_waitsOf (x : LockUnit) (c : Col) : (s.setLock x).waitsOf c = x.waits[c] := (rfl)
@[simp] theorem setLock_mark (x : LockUnit) (k : Slot) : (s.setLock x).mark k = x.marks[k] := (rfl)
@[simp] theorem setSurvey_surveyor (x : SurveyUnit) (c : Col) : (s.setSurvey x).surveyor c = x.surveyors[c] := (rfl)

theorem line_slots (k : Slot) : s.line.slots[k.val] = s.slot k := rfl
theorem columns_col (c : Col) : s.columns[c.val] = s.col c := rfl
theorem handoff_entries (i : RecIdx) : s.handoff.entries[i.val] = s.entry i := rfl
theorem lock_locks (c : Col) : s.lock.locks[c.val] = s.lockOf c := rfl
theorem lock_waits (c : Col) : s.lock.waits[c.val] = s.waitsOf c := rfl
theorem lock_marks (k : Slot) : s.lock.marks[k.val] = s.mark k := rfl
theorem survey_surveyors (c : Col) : s.survey.surveyors[c.val] = s.surveyor c := rfl

/-! ### Writing one row -/

@[simp] theorem setSlot_pending (k : Slot) (x : SlotRec) : (s.setSlot k x).pending = s.pending := (rfl)
@[simp] theorem setSlot_now (k : Slot) (x : SlotRec) : (s.setSlot k x).now = s.now := (rfl)
@[simp] theorem setSlot_power (k : Slot) (x : SlotRec) : (s.setSlot k x).power = s.power := (rfl)
@[simp] theorem setSlot_port (k : Slot) (x : SlotRec) : (s.setSlot k x).port = s.port := (rfl)
@[simp] theorem setSlot_notice (k : Slot) (x : SlotRec) : (s.setSlot k x).notice = s.notice := (rfl)
@[simp] theorem setSlot_columns (k : Slot) (x : SlotRec) : (s.setSlot k x).columns = s.columns := (rfl)
@[simp] theorem setSlot_handoff (k : Slot) (x : SlotRec) : (s.setSlot k x).handoff = s.handoff := (rfl)
@[simp] theorem setSlot_placement (k : Slot) (x : SlotRec) : (s.setSlot k x).placement = s.placement := (rfl)
@[simp] theorem setSlot_lock (k : Slot) (x : SlotRec) : (s.setSlot k x).lock = s.lock := (rfl)
@[simp] theorem setSlot_age (k : Slot) (x : SlotRec) : (s.setSlot k x).age = s.age := (rfl)
@[simp] theorem setSlot_manifest (k : Slot) (x : SlotRec) : (s.setSlot k x).manifest = s.manifest := (rfl)
@[simp] theorem setSlot_survey (k : Slot) (x : SlotRec) : (s.setSlot k x).survey = s.survey := (rfl)
@[simp] theorem setSlot_col (k : Slot) (x : SlotRec) (c : Col) : (s.setSlot k x).col c = s.col c := (rfl)
@[simp] theorem setSlot_entry (k : Slot) (x : SlotRec) (i : RecIdx) : (s.setSlot k x).entry i = s.entry i := (rfl)
@[simp] theorem setSlot_live (k : Slot) (x : SlotRec) (i : RecIdx) : (s.setSlot k x).live i = s.live i := (rfl)
@[simp] theorem setSlot_handleAt (k : Slot) (x : SlotRec) (i : RecIdx) : (s.setSlot k x).handleAt i = s.handleAt i := (rfl)
@[simp] theorem setSlot_named (k : Slot) (x : SlotRec) (h : Handle) : (s.setSlot k x).named h = s.named h := (rfl)
@[simp] theorem setSlot_lockOf (k : Slot) (x : SlotRec) (c : Col) : (s.setSlot k x).lockOf c = s.lockOf c := (rfl)
@[simp] theorem setSlot_waitsOf (k : Slot) (x : SlotRec) (c : Col) : (s.setSlot k x).waitsOf c = s.waitsOf c := (rfl)
@[simp] theorem setSlot_mark (k : Slot) (x : SlotRec) (m : Slot) : (s.setSlot k x).mark m = s.mark m := (rfl)
@[simp] theorem setSlot_surveyor (k : Slot) (x : SlotRec) (c : Col) : (s.setSlot k x).surveyor c = s.surveyor c := (rfl)

@[simp] theorem setCol_pending (c : Col) (x : Column) : (s.setCol c x).pending = s.pending := (rfl)
@[simp] theorem setCol_now (c : Col) (x : Column) : (s.setCol c x).now = s.now := (rfl)
@[simp] theorem setCol_power (c : Col) (x : Column) : (s.setCol c x).power = s.power := (rfl)
@[simp] theorem setCol_port (c : Col) (x : Column) : (s.setCol c x).port = s.port := (rfl)
@[simp] theorem setCol_notice (c : Col) (x : Column) : (s.setCol c x).notice = s.notice := (rfl)
@[simp] theorem setCol_line (c : Col) (x : Column) : (s.setCol c x).line = s.line := (rfl)
@[simp] theorem setCol_handoff (c : Col) (x : Column) : (s.setCol c x).handoff = s.handoff := (rfl)
@[simp] theorem setCol_placement (c : Col) (x : Column) : (s.setCol c x).placement = s.placement := (rfl)
@[simp] theorem setCol_lock (c : Col) (x : Column) : (s.setCol c x).lock = s.lock := (rfl)
@[simp] theorem setCol_age (c : Col) (x : Column) : (s.setCol c x).age = s.age := (rfl)
@[simp] theorem setCol_manifest (c : Col) (x : Column) : (s.setCol c x).manifest = s.manifest := (rfl)
@[simp] theorem setCol_survey (c : Col) (x : Column) : (s.setCol c x).survey = s.survey := (rfl)
@[simp] theorem setCol_slot (c : Col) (x : Column) (k : Slot) : (s.setCol c x).slot k = s.slot k := (rfl)
@[simp] theorem setCol_entry (c : Col) (x : Column) (i : RecIdx) : (s.setCol c x).entry i = s.entry i := (rfl)
@[simp] theorem setCol_live (c : Col) (x : Column) (i : RecIdx) : (s.setCol c x).live i = s.live i := (rfl)
@[simp] theorem setCol_handleAt (c : Col) (x : Column) (i : RecIdx) : (s.setCol c x).handleAt i = s.handleAt i := (rfl)
@[simp] theorem setCol_named (c : Col) (x : Column) (h : Handle) : (s.setCol c x).named h = s.named h := (rfl)
@[simp] theorem setCol_lockOf (c : Col) (x : Column) (c' : Col) : (s.setCol c x).lockOf c' = s.lockOf c' := (rfl)
@[simp] theorem setCol_waitsOf (c : Col) (x : Column) (c' : Col) : (s.setCol c x).waitsOf c' = s.waitsOf c' := (rfl)
@[simp] theorem setCol_mark (c : Col) (x : Column) (m : Slot) : (s.setCol c x).mark m = s.mark m := (rfl)
@[simp] theorem setCol_surveyor (c : Col) (x : Column) (c' : Col) : (s.setCol c x).surveyor c' = s.surveyor c' := (rfl)
@[simp] theorem setCol_isLive (c : Col) (x : Column) (k : Slot) : (s.setCol c x).isLive k = s.isLive k := (rfl)

@[simp] theorem setEntry_pending (i : RecIdx) (x : Entry) : (s.setEntry i x).pending = s.pending := (rfl)
@[simp] theorem setEntry_now (i : RecIdx) (x : Entry) : (s.setEntry i x).now = s.now := (rfl)
@[simp] theorem setEntry_power (i : RecIdx) (x : Entry) : (s.setEntry i x).power = s.power := (rfl)
@[simp] theorem setEntry_port (i : RecIdx) (x : Entry) : (s.setEntry i x).port = s.port := (rfl)
@[simp] theorem setEntry_notice (i : RecIdx) (x : Entry) : (s.setEntry i x).notice = s.notice := (rfl)
@[simp] theorem setEntry_line (i : RecIdx) (x : Entry) : (s.setEntry i x).line = s.line := (rfl)
@[simp] theorem setEntry_columns (i : RecIdx) (x : Entry) : (s.setEntry i x).columns = s.columns := (rfl)
@[simp] theorem setEntry_placement (i : RecIdx) (x : Entry) : (s.setEntry i x).placement = s.placement := (rfl)
@[simp] theorem setEntry_lock (i : RecIdx) (x : Entry) : (s.setEntry i x).lock = s.lock := (rfl)
@[simp] theorem setEntry_age (i : RecIdx) (x : Entry) : (s.setEntry i x).age = s.age := (rfl)
@[simp] theorem setEntry_manifest (i : RecIdx) (x : Entry) : (s.setEntry i x).manifest = s.manifest := (rfl)
@[simp] theorem setEntry_survey (i : RecIdx) (x : Entry) : (s.setEntry i x).survey = s.survey := (rfl)
@[simp] theorem setEntry_slot (i : RecIdx) (x : Entry) (k : Slot) : (s.setEntry i x).slot k = s.slot k := (rfl)
@[simp] theorem setEntry_col (i : RecIdx) (x : Entry) (c : Col) : (s.setEntry i x).col c = s.col c := (rfl)
@[simp] theorem setEntry_lockOf (i : RecIdx) (x : Entry) (c : Col) : (s.setEntry i x).lockOf c = s.lockOf c := (rfl)
@[simp] theorem setEntry_waitsOf (i : RecIdx) (x : Entry) (c : Col) : (s.setEntry i x).waitsOf c = s.waitsOf c := (rfl)
@[simp] theorem setEntry_mark (i : RecIdx) (x : Entry) (m : Slot) : (s.setEntry i x).mark m = s.mark m := (rfl)
@[simp] theorem setEntry_surveyor (i : RecIdx) (x : Entry) (c : Col) : (s.setEntry i x).surveyor c = s.surveyor c := (rfl)
@[simp] theorem setEntry_isLive (i : RecIdx) (x : Entry) (k : Slot) : (s.setEntry i x).isLive k = s.isLive k := (rfl)

@[simp] theorem setRec_pending (i : RecIdx) (x : Record) : (s.setRec i x).pending = s.pending := (rfl)
@[simp] theorem setRec_now (i : RecIdx) (x : Record) : (s.setRec i x).now = s.now := (rfl)
@[simp] theorem setRec_power (i : RecIdx) (x : Record) : (s.setRec i x).power = s.power := (rfl)
@[simp] theorem setRec_port (i : RecIdx) (x : Record) : (s.setRec i x).port = s.port := (rfl)
@[simp] theorem setRec_notice (i : RecIdx) (x : Record) : (s.setRec i x).notice = s.notice := (rfl)
@[simp] theorem setRec_line (i : RecIdx) (x : Record) : (s.setRec i x).line = s.line := (rfl)
@[simp] theorem setRec_columns (i : RecIdx) (x : Record) : (s.setRec i x).columns = s.columns := (rfl)
@[simp] theorem setRec_placement (i : RecIdx) (x : Record) : (s.setRec i x).placement = s.placement := (rfl)
@[simp] theorem setRec_lock (i : RecIdx) (x : Record) : (s.setRec i x).lock = s.lock := (rfl)
@[simp] theorem setRec_age (i : RecIdx) (x : Record) : (s.setRec i x).age = s.age := (rfl)
@[simp] theorem setRec_manifest (i : RecIdx) (x : Record) : (s.setRec i x).manifest = s.manifest := (rfl)
@[simp] theorem setRec_survey (i : RecIdx) (x : Record) : (s.setRec i x).survey = s.survey := (rfl)
@[simp] theorem setRec_slot (i : RecIdx) (x : Record) (k : Slot) : (s.setRec i x).slot k = s.slot k := (rfl)
@[simp] theorem setRec_col (i : RecIdx) (x : Record) (c : Col) : (s.setRec i x).col c = s.col c := (rfl)
@[simp] theorem setRec_lockOf (i : RecIdx) (x : Record) (c : Col) : (s.setRec i x).lockOf c = s.lockOf c := (rfl)
@[simp] theorem setRec_waitsOf (i : RecIdx) (x : Record) (c : Col) : (s.setRec i x).waitsOf c = s.waitsOf c := (rfl)
@[simp] theorem setRec_mark (i : RecIdx) (x : Record) (m : Slot) : (s.setRec i x).mark m = s.mark m := (rfl)
@[simp] theorem setRec_surveyor (i : RecIdx) (x : Record) (c : Col) : (s.setRec i x).surveyor c = s.surveyor c := (rfl)
@[simp] theorem setRec_isLive (i : RecIdx) (x : Record) (k : Slot) : (s.setRec i x).isLive k = s.isLive k := (rfl)

@[simp] theorem setLockOf_pending (c : Col) (x : Option Lock) : (s.setLockOf c x).pending = s.pending := (rfl)
@[simp] theorem setLockOf_now (c : Col) (x : Option Lock) : (s.setLockOf c x).now = s.now := (rfl)
@[simp] theorem setLockOf_power (c : Col) (x : Option Lock) : (s.setLockOf c x).power = s.power := (rfl)
@[simp] theorem setLockOf_port (c : Col) (x : Option Lock) : (s.setLockOf c x).port = s.port := (rfl)
@[simp] theorem setLockOf_notice (c : Col) (x : Option Lock) : (s.setLockOf c x).notice = s.notice := (rfl)
@[simp] theorem setLockOf_line (c : Col) (x : Option Lock) : (s.setLockOf c x).line = s.line := (rfl)
@[simp] theorem setLockOf_columns (c : Col) (x : Option Lock) : (s.setLockOf c x).columns = s.columns := (rfl)
@[simp] theorem setLockOf_handoff (c : Col) (x : Option Lock) : (s.setLockOf c x).handoff = s.handoff := (rfl)
@[simp] theorem setLockOf_placement (c : Col) (x : Option Lock) : (s.setLockOf c x).placement = s.placement := (rfl)
@[simp] theorem setLockOf_age (c : Col) (x : Option Lock) : (s.setLockOf c x).age = s.age := (rfl)
@[simp] theorem setLockOf_manifest (c : Col) (x : Option Lock) : (s.setLockOf c x).manifest = s.manifest := (rfl)
@[simp] theorem setLockOf_survey (c : Col) (x : Option Lock) : (s.setLockOf c x).survey = s.survey := (rfl)
@[simp] theorem setLockOf_slot (c : Col) (x : Option Lock) (k : Slot) : (s.setLockOf c x).slot k = s.slot k := (rfl)
@[simp] theorem setLockOf_col (c : Col) (x : Option Lock) (c' : Col) : (s.setLockOf c x).col c' = s.col c' := (rfl)
@[simp] theorem setLockOf_entry (c : Col) (x : Option Lock) (i : RecIdx) : (s.setLockOf c x).entry i = s.entry i := (rfl)
@[simp] theorem setLockOf_live (c : Col) (x : Option Lock) (i : RecIdx) : (s.setLockOf c x).live i = s.live i := (rfl)
@[simp] theorem setLockOf_handleAt (c : Col) (x : Option Lock) (i : RecIdx) : (s.setLockOf c x).handleAt i = s.handleAt i := (rfl)
@[simp] theorem setLockOf_named (c : Col) (x : Option Lock) (h : Handle) : (s.setLockOf c x).named h = s.named h := (rfl)
@[simp] theorem setLockOf_surveyor (c : Col) (x : Option Lock) (c' : Col) : (s.setLockOf c x).surveyor c' = s.surveyor c' := (rfl)
@[simp] theorem setLockOf_isLive (c : Col) (x : Option Lock) (k : Slot) : (s.setLockOf c x).isLive k = s.isLive k := (rfl)

@[simp] theorem setWaitsOf_pending (c : Col) (x : List WaitEntry) : (s.setWaitsOf c x).pending = s.pending := (rfl)
@[simp] theorem setWaitsOf_now (c : Col) (x : List WaitEntry) : (s.setWaitsOf c x).now = s.now := (rfl)
@[simp] theorem setWaitsOf_power (c : Col) (x : List WaitEntry) : (s.setWaitsOf c x).power = s.power := (rfl)
@[simp] theorem setWaitsOf_port (c : Col) (x : List WaitEntry) : (s.setWaitsOf c x).port = s.port := (rfl)
@[simp] theorem setWaitsOf_notice (c : Col) (x : List WaitEntry) : (s.setWaitsOf c x).notice = s.notice := (rfl)
@[simp] theorem setWaitsOf_line (c : Col) (x : List WaitEntry) : (s.setWaitsOf c x).line = s.line := (rfl)
@[simp] theorem setWaitsOf_columns (c : Col) (x : List WaitEntry) : (s.setWaitsOf c x).columns = s.columns := (rfl)
@[simp] theorem setWaitsOf_handoff (c : Col) (x : List WaitEntry) : (s.setWaitsOf c x).handoff = s.handoff := (rfl)
@[simp] theorem setWaitsOf_placement (c : Col) (x : List WaitEntry) : (s.setWaitsOf c x).placement = s.placement := (rfl)
@[simp] theorem setWaitsOf_age (c : Col) (x : List WaitEntry) : (s.setWaitsOf c x).age = s.age := (rfl)
@[simp] theorem setWaitsOf_manifest (c : Col) (x : List WaitEntry) : (s.setWaitsOf c x).manifest = s.manifest := (rfl)
@[simp] theorem setWaitsOf_survey (c : Col) (x : List WaitEntry) : (s.setWaitsOf c x).survey = s.survey := (rfl)
@[simp] theorem setWaitsOf_slot (c : Col) (x : List WaitEntry) (k : Slot) : (s.setWaitsOf c x).slot k = s.slot k := (rfl)
@[simp] theorem setWaitsOf_col (c : Col) (x : List WaitEntry) (c' : Col) : (s.setWaitsOf c x).col c' = s.col c' := (rfl)
@[simp] theorem setWaitsOf_entry (c : Col) (x : List WaitEntry) (i : RecIdx) : (s.setWaitsOf c x).entry i = s.entry i := (rfl)
@[simp] theorem setWaitsOf_live (c : Col) (x : List WaitEntry) (i : RecIdx) : (s.setWaitsOf c x).live i = s.live i := (rfl)
@[simp] theorem setWaitsOf_handleAt (c : Col) (x : List WaitEntry) (i : RecIdx) : (s.setWaitsOf c x).handleAt i = s.handleAt i := (rfl)
@[simp] theorem setWaitsOf_named (c : Col) (x : List WaitEntry) (h : Handle) : (s.setWaitsOf c x).named h = s.named h := (rfl)
@[simp] theorem setWaitsOf_surveyor (c : Col) (x : List WaitEntry) (c' : Col) : (s.setWaitsOf c x).surveyor c' = s.surveyor c' := (rfl)
@[simp] theorem setWaitsOf_isLive (c : Col) (x : List WaitEntry) (k : Slot) : (s.setWaitsOf c x).isLive k = s.isLive k := (rfl)

@[simp] theorem setMark_pending (k : Slot) (x : Option Col) : (s.setMark k x).pending = s.pending := (rfl)
@[simp] theorem setMark_now (k : Slot) (x : Option Col) : (s.setMark k x).now = s.now := (rfl)
@[simp] theorem setMark_power (k : Slot) (x : Option Col) : (s.setMark k x).power = s.power := (rfl)
@[simp] theorem setMark_port (k : Slot) (x : Option Col) : (s.setMark k x).port = s.port := (rfl)
@[simp] theorem setMark_notice (k : Slot) (x : Option Col) : (s.setMark k x).notice = s.notice := (rfl)
@[simp] theorem setMark_line (k : Slot) (x : Option Col) : (s.setMark k x).line = s.line := (rfl)
@[simp] theorem setMark_columns (k : Slot) (x : Option Col) : (s.setMark k x).columns = s.columns := (rfl)
@[simp] theorem setMark_handoff (k : Slot) (x : Option Col) : (s.setMark k x).handoff = s.handoff := (rfl)
@[simp] theorem setMark_placement (k : Slot) (x : Option Col) : (s.setMark k x).placement = s.placement := (rfl)
@[simp] theorem setMark_age (k : Slot) (x : Option Col) : (s.setMark k x).age = s.age := (rfl)
@[simp] theorem setMark_manifest (k : Slot) (x : Option Col) : (s.setMark k x).manifest = s.manifest := (rfl)
@[simp] theorem setMark_survey (k : Slot) (x : Option Col) : (s.setMark k x).survey = s.survey := (rfl)
@[simp] theorem setMark_slot (k : Slot) (x : Option Col) (k' : Slot) : (s.setMark k x).slot k' = s.slot k' := (rfl)
@[simp] theorem setMark_col (k : Slot) (x : Option Col) (c : Col) : (s.setMark k x).col c = s.col c := (rfl)
@[simp] theorem setMark_entry (k : Slot) (x : Option Col) (i : RecIdx) : (s.setMark k x).entry i = s.entry i := (rfl)
@[simp] theorem setMark_live (k : Slot) (x : Option Col) (i : RecIdx) : (s.setMark k x).live i = s.live i := (rfl)
@[simp] theorem setMark_handleAt (k : Slot) (x : Option Col) (i : RecIdx) : (s.setMark k x).handleAt i = s.handleAt i := (rfl)
@[simp] theorem setMark_named (k : Slot) (x : Option Col) (h : Handle) : (s.setMark k x).named h = s.named h := (rfl)
@[simp] theorem setMark_surveyor (k : Slot) (x : Option Col) (c : Col) : (s.setMark k x).surveyor c = s.surveyor c := (rfl)
@[simp] theorem setMark_isLive (k : Slot) (x : Option Col) (k' : Slot) : (s.setMark k x).isLive k' = s.isLive k' := (rfl)

@[simp] theorem setSurveyor_pending (c : Col) (x : Option Slot) : (s.setSurveyor c x).pending = s.pending := (rfl)
@[simp] theorem setSurveyor_now (c : Col) (x : Option Slot) : (s.setSurveyor c x).now = s.now := (rfl)
@[simp] theorem setSurveyor_power (c : Col) (x : Option Slot) : (s.setSurveyor c x).power = s.power := (rfl)
@[simp] theorem setSurveyor_port (c : Col) (x : Option Slot) : (s.setSurveyor c x).port = s.port := (rfl)
@[simp] theorem setSurveyor_notice (c : Col) (x : Option Slot) : (s.setSurveyor c x).notice = s.notice := (rfl)
@[simp] theorem setSurveyor_line (c : Col) (x : Option Slot) : (s.setSurveyor c x).line = s.line := (rfl)
@[simp] theorem setSurveyor_columns (c : Col) (x : Option Slot) : (s.setSurveyor c x).columns = s.columns := (rfl)
@[simp] theorem setSurveyor_handoff (c : Col) (x : Option Slot) : (s.setSurveyor c x).handoff = s.handoff := (rfl)
@[simp] theorem setSurveyor_placement (c : Col) (x : Option Slot) : (s.setSurveyor c x).placement = s.placement := (rfl)
@[simp] theorem setSurveyor_lock (c : Col) (x : Option Slot) : (s.setSurveyor c x).lock = s.lock := (rfl)
@[simp] theorem setSurveyor_age (c : Col) (x : Option Slot) : (s.setSurveyor c x).age = s.age := (rfl)
@[simp] theorem setSurveyor_manifest (c : Col) (x : Option Slot) : (s.setSurveyor c x).manifest = s.manifest := (rfl)
@[simp] theorem setSurveyor_slot (c : Col) (x : Option Slot) (k : Slot) : (s.setSurveyor c x).slot k = s.slot k := (rfl)
@[simp] theorem setSurveyor_col (c : Col) (x : Option Slot) (c' : Col) : (s.setSurveyor c x).col c' = s.col c' := (rfl)
@[simp] theorem setSurveyor_entry (c : Col) (x : Option Slot) (i : RecIdx) : (s.setSurveyor c x).entry i = s.entry i := (rfl)
@[simp] theorem setSurveyor_live (c : Col) (x : Option Slot) (i : RecIdx) : (s.setSurveyor c x).live i = s.live i := (rfl)
@[simp] theorem setSurveyor_handleAt (c : Col) (x : Option Slot) (i : RecIdx) : (s.setSurveyor c x).handleAt i = s.handleAt i := (rfl)
@[simp] theorem setSurveyor_named (c : Col) (x : Option Slot) (h : Handle) : (s.setSurveyor c x).named h = s.named h := (rfl)
@[simp] theorem setSurveyor_lockOf (c : Col) (x : Option Slot) (c' : Col) : (s.setSurveyor c x).lockOf c' = s.lockOf c' := (rfl)
@[simp] theorem setSurveyor_waitsOf (c : Col) (x : Option Slot) (c' : Col) : (s.setSurveyor c x).waitsOf c' = s.waitsOf c' := (rfl)
@[simp] theorem setSurveyor_mark (c : Col) (x : Option Slot) (m : Slot) : (s.setSurveyor c x).mark m = s.mark m := (rfl)
@[simp] theorem setSurveyor_isLive (c : Col) (x : Option Slot) (k : Slot) : (s.setSurveyor c x).isLive k = s.isLive k := (rfl)

/-! ### Reading back the row written, and the others -/

theorem vector_get_set {α : Type} {n : Nat} (v : Vector α n) (i j : Fin n) (x : α) :
    (v.set i x)[j] = if i = j then x else v[j] := by
  simp [Vector.getElem_set, Fin.ext_iff]

theorem setSlot_slot_if (k j : Slot) (x : SlotRec) : (s.setSlot k x).slot j = if k = j then x else s.slot j :=
  vector_get_set _ _ _ _
theorem setCol_col_if (c d : Col) (x : Column) : (s.setCol c x).col d = if c = d then x else s.col d :=
  vector_get_set _ _ _ _
theorem setEntry_entry_if (i j : RecIdx) (x : Entry) : (s.setEntry i x).entry j = if i = j then x else s.entry j :=
  vector_get_set _ _ _ _
theorem setLockOf_lockOf_if (c d : Col) (x : Option Lock) :
    (s.setLockOf c x).lockOf d = if c = d then x else s.lockOf d := vector_get_set _ _ _ _
theorem setWaitsOf_waitsOf_if (c d : Col) (x : List WaitEntry) :
    (s.setWaitsOf c x).waitsOf d = if c = d then x else s.waitsOf d := vector_get_set _ _ _ _
theorem setMark_mark_if (k j : Slot) (x : Option Col) : (s.setMark k x).mark j = if k = j then x else s.mark j :=
  vector_get_set _ _ _ _
theorem setSurveyor_surveyor_if (c d : Col) (x : Option Slot) :
    (s.setSurveyor c x).surveyor d = if c = d then x else s.surveyor d := vector_get_set _ _ _ _


@[simp] theorem setSlot_slot_self (k : Slot) (x : SlotRec) : (s.setSlot k x).slot k = x := by simp [setSlot_slot_if]
@[simp] theorem setSlot_slot_ne {k j : Slot} (h : j ≠ k) (x : SlotRec) : (s.setSlot k x).slot j = s.slot j := by
  simp [setSlot_slot_if, h.symm]
@[simp] theorem setCol_col_self (c : Col) (x : Column) : (s.setCol c x).col c = x := by simp [setCol_col_if]
@[simp] theorem setCol_col_ne {c j : Col} (h : j ≠ c) (x : Column) : (s.setCol c x).col j = s.col j := by
  simp [setCol_col_if, h.symm]
@[simp] theorem setEntry_entry_self (i : RecIdx) (x : Entry) : (s.setEntry i x).entry i = x := by simp [setEntry_entry_if]
@[simp] theorem setEntry_entry_ne {i j : RecIdx} (h : j ≠ i) (x : Entry) : (s.setEntry i x).entry j = s.entry j := by
  simp [setEntry_entry_if, h.symm]
@[simp] theorem setLockOf_lockOf_self (c : Col) (x : Option Lock) : (s.setLockOf c x).lockOf c = x := by simp [setLockOf_lockOf_if]
@[simp] theorem setLockOf_lockOf_ne {c j : Col} (h : j ≠ c) (x : Option Lock) : (s.setLockOf c x).lockOf j = s.lockOf j := by
  simp [setLockOf_lockOf_if, h.symm]
@[simp] theorem setWaitsOf_waitsOf_self (c : Col) (x : List WaitEntry) : (s.setWaitsOf c x).waitsOf c = x := by simp [setWaitsOf_waitsOf_if]
@[simp] theorem setWaitsOf_waitsOf_ne {c j : Col} (h : j ≠ c) (x : List WaitEntry) : (s.setWaitsOf c x).waitsOf j = s.waitsOf j := by
  simp [setWaitsOf_waitsOf_if, h.symm]
@[simp] theorem setMark_mark_self (k : Slot) (x : Option Col) : (s.setMark k x).mark k = x := by simp [setMark_mark_if]
@[simp] theorem setMark_mark_ne {k j : Slot} (h : j ≠ k) (x : Option Col) : (s.setMark k x).mark j = s.mark j := by
  simp [setMark_mark_if, h.symm]
@[simp] theorem setSurveyor_surveyor_self (c : Col) (x : Option Slot) : (s.setSurveyor c x).surveyor c = x := by simp [setSurveyor_surveyor_if]
@[simp] theorem setSurveyor_surveyor_ne {c j : Col} (h : j ≠ c) (x : Option Slot) : (s.setSurveyor c x).surveyor j = s.surveyor j := by
  simp [setSurveyor_surveyor_if, h.symm]

/-! ### The other rows of the same block -/

@[simp] theorem setLockOf_waitsOf (c d : Col) (x : Option Lock) : (s.setLockOf c x).waitsOf d = s.waitsOf d := (rfl)
@[simp] theorem setLockOf_mark (c : Col) (k : Slot) (x : Option Lock) : (s.setLockOf c x).mark k = s.mark k := (rfl)
@[simp] theorem setWaitsOf_lockOf (c d : Col) (x : List WaitEntry) : (s.setWaitsOf c x).lockOf d = s.lockOf d := (rfl)
@[simp] theorem setWaitsOf_mark (c : Col) (k : Slot) (x : List WaitEntry) : (s.setWaitsOf c x).mark k = s.mark k := (rfl)
@[simp] theorem setMark_lockOf (k : Slot) (c : Col) (x : Option Col) : (s.setMark k x).lockOf c = s.lockOf c := (rfl)
@[simp] theorem setMark_waitsOf (k : Slot) (c : Col) (x : Option Col) : (s.setMark k x).waitsOf c = s.waitsOf c := (rfl)

@[simp] theorem setLockOf_limits (c : Col) (x : Option Lock) :
    (s.setLockOf c x).lock.placeLimit = s.lock.placeLimit ∧ (s.setLockOf c x).lock.liftLimit = s.lock.liftLimit ∧
      (s.setLockOf c x).lock.surveyLimit = s.lock.surveyLimit := ⟨rfl, rfl, rfl⟩
@[simp] theorem setWaitsOf_limits (c : Col) (x : List WaitEntry) :
    (s.setWaitsOf c x).lock.placeLimit = s.lock.placeLimit ∧ (s.setWaitsOf c x).lock.liftLimit = s.lock.liftLimit ∧
      (s.setWaitsOf c x).lock.surveyLimit = s.lock.surveyLimit := ⟨rfl, rfl, rfl⟩
@[simp] theorem setMark_limits (k : Slot) (x : Option Col) :
    (s.setMark k x).lock.placeLimit = s.lock.placeLimit ∧ (s.setMark k x).lock.liftLimit = s.lock.liftLimit ∧
      (s.setMark k x).lock.surveyLimit = s.lock.surveyLimit := ⟨rfl, rfl, rfl⟩

@[simp] theorem setEntry_counts (i : RecIdx) (x : Entry) :
    (s.setEntry i x).handoff.freeCount = s.handoff.freeCount ∧ (s.setEntry i x).handoff.order = s.handoff.order :=
  ⟨rfl, rfl⟩
@[simp] theorem setRec_counts (i : RecIdx) (x : Record) :
    (s.setRec i x).handoff.freeCount = s.handoff.freeCount ∧ (s.setRec i x).handoff.order = s.handoff.order := ⟨rfl, rfl⟩
@[simp] theorem setSurveyor_box (c : Col) (x : Option Slot) : (s.setSurveyor c x).survey.box = s.survey.box := (rfl)

/-! ### Records under a write of one index -/

theorem live_def (i : RecIdx) : s.live i = (s.entry i).live := rfl

@[simp] theorem setEntry_live_self (i : RecIdx) (x : Entry) : (s.setEntry i x).live i = x.live := by simp [live_def]
@[simp] theorem setEntry_live_ne {i j : RecIdx} (h : j ≠ i) (x : Entry) : (s.setEntry i x).live j = s.live j := by
  simp [live_def, h]

theorem setRec_entry_if (i j : RecIdx) (r : Record) :
    (s.setRec i r).entry j = if i = j then { s.entry j with live := some r } else s.entry j := by
  by_cases h : i = j
  · subst h; simp [State.setRec]
  · simp [State.setRec, setEntry_entry_if, h]
@[simp] theorem setRec_entry_self (i : RecIdx) (r : Record) :
    (s.setRec i r).entry i = { s.entry i with live := some r } := by simp [setRec_entry_if]
@[simp] theorem setRec_entry_ne {i j : RecIdx} (h : j ≠ i) (r : Record) : (s.setRec i r).entry j = s.entry j := by
  simp [setRec_entry_if, h.symm]
theorem setRec_live_if (i j : RecIdx) (r : Record) : (s.setRec i r).live j = if i = j then some r else s.live j := by
  by_cases h : i = j <;> simp [live_def, setRec_entry_if, h]
@[simp] theorem setRec_live_self (i : RecIdx) (r : Record) : (s.setRec i r).live i = some r := by simp [live_def]
@[simp] theorem setRec_live_ne {i j : RecIdx} (h : j ≠ i) (r : Record) : (s.setRec i r).live j = s.live j := by
  simp [live_def, h]
@[simp] theorem setRec_gen (i j : RecIdx) (r : Record) : ((s.setRec i r).entry j).gen = (s.entry j).gen := by
  by_cases h : i = j <;> simp [setRec_entry_if, h]
@[simp] theorem setRec_last (i j : RecIdx) (r : Record) : ((s.setRec i r).entry j).last = (s.entry j).last := by
  by_cases h : i = j <;> simp [setRec_entry_if, h]
@[simp] theorem setRec_handleAt (i j : RecIdx) (r : Record) : (s.setRec i r).handleAt j = s.handleAt j := by
  simp [State.handleAt]

/-! ### Equality of states -/

/-- Two states are equal when their fields are. -/
theorem State.ext_fields {s t : State} (h1 : s.pending = t.pending) (h2 : s.now = t.now) (h3 : s.power = t.power)
    (h4 : s.port = t.port) (h5 : s.notice = t.notice) (h6 : s.line = t.line) (h7 : s.columns = t.columns)
    (h8 : s.handoff = t.handoff) (h9 : s.placement = t.placement) (h10 : s.lock = t.lock) (h11 : s.age = t.age)
    (h12 : s.manifest = t.manifest) (h13 : s.survey = t.survey) : s = t := by
  cases s; cases t; simp_all

/-- The slot table is known by its rows. -/
theorem slots_ext {s t : State} (h : ∀ k, s.slot k = t.slot k) : s.line.slots = t.line.slots :=
  Vector.ext fun i hi => h ⟨i, hi⟩

/-- The column table is known by its rows. -/
theorem columns_ext {s t : State} (h : ∀ c, s.col c = t.col c) : s.columns = t.columns :=
  Vector.ext fun i hi => h ⟨i, hi⟩

/-- The handoff table is known by its entries. -/
theorem entries_ext {s t : State} (h : ∀ i, s.entry i = t.entry i) : s.handoff.entries = t.handoff.entries :=
  Vector.ext fun i hi => h ⟨i, hi⟩

end Sys2Proof.Machine
end

