-- ==== Sys2Proof/Laws/Frames.lean ====
section
/-! SUPPORT. The frame of each shared operation: the parts of the state that it can change, and one lemma for each part
that it cannot. -/

namespace Sys2Proof.Safety

open Sys2Proof.Machine

/-! ### What only some parts of a change can differ in -/

theorem OnlyChanges.refl (ps : List Part) (s : State) : OnlyChanges ps s s :=
  ⟨rfl, rfl, fun p _ => by cases p <;> rfl⟩

theorem SamePart.trans {s t u : State} {p : Part} (h : SamePart s t p) (h' : SamePart t u p) : SamePart s u p := by
  cases p <;> exact Eq.trans h' h

theorem OnlyChanges.trans {ps : List Part} {s t u : State} (h : OnlyChanges ps s t) (h' : OnlyChanges ps t u) :
    OnlyChanges ps s u :=
  ⟨h'.1.trans h.1, h'.2.1.trans h.2.1, fun p hp => (h.2.2 p hp).trans (h'.2.2 p hp)⟩

theorem OnlyChanges.mono {ps qs : List Part} {s t : State} (h : OnlyChanges ps s t) (hs : ∀ p ∈ ps, p ∈ qs) :
    OnlyChanges qs s t :=
  ⟨h.1, h.2.1, fun p hp => h.2.2 p fun hm => hp (hs p hm)⟩

theorem OnlyChanges.power {ps : List Part} {s t : State} (h : OnlyChanges ps s t) (hp : .power ∉ ps) : t.power = s.power :=
  h.2.2 .power hp
theorem OnlyChanges.port {ps : List Part} {s t : State} (h : OnlyChanges ps s t) (hp : .port ∉ ps) : t.port = s.port :=
  h.2.2 .port hp
theorem OnlyChanges.notice {ps : List Part} {s t : State} (h : OnlyChanges ps s t) (hp : .notice ∉ ps) : t.notice = s.notice :=
  h.2.2 .notice hp
theorem OnlyChanges.line {ps : List Part} {s t : State} (h : OnlyChanges ps s t) (hp : .line ∉ ps) : t.line = s.line :=
  h.2.2 .line hp
theorem OnlyChanges.columns {ps : List Part} {s t : State} (h : OnlyChanges ps s t) (hp : .columns ∉ ps) : t.columns = s.columns :=
  h.2.2 .columns hp
theorem OnlyChanges.handoff {ps : List Part} {s t : State} (h : OnlyChanges ps s t) (hp : .handoff ∉ ps) : t.handoff = s.handoff :=
  h.2.2 .handoff hp
theorem OnlyChanges.placement {ps : List Part} {s t : State} (h : OnlyChanges ps s t) (hp : .placement ∉ ps) : t.placement = s.placement :=
  h.2.2 .placement hp
theorem OnlyChanges.lock {ps : List Part} {s t : State} (h : OnlyChanges ps s t) (hp : .lock ∉ ps) : t.lock = s.lock :=
  h.2.2 .lock hp
theorem OnlyChanges.age {ps : List Part} {s t : State} (h : OnlyChanges ps s t) (hp : .age ∉ ps) : t.age = s.age :=
  h.2.2 .age hp
theorem OnlyChanges.manifest {ps : List Part} {s t : State} (h : OnlyChanges ps s t) (hp : .manifest ∉ ps) : t.manifest = s.manifest :=
  h.2.2 .manifest hp
theorem OnlyChanges.survey {ps : List Part} {s t : State} (h : OnlyChanges ps s t) (hp : .survey ∉ ps) : t.survey = s.survey :=
  h.2.2 .survey hp

end Sys2Proof.Safety

namespace Sys2Proof.Machine

open Sys2Proof.Safety

theorem forEach_only {α : Type} {ps : List Part} {f : α → State → State} (h : ∀ a u, OnlyChanges ps u (f a u))
    (l : List α) (s : State) : OnlyChanges ps s (forEach l f s) := by
  induction l generalizing s with
  | nil => exact .refl _ _
  | cons a l ih => exact (h a s).trans (ih (f a s))

theorem foldl_only {α : Type} {ps : List Part} {f : α → State → State} (h : ∀ a u, OnlyChanges ps u (f a u))
    (l : List α) (s : State) : OnlyChanges ps s (l.foldl (fun u a => f a u) s) := forEach_only h l s

/-! ### Each row follows its table -/

theorem slot_congr {s t : State} (h : t.line = s.line) (k : Slot) : t.slot k = s.slot k := by unfold State.slot; rw [h]
theorem isLive_congr {s t : State} (h : t.line = s.line) (k : Slot) : t.isLive k = s.isLive k := by
  unfold State.isLive; rw [slot_congr h]
theorem col_congr {s t : State} (h : t.columns = s.columns) (c : Col) : t.col c = s.col c := by unfold State.col; rw [h]
theorem entry_congr {s t : State} (h : t.handoff = s.handoff) (i : RecIdx) : t.entry i = s.entry i := by
  unfold State.entry; rw [h]
theorem live_congr {s t : State} (h : t.handoff = s.handoff) (i : RecIdx) : t.live i = s.live i := by
  unfold State.live; rw [entry_congr h]
theorem handleAt_congr {s t : State} (h : t.handoff = s.handoff) (i : RecIdx) : t.handleAt i = s.handleAt i := by
  unfold State.handleAt; rw [entry_congr h]
theorem named_congr {s t : State} (h : t.handoff = s.handoff) (x : Handle) : t.named x = s.named x := by
  unfold State.named; rw [entry_congr h, live_congr h]
theorem lockOf_congr {s t : State} (h : t.lock = s.lock) (c : Col) : t.lockOf c = s.lockOf c := by
  unfold State.lockOf; rw [h]
theorem waitsOf_congr {s t : State} (h : t.lock = s.lock) (c : Col) : t.waitsOf c = s.waitsOf c := by
  unfold State.waitsOf; rw [h]
theorem mark_congr {s t : State} (h : t.lock = s.lock) (k : Slot) : t.mark k = s.mark k := by unfold State.mark; rw [h]
theorem surveyor_congr {s t : State} (h : t.survey = s.survey) (c : Col) : t.surveyor c = s.surveyor c := by
  unfold State.surveyor; rw [h]

/-! ### The setters of rows -/

theorem setSlot_only (k : Slot) (r : SlotRec) (s : State) : OnlyChanges [.line] s (s.setSlot k r) :=
  ⟨rfl, rfl, fun p h => by cases p <;> first | rfl | simp at h⟩
theorem setCol_only (c : Col) (r : Column) (s : State) : OnlyChanges [.columns] s (s.setCol c r) :=
  ⟨rfl, rfl, fun p h => by cases p <;> first | rfl | simp at h⟩
theorem setMark_only (k : Slot) (m : Option Col) (s : State) : OnlyChanges [.lock] s (s.setMark k m) :=
  ⟨rfl, rfl, fun p h => by cases p <;> first | rfl | simp at h⟩
theorem setWaitsOf_only (c : Col) (l : List WaitEntry) (s : State) : OnlyChanges [.lock] s (s.setWaitsOf c l) :=
  ⟨rfl, rfl, fun p h => by cases p <;> first | rfl | simp at h⟩
theorem setLockOf_only (c : Col) (l : Option Lock) (s : State) : OnlyChanges [.lock] s (s.setLockOf c l) :=
  ⟨rfl, rfl, fun p h => by cases p <;> first | rfl | simp at h⟩
theorem setSurveyor_only (c : Col) (k : Option Slot) (s : State) : OnlyChanges [.survey] s (s.setSurveyor c k) :=
  ⟨rfl, rfl, fun p h => by cases p <;> first | rfl | simp at h⟩
theorem setRec_only (i : RecIdx) (r : Record) (s : State) : OnlyChanges [.handoff] s (s.setRec i r) :=
  ⟨rfl, rfl, fun p h => by cases p <;> first | rfl | simp at h⟩

/-! ### Each operation -/

theorem setVerdict_only (y : Slot) (v : Option Verdict) (s : State) : OnlyChanges [.line] s (setVerdict y v s) :=
  ⟨rfl, rfl, fun p h => by cases p <;> first | rfl | simp at h⟩
@[simp] theorem setVerdict_pending (y : Slot) (v : Option Verdict) (s : State) : (setVerdict y v s).pending = s.pending := (setVerdict_only _ _ s).1
@[simp] theorem setVerdict_now (y : Slot) (v : Option Verdict) (s : State) : (setVerdict y v s).now = s.now := (setVerdict_only _ _ s).2.1
@[simp] theorem setVerdict_power (y : Slot) (v : Option Verdict) (s : State) : (setVerdict y v s).power = s.power :=
  (setVerdict_only _ _ s).power (by decide)
@[simp] theorem setVerdict_port (y : Slot) (v : Option Verdict) (s : State) : (setVerdict y v s).port = s.port :=
  (setVerdict_only _ _ s).port (by decide)
@[simp] theorem setVerdict_notice (y : Slot) (v : Option Verdict) (s : State) : (setVerdict y v s).notice = s.notice :=
  (setVerdict_only _ _ s).notice (by decide)
@[simp] theorem setVerdict_columns (y : Slot) (v : Option Verdict) (s : State) : (setVerdict y v s).columns = s.columns :=
  (setVerdict_only _ _ s).columns (by decide)
@[simp] theorem setVerdict_col (y : Slot) (v : Option Verdict) (c : Col) (s : State) : (setVerdict y v s).col c = s.col c :=
  col_congr (setVerdict_columns _ _ s) c
@[simp] theorem setVerdict_handoff (y : Slot) (v : Option Verdict) (s : State) : (setVerdict y v s).handoff = s.handoff :=
  (setVerdict_only _ _ s).handoff (by decide)
@[simp] theorem setVerdict_entry (y : Slot) (v : Option Verdict) (j : RecIdx) (s : State) : (setVerdict y v s).entry j = s.entry j :=
  entry_congr (setVerdict_handoff _ _ s) j
@[simp] theorem setVerdict_live (y : Slot) (v : Option Verdict) (j : RecIdx) (s : State) : (setVerdict y v s).live j = s.live j :=
  live_congr (setVerdict_handoff _ _ s) j
@[simp] theorem setVerdict_handleAt (y : Slot) (v : Option Verdict) (j : RecIdx) (s : State) : (setVerdict y v s).handleAt j = s.handleAt j :=
  handleAt_congr (setVerdict_handoff _ _ s) j
@[simp] theorem setVerdict_named (y : Slot) (v : Option Verdict) (h : Handle) (s : State) : (setVerdict y v s).named h = s.named h :=
  named_congr (setVerdict_handoff _ _ s) h
@[simp] theorem setVerdict_placement (y : Slot) (v : Option Verdict) (s : State) : (setVerdict y v s).placement = s.placement :=
  (setVerdict_only _ _ s).placement (by decide)
@[simp] theorem setVerdict_lock (y : Slot) (v : Option Verdict) (s : State) : (setVerdict y v s).lock = s.lock :=
  (setVerdict_only _ _ s).lock (by decide)
@[simp] theorem setVerdict_lockOf (y : Slot) (v : Option Verdict) (c : Col) (s : State) : (setVerdict y v s).lockOf c = s.lockOf c :=
  lockOf_congr (setVerdict_lock _ _ s) c
@[simp] theorem setVerdict_waitsOf (y : Slot) (v : Option Verdict) (c : Col) (s : State) : (setVerdict y v s).waitsOf c = s.waitsOf c :=
  waitsOf_congr (setVerdict_lock _ _ s) c
@[simp] theorem setVerdict_mark (y : Slot) (v : Option Verdict) (k : Slot) (s : State) : (setVerdict y v s).mark k = s.mark k :=
  mark_congr (setVerdict_lock _ _ s) k
@[simp] theorem setVerdict_age (y : Slot) (v : Option Verdict) (s : State) : (setVerdict y v s).age = s.age :=
  (setVerdict_only _ _ s).age (by decide)
@[simp] theorem setVerdict_manifest (y : Slot) (v : Option Verdict) (s : State) : (setVerdict y v s).manifest = s.manifest :=
  (setVerdict_only _ _ s).manifest (by decide)
@[simp] theorem setVerdict_survey (y : Slot) (v : Option Verdict) (s : State) : (setVerdict y v s).survey = s.survey :=
  (setVerdict_only _ _ s).survey (by decide)
@[simp] theorem setVerdict_surveyor (y : Slot) (v : Option Verdict) (c : Col) (s : State) : (setVerdict y v s).surveyor c = s.surveyor c :=
  surveyor_congr (setVerdict_survey _ _ s) c

theorem raise_only (n : NoticeKind) (s : State) : OnlyChanges [.notice] s (raise n s) :=
  ⟨rfl, rfl, fun p h => by cases p <;> first | rfl | simp at h⟩
@[simp] theorem raise_pending (n : NoticeKind) (s : State) : (raise n s).pending = s.pending := (raise_only _ s).1
@[simp] theorem raise_now (n : NoticeKind) (s : State) : (raise n s).now = s.now := (raise_only _ s).2.1
@[simp] theorem raise_power (n : NoticeKind) (s : State) : (raise n s).power = s.power :=
  (raise_only _ s).power (by decide)
@[simp] theorem raise_port (n : NoticeKind) (s : State) : (raise n s).port = s.port :=
  (raise_only _ s).port (by decide)
@[simp] theorem raise_line (n : NoticeKind) (s : State) : (raise n s).line = s.line :=
  (raise_only _ s).line (by decide)
@[simp] theorem raise_slot (n : NoticeKind) (k : Slot) (s : State) : (raise n s).slot k = s.slot k :=
  slot_congr (raise_line _ s) k
@[simp] theorem raise_isLive (n : NoticeKind) (k : Slot) (s : State) : (raise n s).isLive k = s.isLive k :=
  isLive_congr (raise_line _ s) k
@[simp] theorem raise_columns (n : NoticeKind) (s : State) : (raise n s).columns = s.columns :=
  (raise_only _ s).columns (by decide)
@[simp] theorem raise_col (n : NoticeKind) (c : Col) (s : State) : (raise n s).col c = s.col c :=
  col_congr (raise_columns _ s) c
@[simp] theorem raise_handoff (n : NoticeKind) (s : State) : (raise n s).handoff = s.handoff :=
  (raise_only _ s).handoff (by decide)
@[simp] theorem raise_entry (n : NoticeKind) (j : RecIdx) (s : State) : (raise n s).entry j = s.entry j :=
  entry_congr (raise_handoff _ s) j
@[simp] theorem raise_live (n : NoticeKind) (j : RecIdx) (s : State) : (raise n s).live j = s.live j :=
  live_congr (raise_handoff _ s) j
@[simp] theorem raise_handleAt (n : NoticeKind) (j : RecIdx) (s : State) : (raise n s).handleAt j = s.handleAt j :=
  handleAt_congr (raise_handoff _ s) j
@[simp] theorem raise_named (n : NoticeKind) (h : Handle) (s : State) : (raise n s).named h = s.named h :=
  named_congr (raise_handoff _ s) h
@[simp] theorem raise_placement (n : NoticeKind) (s : State) : (raise n s).placement = s.placement :=
  (raise_only _ s).placement (by decide)
@[simp] theorem raise_lock (n : NoticeKind) (s : State) : (raise n s).lock = s.lock :=
  (raise_only _ s).lock (by decide)
@[simp] theorem raise_lockOf (n : NoticeKind) (c : Col) (s : State) : (raise n s).lockOf c = s.lockOf c :=
  lockOf_congr (raise_lock _ s) c
@[simp] theorem raise_waitsOf (n : NoticeKind) (c : Col) (s : State) : (raise n s).waitsOf c = s.waitsOf c :=
  waitsOf_congr (raise_lock _ s) c
@[simp] theorem raise_mark (n : NoticeKind) (k : Slot) (s : State) : (raise n s).mark k = s.mark k :=
  mark_congr (raise_lock _ s) k
@[simp] theorem raise_age (n : NoticeKind) (s : State) : (raise n s).age = s.age :=
  (raise_only _ s).age (by decide)
@[simp] theorem raise_manifest (n : NoticeKind) (s : State) : (raise n s).manifest = s.manifest :=
  (raise_only _ s).manifest (by decide)
@[simp] theorem raise_survey (n : NoticeKind) (s : State) : (raise n s).survey = s.survey :=
  (raise_only _ s).survey (by decide)
@[simp] theorem raise_surveyor (n : NoticeKind) (c : Col) (s : State) : (raise n s).surveyor c = s.surveyor c :=
  surveyor_congr (raise_survey _ s) c

theorem raiseOverdue_only (x : Handle) (s : State) : OnlyChanges [.notice] s (raiseOverdue x s) :=
  ⟨rfl, rfl, fun p h => by cases p <;> first | rfl | simp at h⟩
@[simp] theorem raiseOverdue_pending (x : Handle) (s : State) : (raiseOverdue x s).pending = s.pending := (raiseOverdue_only _ s).1
@[simp] theorem raiseOverdue_now (x : Handle) (s : State) : (raiseOverdue x s).now = s.now := (raiseOverdue_only _ s).2.1
@[simp] theorem raiseOverdue_power (x : Handle) (s : State) : (raiseOverdue x s).power = s.power :=
  (raiseOverdue_only _ s).power (by decide)
@[simp] theorem raiseOverdue_port (x : Handle) (s : State) : (raiseOverdue x s).port = s.port :=
  (raiseOverdue_only _ s).port (by decide)
@[simp] theorem raiseOverdue_line (x : Handle) (s : State) : (raiseOverdue x s).line = s.line :=
  (raiseOverdue_only _ s).line (by decide)
@[simp] theorem raiseOverdue_slot (x : Handle) (k : Slot) (s : State) : (raiseOverdue x s).slot k = s.slot k :=
  slot_congr (raiseOverdue_line _ s) k
@[simp] theorem raiseOverdue_isLive (x : Handle) (k : Slot) (s : State) : (raiseOverdue x s).isLive k = s.isLive k :=
  isLive_congr (raiseOverdue_line _ s) k
@[simp] theorem raiseOverdue_columns (x : Handle) (s : State) : (raiseOverdue x s).columns = s.columns :=
  (raiseOverdue_only _ s).columns (by decide)
@[simp] theorem raiseOverdue_col (x : Handle) (c : Col) (s : State) : (raiseOverdue x s).col c = s.col c :=
  col_congr (raiseOverdue_columns _ s) c
@[simp] theorem raiseOverdue_handoff (x : Handle) (s : State) : (raiseOverdue x s).handoff = s.handoff :=
  (raiseOverdue_only _ s).handoff (by decide)
@[simp] theorem raiseOverdue_entry (x : Handle) (j : RecIdx) (s : State) : (raiseOverdue x s).entry j = s.entry j :=
  entry_congr (raiseOverdue_handoff _ s) j
@[simp] theorem raiseOverdue_live (x : Handle) (j : RecIdx) (s : State) : (raiseOverdue x s).live j = s.live j :=
  live_congr (raiseOverdue_handoff _ s) j
@[simp] theorem raiseOverdue_handleAt (x : Handle) (j : RecIdx) (s : State) : (raiseOverdue x s).handleAt j = s.handleAt j :=
  handleAt_congr (raiseOverdue_handoff _ s) j
@[simp] theorem raiseOverdue_named (x : Handle) (h : Handle) (s : State) : (raiseOverdue x s).named h = s.named h :=
  named_congr (raiseOverdue_handoff _ s) h
@[simp] theorem raiseOverdue_placement (x : Handle) (s : State) : (raiseOverdue x s).placement = s.placement :=
  (raiseOverdue_only _ s).placement (by decide)
@[simp] theorem raiseOverdue_lock (x : Handle) (s : State) : (raiseOverdue x s).lock = s.lock :=
  (raiseOverdue_only _ s).lock (by decide)
@[simp] theorem raiseOverdue_lockOf (x : Handle) (c : Col) (s : State) : (raiseOverdue x s).lockOf c = s.lockOf c :=
  lockOf_congr (raiseOverdue_lock _ s) c
@[simp] theorem raiseOverdue_waitsOf (x : Handle) (c : Col) (s : State) : (raiseOverdue x s).waitsOf c = s.waitsOf c :=
  waitsOf_congr (raiseOverdue_lock _ s) c
@[simp] theorem raiseOverdue_mark (x : Handle) (k : Slot) (s : State) : (raiseOverdue x s).mark k = s.mark k :=
  mark_congr (raiseOverdue_lock _ s) k
@[simp] theorem raiseOverdue_age (x : Handle) (s : State) : (raiseOverdue x s).age = s.age :=
  (raiseOverdue_only _ s).age (by decide)
@[simp] theorem raiseOverdue_manifest (x : Handle) (s : State) : (raiseOverdue x s).manifest = s.manifest :=
  (raiseOverdue_only _ s).manifest (by decide)
@[simp] theorem raiseOverdue_survey (x : Handle) (s : State) : (raiseOverdue x s).survey = s.survey :=
  (raiseOverdue_only _ s).survey (by decide)
@[simp] theorem raiseOverdue_surveyor (x : Handle) (c : Col) (s : State) : (raiseOverdue x s).surveyor c = s.surveyor c :=
  surveyor_congr (raiseOverdue_survey _ s) c

theorem raiseSpent_only (x : Handle) (s : State) : OnlyChanges [.notice] s (raiseSpent x s) :=
  ⟨rfl, rfl, fun p h => by cases p <;> first | rfl | simp at h⟩
@[simp] theorem raiseSpent_pending (x : Handle) (s : State) : (raiseSpent x s).pending = s.pending := (raiseSpent_only _ s).1
@[simp] theorem raiseSpent_now (x : Handle) (s : State) : (raiseSpent x s).now = s.now := (raiseSpent_only _ s).2.1
@[simp] theorem raiseSpent_power (x : Handle) (s : State) : (raiseSpent x s).power = s.power :=
  (raiseSpent_only _ s).power (by decide)
@[simp] theorem raiseSpent_port (x : Handle) (s : State) : (raiseSpent x s).port = s.port :=
  (raiseSpent_only _ s).port (by decide)
@[simp] theorem raiseSpent_line (x : Handle) (s : State) : (raiseSpent x s).line = s.line :=
  (raiseSpent_only _ s).line (by decide)
@[simp] theorem raiseSpent_slot (x : Handle) (k : Slot) (s : State) : (raiseSpent x s).slot k = s.slot k :=
  slot_congr (raiseSpent_line _ s) k
@[simp] theorem raiseSpent_isLive (x : Handle) (k : Slot) (s : State) : (raiseSpent x s).isLive k = s.isLive k :=
  isLive_congr (raiseSpent_line _ s) k
@[simp] theorem raiseSpent_columns (x : Handle) (s : State) : (raiseSpent x s).columns = s.columns :=
  (raiseSpent_only _ s).columns (by decide)
@[simp] theorem raiseSpent_col (x : Handle) (c : Col) (s : State) : (raiseSpent x s).col c = s.col c :=
  col_congr (raiseSpent_columns _ s) c
@[simp] theorem raiseSpent_handoff (x : Handle) (s : State) : (raiseSpent x s).handoff = s.handoff :=
  (raiseSpent_only _ s).handoff (by decide)
@[simp] theorem raiseSpent_entry (x : Handle) (j : RecIdx) (s : State) : (raiseSpent x s).entry j = s.entry j :=
  entry_congr (raiseSpent_handoff _ s) j
@[simp] theorem raiseSpent_live (x : Handle) (j : RecIdx) (s : State) : (raiseSpent x s).live j = s.live j :=
  live_congr (raiseSpent_handoff _ s) j
@[simp] theorem raiseSpent_handleAt (x : Handle) (j : RecIdx) (s : State) : (raiseSpent x s).handleAt j = s.handleAt j :=
  handleAt_congr (raiseSpent_handoff _ s) j
@[simp] theorem raiseSpent_named (x : Handle) (h : Handle) (s : State) : (raiseSpent x s).named h = s.named h :=
  named_congr (raiseSpent_handoff _ s) h
@[simp] theorem raiseSpent_placement (x : Handle) (s : State) : (raiseSpent x s).placement = s.placement :=
  (raiseSpent_only _ s).placement (by decide)
@[simp] theorem raiseSpent_lock (x : Handle) (s : State) : (raiseSpent x s).lock = s.lock :=
  (raiseSpent_only _ s).lock (by decide)
@[simp] theorem raiseSpent_lockOf (x : Handle) (c : Col) (s : State) : (raiseSpent x s).lockOf c = s.lockOf c :=
  lockOf_congr (raiseSpent_lock _ s) c
@[simp] theorem raiseSpent_waitsOf (x : Handle) (c : Col) (s : State) : (raiseSpent x s).waitsOf c = s.waitsOf c :=
  waitsOf_congr (raiseSpent_lock _ s) c
@[simp] theorem raiseSpent_mark (x : Handle) (k : Slot) (s : State) : (raiseSpent x s).mark k = s.mark k :=
  mark_congr (raiseSpent_lock _ s) k
@[simp] theorem raiseSpent_age (x : Handle) (s : State) : (raiseSpent x s).age = s.age :=
  (raiseSpent_only _ s).age (by decide)
@[simp] theorem raiseSpent_manifest (x : Handle) (s : State) : (raiseSpent x s).manifest = s.manifest :=
  (raiseSpent_only _ s).manifest (by decide)
@[simp] theorem raiseSpent_survey (x : Handle) (s : State) : (raiseSpent x s).survey = s.survey :=
  (raiseSpent_only _ s).survey (by decide)
@[simp] theorem raiseSpent_surveyor (x : Handle) (c : Col) (s : State) : (raiseSpent x s).surveyor c = s.surveyor c :=
  surveyor_congr (raiseSpent_survey _ s) c

theorem raiseBuried_only (x : Handle) (s : State) : OnlyChanges [.notice] s (raiseBuried x s) :=
  ⟨rfl, rfl, fun p h => by cases p <;> first | rfl | simp at h⟩
@[simp] theorem raiseBuried_pending (x : Handle) (s : State) : (raiseBuried x s).pending = s.pending := (raiseBuried_only _ s).1
@[simp] theorem raiseBuried_now (x : Handle) (s : State) : (raiseBuried x s).now = s.now := (raiseBuried_only _ s).2.1
@[simp] theorem raiseBuried_power (x : Handle) (s : State) : (raiseBuried x s).power = s.power :=
  (raiseBuried_only _ s).power (by decide)
@[simp] theorem raiseBuried_port (x : Handle) (s : State) : (raiseBuried x s).port = s.port :=
  (raiseBuried_only _ s).port (by decide)
@[simp] theorem raiseBuried_line (x : Handle) (s : State) : (raiseBuried x s).line = s.line :=
  (raiseBuried_only _ s).line (by decide)
@[simp] theorem raiseBuried_slot (x : Handle) (k : Slot) (s : State) : (raiseBuried x s).slot k = s.slot k :=
  slot_congr (raiseBuried_line _ s) k
@[simp] theorem raiseBuried_isLive (x : Handle) (k : Slot) (s : State) : (raiseBuried x s).isLive k = s.isLive k :=
  isLive_congr (raiseBuried_line _ s) k
@[simp] theorem raiseBuried_columns (x : Handle) (s : State) : (raiseBuried x s).columns = s.columns :=
  (raiseBuried_only _ s).columns (by decide)
@[simp] theorem raiseBuried_col (x : Handle) (c : Col) (s : State) : (raiseBuried x s).col c = s.col c :=
  col_congr (raiseBuried_columns _ s) c
@[simp] theorem raiseBuried_handoff (x : Handle) (s : State) : (raiseBuried x s).handoff = s.handoff :=
  (raiseBuried_only _ s).handoff (by decide)
@[simp] theorem raiseBuried_entry (x : Handle) (j : RecIdx) (s : State) : (raiseBuried x s).entry j = s.entry j :=
  entry_congr (raiseBuried_handoff _ s) j
@[simp] theorem raiseBuried_live (x : Handle) (j : RecIdx) (s : State) : (raiseBuried x s).live j = s.live j :=
  live_congr (raiseBuried_handoff _ s) j
@[simp] theorem raiseBuried_handleAt (x : Handle) (j : RecIdx) (s : State) : (raiseBuried x s).handleAt j = s.handleAt j :=
  handleAt_congr (raiseBuried_handoff _ s) j
@[simp] theorem raiseBuried_named (x : Handle) (h : Handle) (s : State) : (raiseBuried x s).named h = s.named h :=
  named_congr (raiseBuried_handoff _ s) h
@[simp] theorem raiseBuried_placement (x : Handle) (s : State) : (raiseBuried x s).placement = s.placement :=
  (raiseBuried_only _ s).placement (by decide)
@[simp] theorem raiseBuried_lock (x : Handle) (s : State) : (raiseBuried x s).lock = s.lock :=
  (raiseBuried_only _ s).lock (by decide)
@[simp] theorem raiseBuried_lockOf (x : Handle) (c : Col) (s : State) : (raiseBuried x s).lockOf c = s.lockOf c :=
  lockOf_congr (raiseBuried_lock _ s) c
@[simp] theorem raiseBuried_waitsOf (x : Handle) (c : Col) (s : State) : (raiseBuried x s).waitsOf c = s.waitsOf c :=
  waitsOf_congr (raiseBuried_lock _ s) c
@[simp] theorem raiseBuried_mark (x : Handle) (k : Slot) (s : State) : (raiseBuried x s).mark k = s.mark k :=
  mark_congr (raiseBuried_lock _ s) k
@[simp] theorem raiseBuried_age (x : Handle) (s : State) : (raiseBuried x s).age = s.age :=
  (raiseBuried_only _ s).age (by decide)
@[simp] theorem raiseBuried_manifest (x : Handle) (s : State) : (raiseBuried x s).manifest = s.manifest :=
  (raiseBuried_only _ s).manifest (by decide)
@[simp] theorem raiseBuried_survey (x : Handle) (s : State) : (raiseBuried x s).survey = s.survey :=
  (raiseBuried_only _ s).survey (by decide)
@[simp] theorem raiseBuried_surveyor (x : Handle) (c : Col) (s : State) : (raiseBuried x s).surveyor c = s.surveyor c :=
  surveyor_congr (raiseBuried_survey _ s) c

theorem raiseUnlisted_only (x : Handle) (s : State) : OnlyChanges [.notice] s (raiseUnlisted x s) :=
  ⟨rfl, rfl, fun p h => by cases p <;> first | rfl | simp at h⟩
@[simp] theorem raiseUnlisted_pending (x : Handle) (s : State) : (raiseUnlisted x s).pending = s.pending := (raiseUnlisted_only _ s).1
@[simp] theorem raiseUnlisted_now (x : Handle) (s : State) : (raiseUnlisted x s).now = s.now := (raiseUnlisted_only _ s).2.1
@[simp] theorem raiseUnlisted_power (x : Handle) (s : State) : (raiseUnlisted x s).power = s.power :=
  (raiseUnlisted_only _ s).power (by decide)
@[simp] theorem raiseUnlisted_port (x : Handle) (s : State) : (raiseUnlisted x s).port = s.port :=
  (raiseUnlisted_only _ s).port (by decide)
@[simp] theorem raiseUnlisted_line (x : Handle) (s : State) : (raiseUnlisted x s).line = s.line :=
  (raiseUnlisted_only _ s).line (by decide)
@[simp] theorem raiseUnlisted_slot (x : Handle) (k : Slot) (s : State) : (raiseUnlisted x s).slot k = s.slot k :=
  slot_congr (raiseUnlisted_line _ s) k
@[simp] theorem raiseUnlisted_isLive (x : Handle) (k : Slot) (s : State) : (raiseUnlisted x s).isLive k = s.isLive k :=
  isLive_congr (raiseUnlisted_line _ s) k
@[simp] theorem raiseUnlisted_columns (x : Handle) (s : State) : (raiseUnlisted x s).columns = s.columns :=
  (raiseUnlisted_only _ s).columns (by decide)
@[simp] theorem raiseUnlisted_col (x : Handle) (c : Col) (s : State) : (raiseUnlisted x s).col c = s.col c :=
  col_congr (raiseUnlisted_columns _ s) c
@[simp] theorem raiseUnlisted_handoff (x : Handle) (s : State) : (raiseUnlisted x s).handoff = s.handoff :=
  (raiseUnlisted_only _ s).handoff (by decide)
@[simp] theorem raiseUnlisted_entry (x : Handle) (j : RecIdx) (s : State) : (raiseUnlisted x s).entry j = s.entry j :=
  entry_congr (raiseUnlisted_handoff _ s) j
@[simp] theorem raiseUnlisted_live (x : Handle) (j : RecIdx) (s : State) : (raiseUnlisted x s).live j = s.live j :=
  live_congr (raiseUnlisted_handoff _ s) j
@[simp] theorem raiseUnlisted_handleAt (x : Handle) (j : RecIdx) (s : State) : (raiseUnlisted x s).handleAt j = s.handleAt j :=
  handleAt_congr (raiseUnlisted_handoff _ s) j
@[simp] theorem raiseUnlisted_named (x : Handle) (h : Handle) (s : State) : (raiseUnlisted x s).named h = s.named h :=
  named_congr (raiseUnlisted_handoff _ s) h
@[simp] theorem raiseUnlisted_placement (x : Handle) (s : State) : (raiseUnlisted x s).placement = s.placement :=
  (raiseUnlisted_only _ s).placement (by decide)
@[simp] theorem raiseUnlisted_lock (x : Handle) (s : State) : (raiseUnlisted x s).lock = s.lock :=
  (raiseUnlisted_only _ s).lock (by decide)
@[simp] theorem raiseUnlisted_lockOf (x : Handle) (c : Col) (s : State) : (raiseUnlisted x s).lockOf c = s.lockOf c :=
  lockOf_congr (raiseUnlisted_lock _ s) c
@[simp] theorem raiseUnlisted_waitsOf (x : Handle) (c : Col) (s : State) : (raiseUnlisted x s).waitsOf c = s.waitsOf c :=
  waitsOf_congr (raiseUnlisted_lock _ s) c
@[simp] theorem raiseUnlisted_mark (x : Handle) (k : Slot) (s : State) : (raiseUnlisted x s).mark k = s.mark k :=
  mark_congr (raiseUnlisted_lock _ s) k
@[simp] theorem raiseUnlisted_age (x : Handle) (s : State) : (raiseUnlisted x s).age = s.age :=
  (raiseUnlisted_only _ s).age (by decide)
@[simp] theorem raiseUnlisted_manifest (x : Handle) (s : State) : (raiseUnlisted x s).manifest = s.manifest :=
  (raiseUnlisted_only _ s).manifest (by decide)
@[simp] theorem raiseUnlisted_survey (x : Handle) (s : State) : (raiseUnlisted x s).survey = s.survey :=
  (raiseUnlisted_only _ s).survey (by decide)
@[simp] theorem raiseUnlisted_surveyor (x : Handle) (c : Col) (s : State) : (raiseUnlisted x s).surveyor c = s.surveyor c :=
  surveyor_congr (raiseUnlisted_survey _ s) c

theorem raiseBlockEnd_only (b : Block) (s : State) : OnlyChanges [.notice] s (raiseBlockEnd b s) :=
  ⟨rfl, rfl, fun p h => by cases p <;> first | rfl | simp at h⟩
@[simp] theorem raiseBlockEnd_pending (b : Block) (s : State) : (raiseBlockEnd b s).pending = s.pending := (raiseBlockEnd_only _ s).1
@[simp] theorem raiseBlockEnd_now (b : Block) (s : State) : (raiseBlockEnd b s).now = s.now := (raiseBlockEnd_only _ s).2.1
@[simp] theorem raiseBlockEnd_power (b : Block) (s : State) : (raiseBlockEnd b s).power = s.power :=
  (raiseBlockEnd_only _ s).power (by decide)
@[simp] theorem raiseBlockEnd_port (b : Block) (s : State) : (raiseBlockEnd b s).port = s.port :=
  (raiseBlockEnd_only _ s).port (by decide)
@[simp] theorem raiseBlockEnd_line (b : Block) (s : State) : (raiseBlockEnd b s).line = s.line :=
  (raiseBlockEnd_only _ s).line (by decide)
@[simp] theorem raiseBlockEnd_slot (b : Block) (k : Slot) (s : State) : (raiseBlockEnd b s).slot k = s.slot k :=
  slot_congr (raiseBlockEnd_line _ s) k
@[simp] theorem raiseBlockEnd_isLive (b : Block) (k : Slot) (s : State) : (raiseBlockEnd b s).isLive k = s.isLive k :=
  isLive_congr (raiseBlockEnd_line _ s) k
@[simp] theorem raiseBlockEnd_columns (b : Block) (s : State) : (raiseBlockEnd b s).columns = s.columns :=
  (raiseBlockEnd_only _ s).columns (by decide)
@[simp] theorem raiseBlockEnd_col (b : Block) (c : Col) (s : State) : (raiseBlockEnd b s).col c = s.col c :=
  col_congr (raiseBlockEnd_columns _ s) c
@[simp] theorem raiseBlockEnd_handoff (b : Block) (s : State) : (raiseBlockEnd b s).handoff = s.handoff :=
  (raiseBlockEnd_only _ s).handoff (by decide)
@[simp] theorem raiseBlockEnd_entry (b : Block) (j : RecIdx) (s : State) : (raiseBlockEnd b s).entry j = s.entry j :=
  entry_congr (raiseBlockEnd_handoff _ s) j
@[simp] theorem raiseBlockEnd_live (b : Block) (j : RecIdx) (s : State) : (raiseBlockEnd b s).live j = s.live j :=
  live_congr (raiseBlockEnd_handoff _ s) j
@[simp] theorem raiseBlockEnd_handleAt (b : Block) (j : RecIdx) (s : State) : (raiseBlockEnd b s).handleAt j = s.handleAt j :=
  handleAt_congr (raiseBlockEnd_handoff _ s) j
@[simp] theorem raiseBlockEnd_named (b : Block) (h : Handle) (s : State) : (raiseBlockEnd b s).named h = s.named h :=
  named_congr (raiseBlockEnd_handoff _ s) h
@[simp] theorem raiseBlockEnd_placement (b : Block) (s : State) : (raiseBlockEnd b s).placement = s.placement :=
  (raiseBlockEnd_only _ s).placement (by decide)
@[simp] theorem raiseBlockEnd_lock (b : Block) (s : State) : (raiseBlockEnd b s).lock = s.lock :=
  (raiseBlockEnd_only _ s).lock (by decide)
@[simp] theorem raiseBlockEnd_lockOf (b : Block) (c : Col) (s : State) : (raiseBlockEnd b s).lockOf c = s.lockOf c :=
  lockOf_congr (raiseBlockEnd_lock _ s) c
@[simp] theorem raiseBlockEnd_waitsOf (b : Block) (c : Col) (s : State) : (raiseBlockEnd b s).waitsOf c = s.waitsOf c :=
  waitsOf_congr (raiseBlockEnd_lock _ s) c
@[simp] theorem raiseBlockEnd_mark (b : Block) (k : Slot) (s : State) : (raiseBlockEnd b s).mark k = s.mark k :=
  mark_congr (raiseBlockEnd_lock _ s) k
@[simp] theorem raiseBlockEnd_age (b : Block) (s : State) : (raiseBlockEnd b s).age = s.age :=
  (raiseBlockEnd_only _ s).age (by decide)
@[simp] theorem raiseBlockEnd_manifest (b : Block) (s : State) : (raiseBlockEnd b s).manifest = s.manifest :=
  (raiseBlockEnd_only _ s).manifest (by decide)
@[simp] theorem raiseBlockEnd_survey (b : Block) (s : State) : (raiseBlockEnd b s).survey = s.survey :=
  (raiseBlockEnd_only _ s).survey (by decide)
@[simp] theorem raiseBlockEnd_surveyor (b : Block) (c : Col) (s : State) : (raiseBlockEnd b s).surveyor c = s.surveyor c :=
  surveyor_congr (raiseBlockEnd_survey _ s) c

theorem raiseFrameError_only (x : FrameKind) (s : State) : OnlyChanges [.notice] s (raiseFrameError x s) :=
  ⟨rfl, rfl, fun p h => by cases p <;> first | rfl | simp at h⟩
@[simp] theorem raiseFrameError_pending (x : FrameKind) (s : State) : (raiseFrameError x s).pending = s.pending := (raiseFrameError_only _ s).1
@[simp] theorem raiseFrameError_now (x : FrameKind) (s : State) : (raiseFrameError x s).now = s.now := (raiseFrameError_only _ s).2.1
@[simp] theorem raiseFrameError_power (x : FrameKind) (s : State) : (raiseFrameError x s).power = s.power :=
  (raiseFrameError_only _ s).power (by decide)
@[simp] theorem raiseFrameError_port (x : FrameKind) (s : State) : (raiseFrameError x s).port = s.port :=
  (raiseFrameError_only _ s).port (by decide)
@[simp] theorem raiseFrameError_line (x : FrameKind) (s : State) : (raiseFrameError x s).line = s.line :=
  (raiseFrameError_only _ s).line (by decide)
@[simp] theorem raiseFrameError_slot (x : FrameKind) (k : Slot) (s : State) : (raiseFrameError x s).slot k = s.slot k :=
  slot_congr (raiseFrameError_line _ s) k
@[simp] theorem raiseFrameError_isLive (x : FrameKind) (k : Slot) (s : State) : (raiseFrameError x s).isLive k = s.isLive k :=
  isLive_congr (raiseFrameError_line _ s) k
@[simp] theorem raiseFrameError_columns (x : FrameKind) (s : State) : (raiseFrameError x s).columns = s.columns :=
  (raiseFrameError_only _ s).columns (by decide)
@[simp] theorem raiseFrameError_col (x : FrameKind) (c : Col) (s : State) : (raiseFrameError x s).col c = s.col c :=
  col_congr (raiseFrameError_columns _ s) c
@[simp] theorem raiseFrameError_handoff (x : FrameKind) (s : State) : (raiseFrameError x s).handoff = s.handoff :=
  (raiseFrameError_only _ s).handoff (by decide)
@[simp] theorem raiseFrameError_entry (x : FrameKind) (j : RecIdx) (s : State) : (raiseFrameError x s).entry j = s.entry j :=
  entry_congr (raiseFrameError_handoff _ s) j
@[simp] theorem raiseFrameError_live (x : FrameKind) (j : RecIdx) (s : State) : (raiseFrameError x s).live j = s.live j :=
  live_congr (raiseFrameError_handoff _ s) j
@[simp] theorem raiseFrameError_handleAt (x : FrameKind) (j : RecIdx) (s : State) : (raiseFrameError x s).handleAt j = s.handleAt j :=
  handleAt_congr (raiseFrameError_handoff _ s) j
@[simp] theorem raiseFrameError_named (x : FrameKind) (h : Handle) (s : State) : (raiseFrameError x s).named h = s.named h :=
  named_congr (raiseFrameError_handoff _ s) h
@[simp] theorem raiseFrameError_placement (x : FrameKind) (s : State) : (raiseFrameError x s).placement = s.placement :=
  (raiseFrameError_only _ s).placement (by decide)
@[simp] theorem raiseFrameError_lock (x : FrameKind) (s : State) : (raiseFrameError x s).lock = s.lock :=
  (raiseFrameError_only _ s).lock (by decide)
@[simp] theorem raiseFrameError_lockOf (x : FrameKind) (c : Col) (s : State) : (raiseFrameError x s).lockOf c = s.lockOf c :=
  lockOf_congr (raiseFrameError_lock _ s) c
@[simp] theorem raiseFrameError_waitsOf (x : FrameKind) (c : Col) (s : State) : (raiseFrameError x s).waitsOf c = s.waitsOf c :=
  waitsOf_congr (raiseFrameError_lock _ s) c
@[simp] theorem raiseFrameError_mark (x : FrameKind) (k : Slot) (s : State) : (raiseFrameError x s).mark k = s.mark k :=
  mark_congr (raiseFrameError_lock _ s) k
@[simp] theorem raiseFrameError_age (x : FrameKind) (s : State) : (raiseFrameError x s).age = s.age :=
  (raiseFrameError_only _ s).age (by decide)
@[simp] theorem raiseFrameError_manifest (x : FrameKind) (s : State) : (raiseFrameError x s).manifest = s.manifest :=
  (raiseFrameError_only _ s).manifest (by decide)
@[simp] theorem raiseFrameError_survey (x : FrameKind) (s : State) : (raiseFrameError x s).survey = s.survey :=
  (raiseFrameError_only _ s).survey (by decide)
@[simp] theorem raiseFrameError_surveyor (x : FrameKind) (c : Col) (s : State) : (raiseFrameError x s).surveyor c = s.surveyor c :=
  surveyor_congr (raiseFrameError_survey _ s) c

theorem refreshBuried_only (i : RecIdx) (s : State) : OnlyChanges [.handoff, .notice] s (refreshBuried i s) := by
  unfold refreshBuried
  split
  · exact .refl _ _
  · split
    · exact ⟨rfl, rfl, fun p h => by cases p <;> first | rfl | simp at h⟩
    · exact ⟨rfl, rfl, fun p h => by cases p <;> first | rfl | simp at h⟩
@[simp] theorem refreshBuried_pending (i : RecIdx) (s : State) : (refreshBuried i s).pending = s.pending := (refreshBuried_only _ s).1
@[simp] theorem refreshBuried_now (i : RecIdx) (s : State) : (refreshBuried i s).now = s.now := (refreshBuried_only _ s).2.1
@[simp] theorem refreshBuried_power (i : RecIdx) (s : State) : (refreshBuried i s).power = s.power :=
  (refreshBuried_only _ s).power (by decide)
@[simp] theorem refreshBuried_port (i : RecIdx) (s : State) : (refreshBuried i s).port = s.port :=
  (refreshBuried_only _ s).port (by decide)
@[simp] theorem refreshBuried_line (i : RecIdx) (s : State) : (refreshBuried i s).line = s.line :=
  (refreshBuried_only _ s).line (by decide)
@[simp] theorem refreshBuried_slot (i : RecIdx) (k : Slot) (s : State) : (refreshBuried i s).slot k = s.slot k :=
  slot_congr (refreshBuried_line _ s) k
@[simp] theorem refreshBuried_isLive (i : RecIdx) (k : Slot) (s : State) : (refreshBuried i s).isLive k = s.isLive k :=
  isLive_congr (refreshBuried_line _ s) k
@[simp] theorem refreshBuried_columns (i : RecIdx) (s : State) : (refreshBuried i s).columns = s.columns :=
  (refreshBuried_only _ s).columns (by decide)
@[simp] theorem refreshBuried_col (i : RecIdx) (c : Col) (s : State) : (refreshBuried i s).col c = s.col c :=
  col_congr (refreshBuried_columns _ s) c
@[simp] theorem refreshBuried_placement (i : RecIdx) (s : State) : (refreshBuried i s).placement = s.placement :=
  (refreshBuried_only _ s).placement (by decide)
@[simp] theorem refreshBuried_lock (i : RecIdx) (s : State) : (refreshBuried i s).lock = s.lock :=
  (refreshBuried_only _ s).lock (by decide)
@[simp] theorem refreshBuried_lockOf (i : RecIdx) (c : Col) (s : State) : (refreshBuried i s).lockOf c = s.lockOf c :=
  lockOf_congr (refreshBuried_lock _ s) c
@[simp] theorem refreshBuried_waitsOf (i : RecIdx) (c : Col) (s : State) : (refreshBuried i s).waitsOf c = s.waitsOf c :=
  waitsOf_congr (refreshBuried_lock _ s) c
@[simp] theorem refreshBuried_mark (i : RecIdx) (k : Slot) (s : State) : (refreshBuried i s).mark k = s.mark k :=
  mark_congr (refreshBuried_lock _ s) k
@[simp] theorem refreshBuried_age (i : RecIdx) (s : State) : (refreshBuried i s).age = s.age :=
  (refreshBuried_only _ s).age (by decide)
@[simp] theorem refreshBuried_manifest (i : RecIdx) (s : State) : (refreshBuried i s).manifest = s.manifest :=
  (refreshBuried_only _ s).manifest (by decide)
@[simp] theorem refreshBuried_survey (i : RecIdx) (s : State) : (refreshBuried i s).survey = s.survey :=
  (refreshBuried_only _ s).survey (by decide)
@[simp] theorem refreshBuried_surveyor (i : RecIdx) (c : Col) (s : State) : (refreshBuried i s).surveyor c = s.surveyor c :=
  surveyor_congr (refreshBuried_survey _ s) c

theorem refreshStack_only (d : Col) (s : State) : OnlyChanges [.handoff, .notice] s (refreshStack d s) :=
  foldl_only (f := fun (x : Handle) u => refreshBuried x.idx u) (fun x u => refreshBuried_only x.idx u) _ s
@[simp] theorem refreshStack_pending (d : Col) (s : State) : (refreshStack d s).pending = s.pending := (refreshStack_only _ s).1
@[simp] theorem refreshStack_now (d : Col) (s : State) : (refreshStack d s).now = s.now := (refreshStack_only _ s).2.1
@[simp] theorem refreshStack_power (d : Col) (s : State) : (refreshStack d s).power = s.power :=
  (refreshStack_only _ s).power (by decide)
@[simp] theorem refreshStack_port (d : Col) (s : State) : (refreshStack d s).port = s.port :=
  (refreshStack_only _ s).port (by decide)
@[simp] theorem refreshStack_line (d : Col) (s : State) : (refreshStack d s).line = s.line :=
  (refreshStack_only _ s).line (by decide)
@[simp] theorem refreshStack_slot (d : Col) (k : Slot) (s : State) : (refreshStack d s).slot k = s.slot k :=
  slot_congr (refreshStack_line _ s) k
@[simp] theorem refreshStack_isLive (d : Col) (k : Slot) (s : State) : (refreshStack d s).isLive k = s.isLive k :=
  isLive_congr (refreshStack_line _ s) k
@[simp] theorem refreshStack_columns (d : Col) (s : State) : (refreshStack d s).columns = s.columns :=
  (refreshStack_only _ s).columns (by decide)
@[simp] theorem refreshStack_col (d : Col) (c : Col) (s : State) : (refreshStack d s).col c = s.col c :=
  col_congr (refreshStack_columns _ s) c
@[simp] theorem refreshStack_placement (d : Col) (s : State) : (refreshStack d s).placement = s.placement :=
  (refreshStack_only _ s).placement (by decide)
@[simp] theorem refreshStack_lock (d : Col) (s : State) : (refreshStack d s).lock = s.lock :=
  (refreshStack_only _ s).lock (by decide)
@[simp] theorem refreshStack_lockOf (d : Col) (c : Col) (s : State) : (refreshStack d s).lockOf c = s.lockOf c :=
  lockOf_congr (refreshStack_lock _ s) c
@[simp] theorem refreshStack_waitsOf (d : Col) (c : Col) (s : State) : (refreshStack d s).waitsOf c = s.waitsOf c :=
  waitsOf_congr (refreshStack_lock _ s) c
@[simp] theorem refreshStack_mark (d : Col) (k : Slot) (s : State) : (refreshStack d s).mark k = s.mark k :=
  mark_congr (refreshStack_lock _ s) k
@[simp] theorem refreshStack_age (d : Col) (s : State) : (refreshStack d s).age = s.age :=
  (refreshStack_only _ s).age (by decide)
@[simp] theorem refreshStack_manifest (d : Col) (s : State) : (refreshStack d s).manifest = s.manifest :=
  (refreshStack_only _ s).manifest (by decide)
@[simp] theorem refreshStack_survey (d : Col) (s : State) : (refreshStack d s).survey = s.survey :=
  (refreshStack_only _ s).survey (by decide)
@[simp] theorem refreshStack_surveyor (d : Col) (c : Col) (s : State) : (refreshStack d s).surveyor c = s.surveyor c :=
  surveyor_congr (refreshStack_survey _ s) c

theorem consume_only (t : Tag) (s : State) : OnlyChanges [.manifest] s (consume t s) := by
  unfold consume
  split
  · split
    · exact .refl _ _
    · exact ⟨rfl, rfl, fun p h => by cases p <;> first | rfl | simp at h⟩
  · exact .refl _ _
@[simp] theorem consume_pending (t : Tag) (s : State) : (consume t s).pending = s.pending := (consume_only _ s).1
@[simp] theorem consume_now (t : Tag) (s : State) : (consume t s).now = s.now := (consume_only _ s).2.1
@[simp] theorem consume_power (t : Tag) (s : State) : (consume t s).power = s.power :=
  (consume_only _ s).power (by decide)
@[simp] theorem consume_port (t : Tag) (s : State) : (consume t s).port = s.port :=
  (consume_only _ s).port (by decide)
@[simp] theorem consume_notice (t : Tag) (s : State) : (consume t s).notice = s.notice :=
  (consume_only _ s).notice (by decide)
@[simp] theorem consume_line (t : Tag) (s : State) : (consume t s).line = s.line :=
  (consume_only _ s).line (by decide)
@[simp] theorem consume_slot (t : Tag) (k : Slot) (s : State) : (consume t s).slot k = s.slot k :=
  slot_congr (consume_line _ s) k
@[simp] theorem consume_isLive (t : Tag) (k : Slot) (s : State) : (consume t s).isLive k = s.isLive k :=
  isLive_congr (consume_line _ s) k
@[simp] theorem consume_columns (t : Tag) (s : State) : (consume t s).columns = s.columns :=
  (consume_only _ s).columns (by decide)
@[simp] theorem consume_col (t : Tag) (c : Col) (s : State) : (consume t s).col c = s.col c :=
  col_congr (consume_columns _ s) c
@[simp] theorem consume_handoff (t : Tag) (s : State) : (consume t s).handoff = s.handoff :=
  (consume_only _ s).handoff (by decide)
@[simp] theorem consume_entry (t : Tag) (j : RecIdx) (s : State) : (consume t s).entry j = s.entry j :=
  entry_congr (consume_handoff _ s) j
@[simp] theorem consume_live (t : Tag) (j : RecIdx) (s : State) : (consume t s).live j = s.live j :=
  live_congr (consume_handoff _ s) j
@[simp] theorem consume_handleAt (t : Tag) (j : RecIdx) (s : State) : (consume t s).handleAt j = s.handleAt j :=
  handleAt_congr (consume_handoff _ s) j
@[simp] theorem consume_named (t : Tag) (h : Handle) (s : State) : (consume t s).named h = s.named h :=
  named_congr (consume_handoff _ s) h
@[simp] theorem consume_placement (t : Tag) (s : State) : (consume t s).placement = s.placement :=
  (consume_only _ s).placement (by decide)
@[simp] theorem consume_lock (t : Tag) (s : State) : (consume t s).lock = s.lock :=
  (consume_only _ s).lock (by decide)
@[simp] theorem consume_lockOf (t : Tag) (c : Col) (s : State) : (consume t s).lockOf c = s.lockOf c :=
  lockOf_congr (consume_lock _ s) c
@[simp] theorem consume_waitsOf (t : Tag) (c : Col) (s : State) : (consume t s).waitsOf c = s.waitsOf c :=
  waitsOf_congr (consume_lock _ s) c
@[simp] theorem consume_mark (t : Tag) (k : Slot) (s : State) : (consume t s).mark k = s.mark k :=
  mark_congr (consume_lock _ s) k
@[simp] theorem consume_age (t : Tag) (s : State) : (consume t s).age = s.age :=
  (consume_only _ s).age (by decide)
@[simp] theorem consume_survey (t : Tag) (s : State) : (consume t s).survey = s.survey :=
  (consume_only _ s).survey (by decide)
@[simp] theorem consume_surveyor (t : Tag) (c : Col) (s : State) : (consume t s).surveyor c = s.surveyor c :=
  surveyor_congr (consume_survey _ s) c

theorem updRec_only (i : RecIdx) (f : Record → Record) (s : State) : OnlyChanges [.handoff] s (updRec i f s) := by
  unfold updRec
  split
  · exact ⟨rfl, rfl, fun p h => by cases p <;> first | rfl | simp at h⟩
  · exact .refl _ _
@[simp] theorem updRec_pending (i : RecIdx) (f : Record → Record) (s : State) : (updRec i f s).pending = s.pending := (updRec_only _ _ s).1
@[simp] theorem updRec_now (i : RecIdx) (f : Record → Record) (s : State) : (updRec i f s).now = s.now := (updRec_only _ _ s).2.1
@[simp] theorem updRec_power (i : RecIdx) (f : Record → Record) (s : State) : (updRec i f s).power = s.power :=
  (updRec_only _ _ s).power (by decide)
@[simp] theorem updRec_port (i : RecIdx) (f : Record → Record) (s : State) : (updRec i f s).port = s.port :=
  (updRec_only _ _ s).port (by decide)
@[simp] theorem updRec_notice (i : RecIdx) (f : Record → Record) (s : State) : (updRec i f s).notice = s.notice :=
  (updRec_only _ _ s).notice (by decide)
@[simp] theorem updRec_line (i : RecIdx) (f : Record → Record) (s : State) : (updRec i f s).line = s.line :=
  (updRec_only _ _ s).line (by decide)
@[simp] theorem updRec_slot (i : RecIdx) (f : Record → Record) (k : Slot) (s : State) : (updRec i f s).slot k = s.slot k :=
  slot_congr (updRec_line _ _ s) k
@[simp] theorem updRec_isLive (i : RecIdx) (f : Record → Record) (k : Slot) (s : State) : (updRec i f s).isLive k = s.isLive k :=
  isLive_congr (updRec_line _ _ s) k
@[simp] theorem updRec_columns (i : RecIdx) (f : Record → Record) (s : State) : (updRec i f s).columns = s.columns :=
  (updRec_only _ _ s).columns (by decide)
@[simp] theorem updRec_col (i : RecIdx) (f : Record → Record) (c : Col) (s : State) : (updRec i f s).col c = s.col c :=
  col_congr (updRec_columns _ _ s) c
@[simp] theorem updRec_placement (i : RecIdx) (f : Record → Record) (s : State) : (updRec i f s).placement = s.placement :=
  (updRec_only _ _ s).placement (by decide)
@[simp] theorem updRec_lock (i : RecIdx) (f : Record → Record) (s : State) : (updRec i f s).lock = s.lock :=
  (updRec_only _ _ s).lock (by decide)
@[simp] theorem updRec_lockOf (i : RecIdx) (f : Record → Record) (c : Col) (s : State) : (updRec i f s).lockOf c = s.lockOf c :=
  lockOf_congr (updRec_lock _ _ s) c
@[simp] theorem updRec_waitsOf (i : RecIdx) (f : Record → Record) (c : Col) (s : State) : (updRec i f s).waitsOf c = s.waitsOf c :=
  waitsOf_congr (updRec_lock _ _ s) c
@[simp] theorem updRec_mark (i : RecIdx) (f : Record → Record) (k : Slot) (s : State) : (updRec i f s).mark k = s.mark k :=
  mark_congr (updRec_lock _ _ s) k
@[simp] theorem updRec_age (i : RecIdx) (f : Record → Record) (s : State) : (updRec i f s).age = s.age :=
  (updRec_only _ _ s).age (by decide)
@[simp] theorem updRec_manifest (i : RecIdx) (f : Record → Record) (s : State) : (updRec i f s).manifest = s.manifest :=
  (updRec_only _ _ s).manifest (by decide)
@[simp] theorem updRec_survey (i : RecIdx) (f : Record → Record) (s : State) : (updRec i f s).survey = s.survey :=
  (updRec_only _ _ s).survey (by decide)
@[simp] theorem updRec_surveyor (i : RecIdx) (f : Record → Record) (c : Col) (s : State) : (updRec i f s).surveyor c = s.surveyor c :=
  surveyor_congr (updRec_survey _ _ s) c

theorem parkRecord_only (i : RecIdx) (s : State) : OnlyChanges [.handoff] s (parkRecord i s) := updRec_only i _ s
@[simp] theorem parkRecord_pending (i : RecIdx) (s : State) : (parkRecord i s).pending = s.pending := (parkRecord_only _ s).1
@[simp] theorem parkRecord_now (i : RecIdx) (s : State) : (parkRecord i s).now = s.now := (parkRecord_only _ s).2.1
@[simp] theorem parkRecord_power (i : RecIdx) (s : State) : (parkRecord i s).power = s.power :=
  (parkRecord_only _ s).power (by decide)
@[simp] theorem parkRecord_port (i : RecIdx) (s : State) : (parkRecord i s).port = s.port :=
  (parkRecord_only _ s).port (by decide)
@[simp] theorem parkRecord_notice (i : RecIdx) (s : State) : (parkRecord i s).notice = s.notice :=
  (parkRecord_only _ s).notice (by decide)
@[simp] theorem parkRecord_line (i : RecIdx) (s : State) : (parkRecord i s).line = s.line :=
  (parkRecord_only _ s).line (by decide)
@[simp] theorem parkRecord_slot (i : RecIdx) (k : Slot) (s : State) : (parkRecord i s).slot k = s.slot k :=
  slot_congr (parkRecord_line _ s) k
@[simp] theorem parkRecord_isLive (i : RecIdx) (k : Slot) (s : State) : (parkRecord i s).isLive k = s.isLive k :=
  isLive_congr (parkRecord_line _ s) k
@[simp] theorem parkRecord_columns (i : RecIdx) (s : State) : (parkRecord i s).columns = s.columns :=
  (parkRecord_only _ s).columns (by decide)
@[simp] theorem parkRecord_col (i : RecIdx) (c : Col) (s : State) : (parkRecord i s).col c = s.col c :=
  col_congr (parkRecord_columns _ s) c
@[simp] theorem parkRecord_placement (i : RecIdx) (s : State) : (parkRecord i s).placement = s.placement :=
  (parkRecord_only _ s).placement (by decide)
@[simp] theorem parkRecord_lock (i : RecIdx) (s : State) : (parkRecord i s).lock = s.lock :=
  (parkRecord_only _ s).lock (by decide)
@[simp] theorem parkRecord_lockOf (i : RecIdx) (c : Col) (s : State) : (parkRecord i s).lockOf c = s.lockOf c :=
  lockOf_congr (parkRecord_lock _ s) c
@[simp] theorem parkRecord_waitsOf (i : RecIdx) (c : Col) (s : State) : (parkRecord i s).waitsOf c = s.waitsOf c :=
  waitsOf_congr (parkRecord_lock _ s) c
@[simp] theorem parkRecord_mark (i : RecIdx) (k : Slot) (s : State) : (parkRecord i s).mark k = s.mark k :=
  mark_congr (parkRecord_lock _ s) k
@[simp] theorem parkRecord_age (i : RecIdx) (s : State) : (parkRecord i s).age = s.age :=
  (parkRecord_only _ s).age (by decide)
@[simp] theorem parkRecord_manifest (i : RecIdx) (s : State) : (parkRecord i s).manifest = s.manifest :=
  (parkRecord_only _ s).manifest (by decide)
@[simp] theorem parkRecord_survey (i : RecIdx) (s : State) : (parkRecord i s).survey = s.survey :=
  (parkRecord_only _ s).survey (by decide)
@[simp] theorem parkRecord_surveyor (i : RecIdx) (c : Col) (s : State) : (parkRecord i s).surveyor c = s.surveyor c :=
  surveyor_congr (parkRecord_survey _ s) c

theorem reserveRecord_only (i : RecIdx) (s : State) : OnlyChanges [.handoff] s (reserveRecord i s) := updRec_only i _ s
@[simp] theorem reserveRecord_pending (i : RecIdx) (s : State) : (reserveRecord i s).pending = s.pending := (reserveRecord_only _ s).1
@[simp] theorem reserveRecord_now (i : RecIdx) (s : State) : (reserveRecord i s).now = s.now := (reserveRecord_only _ s).2.1
@[simp] theorem reserveRecord_power (i : RecIdx) (s : State) : (reserveRecord i s).power = s.power :=
  (reserveRecord_only _ s).power (by decide)
@[simp] theorem reserveRecord_port (i : RecIdx) (s : State) : (reserveRecord i s).port = s.port :=
  (reserveRecord_only _ s).port (by decide)
@[simp] theorem reserveRecord_notice (i : RecIdx) (s : State) : (reserveRecord i s).notice = s.notice :=
  (reserveRecord_only _ s).notice (by decide)
@[simp] theorem reserveRecord_line (i : RecIdx) (s : State) : (reserveRecord i s).line = s.line :=
  (reserveRecord_only _ s).line (by decide)
@[simp] theorem reserveRecord_slot (i : RecIdx) (k : Slot) (s : State) : (reserveRecord i s).slot k = s.slot k :=
  slot_congr (reserveRecord_line _ s) k
@[simp] theorem reserveRecord_isLive (i : RecIdx) (k : Slot) (s : State) : (reserveRecord i s).isLive k = s.isLive k :=
  isLive_congr (reserveRecord_line _ s) k
@[simp] theorem reserveRecord_columns (i : RecIdx) (s : State) : (reserveRecord i s).columns = s.columns :=
  (reserveRecord_only _ s).columns (by decide)
@[simp] theorem reserveRecord_col (i : RecIdx) (c : Col) (s : State) : (reserveRecord i s).col c = s.col c :=
  col_congr (reserveRecord_columns _ s) c
@[simp] theorem reserveRecord_placement (i : RecIdx) (s : State) : (reserveRecord i s).placement = s.placement :=
  (reserveRecord_only _ s).placement (by decide)
@[simp] theorem reserveRecord_lock (i : RecIdx) (s : State) : (reserveRecord i s).lock = s.lock :=
  (reserveRecord_only _ s).lock (by decide)
@[simp] theorem reserveRecord_lockOf (i : RecIdx) (c : Col) (s : State) : (reserveRecord i s).lockOf c = s.lockOf c :=
  lockOf_congr (reserveRecord_lock _ s) c
@[simp] theorem reserveRecord_waitsOf (i : RecIdx) (c : Col) (s : State) : (reserveRecord i s).waitsOf c = s.waitsOf c :=
  waitsOf_congr (reserveRecord_lock _ s) c
@[simp] theorem reserveRecord_mark (i : RecIdx) (k : Slot) (s : State) : (reserveRecord i s).mark k = s.mark k :=
  mark_congr (reserveRecord_lock _ s) k
@[simp] theorem reserveRecord_age (i : RecIdx) (s : State) : (reserveRecord i s).age = s.age :=
  (reserveRecord_only _ s).age (by decide)
@[simp] theorem reserveRecord_manifest (i : RecIdx) (s : State) : (reserveRecord i s).manifest = s.manifest :=
  (reserveRecord_only _ s).manifest (by decide)
@[simp] theorem reserveRecord_survey (i : RecIdx) (s : State) : (reserveRecord i s).survey = s.survey :=
  (reserveRecord_only _ s).survey (by decide)
@[simp] theorem reserveRecord_surveyor (i : RecIdx) (c : Col) (s : State) : (reserveRecord i s).surveyor c = s.surveyor c :=
  surveyor_congr (reserveRecord_survey _ s) c

theorem promiseRecord_only (i : RecIdx) (x : Slot) (s : State) : OnlyChanges [.handoff, .notice] s (promiseRecord i x s) :=
  ((updRec_only i _ s).mono (by decide)).trans (refreshBuried_only i _)
@[simp] theorem promiseRecord_pending (i : RecIdx) (x : Slot) (s : State) : (promiseRecord i x s).pending = s.pending := (promiseRecord_only _ _ s).1
@[simp] theorem promiseRecord_now (i : RecIdx) (x : Slot) (s : State) : (promiseRecord i x s).now = s.now := (promiseRecord_only _ _ s).2.1
@[simp] theorem promiseRecord_power (i : RecIdx) (x : Slot) (s : State) : (promiseRecord i x s).power = s.power :=
  (promiseRecord_only _ _ s).power (by decide)
@[simp] theorem promiseRecord_port (i : RecIdx) (x : Slot) (s : State) : (promiseRecord i x s).port = s.port :=
  (promiseRecord_only _ _ s).port (by decide)
@[simp] theorem promiseRecord_line (i : RecIdx) (x : Slot) (s : State) : (promiseRecord i x s).line = s.line :=
  (promiseRecord_only _ _ s).line (by decide)
@[simp] theorem promiseRecord_slot (i : RecIdx) (x : Slot) (k : Slot) (s : State) : (promiseRecord i x s).slot k = s.slot k :=
  slot_congr (promiseRecord_line _ _ s) k
@[simp] theorem promiseRecord_isLive (i : RecIdx) (x : Slot) (k : Slot) (s : State) : (promiseRecord i x s).isLive k = s.isLive k :=
  isLive_congr (promiseRecord_line _ _ s) k
@[simp] theorem promiseRecord_columns (i : RecIdx) (x : Slot) (s : State) : (promiseRecord i x s).columns = s.columns :=
  (promiseRecord_only _ _ s).columns (by decide)
@[simp] theorem promiseRecord_col (i : RecIdx) (x : Slot) (c : Col) (s : State) : (promiseRecord i x s).col c = s.col c :=
  col_congr (promiseRecord_columns _ _ s) c
@[simp] theorem promiseRecord_placement (i : RecIdx) (x : Slot) (s : State) : (promiseRecord i x s).placement = s.placement :=
  (promiseRecord_only _ _ s).placement (by decide)
@[simp] theorem promiseRecord_lock (i : RecIdx) (x : Slot) (s : State) : (promiseRecord i x s).lock = s.lock :=
  (promiseRecord_only _ _ s).lock (by decide)
@[simp] theorem promiseRecord_lockOf (i : RecIdx) (x : Slot) (c : Col) (s : State) : (promiseRecord i x s).lockOf c = s.lockOf c :=
  lockOf_congr (promiseRecord_lock _ _ s) c
@[simp] theorem promiseRecord_waitsOf (i : RecIdx) (x : Slot) (c : Col) (s : State) : (promiseRecord i x s).waitsOf c = s.waitsOf c :=
  waitsOf_congr (promiseRecord_lock _ _ s) c
@[simp] theorem promiseRecord_mark (i : RecIdx) (x : Slot) (k : Slot) (s : State) : (promiseRecord i x s).mark k = s.mark k :=
  mark_congr (promiseRecord_lock _ _ s) k
@[simp] theorem promiseRecord_age (i : RecIdx) (x : Slot) (s : State) : (promiseRecord i x s).age = s.age :=
  (promiseRecord_only _ _ s).age (by decide)
@[simp] theorem promiseRecord_manifest (i : RecIdx) (x : Slot) (s : State) : (promiseRecord i x s).manifest = s.manifest :=
  (promiseRecord_only _ _ s).manifest (by decide)
@[simp] theorem promiseRecord_survey (i : RecIdx) (x : Slot) (s : State) : (promiseRecord i x s).survey = s.survey :=
  (promiseRecord_only _ _ s).survey (by decide)
@[simp] theorem promiseRecord_surveyor (i : RecIdx) (x : Slot) (c : Col) (s : State) : (promiseRecord i x s).surveyor c = s.surveyor c :=
  surveyor_congr (promiseRecord_survey _ _ s) c

theorem pushRecord_only (i : RecIdx) (d : Col) (s : State) : OnlyChanges [.columns, .handoff] s (pushRecord i d s) :=
  ((updRec_only i _ s).mono (by decide)).trans
    ⟨rfl, rfl, fun p h => by cases p <;> first | rfl | simp at h⟩
@[simp] theorem pushRecord_pending (i : RecIdx) (d : Col) (s : State) : (pushRecord i d s).pending = s.pending := (pushRecord_only _ _ s).1
@[simp] theorem pushRecord_now (i : RecIdx) (d : Col) (s : State) : (pushRecord i d s).now = s.now := (pushRecord_only _ _ s).2.1
@[simp] theorem pushRecord_power (i : RecIdx) (d : Col) (s : State) : (pushRecord i d s).power = s.power :=
  (pushRecord_only _ _ s).power (by decide)
@[simp] theorem pushRecord_port (i : RecIdx) (d : Col) (s : State) : (pushRecord i d s).port = s.port :=
  (pushRecord_only _ _ s).port (by decide)
@[simp] theorem pushRecord_notice (i : RecIdx) (d : Col) (s : State) : (pushRecord i d s).notice = s.notice :=
  (pushRecord_only _ _ s).notice (by decide)
@[simp] theorem pushRecord_line (i : RecIdx) (d : Col) (s : State) : (pushRecord i d s).line = s.line :=
  (pushRecord_only _ _ s).line (by decide)
@[simp] theorem pushRecord_slot (i : RecIdx) (d : Col) (k : Slot) (s : State) : (pushRecord i d s).slot k = s.slot k :=
  slot_congr (pushRecord_line _ _ s) k
@[simp] theorem pushRecord_isLive (i : RecIdx) (d : Col) (k : Slot) (s : State) : (pushRecord i d s).isLive k = s.isLive k :=
  isLive_congr (pushRecord_line _ _ s) k
@[simp] theorem pushRecord_placement (i : RecIdx) (d : Col) (s : State) : (pushRecord i d s).placement = s.placement :=
  (pushRecord_only _ _ s).placement (by decide)
@[simp] theorem pushRecord_lock (i : RecIdx) (d : Col) (s : State) : (pushRecord i d s).lock = s.lock :=
  (pushRecord_only _ _ s).lock (by decide)
@[simp] theorem pushRecord_lockOf (i : RecIdx) (d : Col) (c : Col) (s : State) : (pushRecord i d s).lockOf c = s.lockOf c :=
  lockOf_congr (pushRecord_lock _ _ s) c
@[simp] theorem pushRecord_waitsOf (i : RecIdx) (d : Col) (c : Col) (s : State) : (pushRecord i d s).waitsOf c = s.waitsOf c :=
  waitsOf_congr (pushRecord_lock _ _ s) c
@[simp] theorem pushRecord_mark (i : RecIdx) (d : Col) (k : Slot) (s : State) : (pushRecord i d s).mark k = s.mark k :=
  mark_congr (pushRecord_lock _ _ s) k
@[simp] theorem pushRecord_age (i : RecIdx) (d : Col) (s : State) : (pushRecord i d s).age = s.age :=
  (pushRecord_only _ _ s).age (by decide)
@[simp] theorem pushRecord_manifest (i : RecIdx) (d : Col) (s : State) : (pushRecord i d s).manifest = s.manifest :=
  (pushRecord_only _ _ s).manifest (by decide)
@[simp] theorem pushRecord_survey (i : RecIdx) (d : Col) (s : State) : (pushRecord i d s).survey = s.survey :=
  (pushRecord_only _ _ s).survey (by decide)
@[simp] theorem pushRecord_surveyor (i : RecIdx) (d : Col) (c : Col) (s : State) : (pushRecord i d s).surveyor c = s.surveyor c :=
  surveyor_congr (pushRecord_survey _ _ s) c

theorem popStack_only (d : Col) (s : State) : OnlyChanges [.columns] s (popStack d s) :=
  ⟨rfl, rfl, fun p h => by cases p <;> first | rfl | simp at h⟩
@[simp] theorem popStack_pending (d : Col) (s : State) : (popStack d s).pending = s.pending := (popStack_only _ s).1
@[simp] theorem popStack_now (d : Col) (s : State) : (popStack d s).now = s.now := (popStack_only _ s).2.1
@[simp] theorem popStack_power (d : Col) (s : State) : (popStack d s).power = s.power :=
  (popStack_only _ s).power (by decide)
@[simp] theorem popStack_port (d : Col) (s : State) : (popStack d s).port = s.port :=
  (popStack_only _ s).port (by decide)
@[simp] theorem popStack_notice (d : Col) (s : State) : (popStack d s).notice = s.notice :=
  (popStack_only _ s).notice (by decide)
@[simp] theorem popStack_line (d : Col) (s : State) : (popStack d s).line = s.line :=
  (popStack_only _ s).line (by decide)
@[simp] theorem popStack_slot (d : Col) (k : Slot) (s : State) : (popStack d s).slot k = s.slot k :=
  slot_congr (popStack_line _ s) k
@[simp] theorem popStack_isLive (d : Col) (k : Slot) (s : State) : (popStack d s).isLive k = s.isLive k :=
  isLive_congr (popStack_line _ s) k
@[simp] theorem popStack_handoff (d : Col) (s : State) : (popStack d s).handoff = s.handoff :=
  (popStack_only _ s).handoff (by decide)
@[simp] theorem popStack_entry (d : Col) (j : RecIdx) (s : State) : (popStack d s).entry j = s.entry j :=
  entry_congr (popStack_handoff _ s) j
@[simp] theorem popStack_live (d : Col) (j : RecIdx) (s : State) : (popStack d s).live j = s.live j :=
  live_congr (popStack_handoff _ s) j
@[simp] theorem popStack_handleAt (d : Col) (j : RecIdx) (s : State) : (popStack d s).handleAt j = s.handleAt j :=
  handleAt_congr (popStack_handoff _ s) j
@[simp] theorem popStack_named (d : Col) (h : Handle) (s : State) : (popStack d s).named h = s.named h :=
  named_congr (popStack_handoff _ s) h
@[simp] theorem popStack_placement (d : Col) (s : State) : (popStack d s).placement = s.placement :=
  (popStack_only _ s).placement (by decide)
@[simp] theorem popStack_lock (d : Col) (s : State) : (popStack d s).lock = s.lock :=
  (popStack_only _ s).lock (by decide)
@[simp] theorem popStack_lockOf (d : Col) (c : Col) (s : State) : (popStack d s).lockOf c = s.lockOf c :=
  lockOf_congr (popStack_lock _ s) c
@[simp] theorem popStack_waitsOf (d : Col) (c : Col) (s : State) : (popStack d s).waitsOf c = s.waitsOf c :=
  waitsOf_congr (popStack_lock _ s) c
@[simp] theorem popStack_mark (d : Col) (k : Slot) (s : State) : (popStack d s).mark k = s.mark k :=
  mark_congr (popStack_lock _ s) k
@[simp] theorem popStack_age (d : Col) (s : State) : (popStack d s).age = s.age :=
  (popStack_only _ s).age (by decide)
@[simp] theorem popStack_manifest (d : Col) (s : State) : (popStack d s).manifest = s.manifest :=
  (popStack_only _ s).manifest (by decide)
@[simp] theorem popStack_survey (d : Col) (s : State) : (popStack d s).survey = s.survey :=
  (popStack_only _ s).survey (by decide)
@[simp] theorem popStack_surveyor (d : Col) (c : Col) (s : State) : (popStack d s).surveyor c = s.surveyor c :=
  surveyor_congr (popStack_survey _ s) c

theorem makeAt_only (i : RecIdx) (r : Record) (s : State) : OnlyChanges [.handoff] s (makeAt i r s) :=
  ⟨rfl, rfl, fun p h => by cases p <;> first | rfl | simp at h⟩
@[simp] theorem makeAt_pending (i : RecIdx) (r : Record) (s : State) : (makeAt i r s).pending = s.pending := (makeAt_only _ _ s).1
@[simp] theorem makeAt_now (i : RecIdx) (r : Record) (s : State) : (makeAt i r s).now = s.now := (makeAt_only _ _ s).2.1
@[simp] theorem makeAt_power (i : RecIdx) (r : Record) (s : State) : (makeAt i r s).power = s.power :=
  (makeAt_only _ _ s).power (by decide)
@[simp] theorem makeAt_port (i : RecIdx) (r : Record) (s : State) : (makeAt i r s).port = s.port :=
  (makeAt_only _ _ s).port (by decide)
@[simp] theorem makeAt_notice (i : RecIdx) (r : Record) (s : State) : (makeAt i r s).notice = s.notice :=
  (makeAt_only _ _ s).notice (by decide)
@[simp] theorem makeAt_line (i : RecIdx) (r : Record) (s : State) : (makeAt i r s).line = s.line :=
  (makeAt_only _ _ s).line (by decide)
@[simp] theorem makeAt_slot (i : RecIdx) (r : Record) (k : Slot) (s : State) : (makeAt i r s).slot k = s.slot k :=
  slot_congr (makeAt_line _ _ s) k
@[simp] theorem makeAt_isLive (i : RecIdx) (r : Record) (k : Slot) (s : State) : (makeAt i r s).isLive k = s.isLive k :=
  isLive_congr (makeAt_line _ _ s) k
@[simp] theorem makeAt_columns (i : RecIdx) (r : Record) (s : State) : (makeAt i r s).columns = s.columns :=
  (makeAt_only _ _ s).columns (by decide)
@[simp] theorem makeAt_col (i : RecIdx) (r : Record) (c : Col) (s : State) : (makeAt i r s).col c = s.col c :=
  col_congr (makeAt_columns _ _ s) c
@[simp] theorem makeAt_placement (i : RecIdx) (r : Record) (s : State) : (makeAt i r s).placement = s.placement :=
  (makeAt_only _ _ s).placement (by decide)
@[simp] theorem makeAt_lock (i : RecIdx) (r : Record) (s : State) : (makeAt i r s).lock = s.lock :=
  (makeAt_only _ _ s).lock (by decide)
@[simp] theorem makeAt_lockOf (i : RecIdx) (r : Record) (c : Col) (s : State) : (makeAt i r s).lockOf c = s.lockOf c :=
  lockOf_congr (makeAt_lock _ _ s) c
@[simp] theorem makeAt_waitsOf (i : RecIdx) (r : Record) (c : Col) (s : State) : (makeAt i r s).waitsOf c = s.waitsOf c :=
  waitsOf_congr (makeAt_lock _ _ s) c
@[simp] theorem makeAt_mark (i : RecIdx) (r : Record) (k : Slot) (s : State) : (makeAt i r s).mark k = s.mark k :=
  mark_congr (makeAt_lock _ _ s) k
@[simp] theorem makeAt_age (i : RecIdx) (r : Record) (s : State) : (makeAt i r s).age = s.age :=
  (makeAt_only _ _ s).age (by decide)
@[simp] theorem makeAt_manifest (i : RecIdx) (r : Record) (s : State) : (makeAt i r s).manifest = s.manifest :=
  (makeAt_only _ _ s).manifest (by decide)
@[simp] theorem makeAt_survey (i : RecIdx) (r : Record) (s : State) : (makeAt i r s).survey = s.survey :=
  (makeAt_only _ _ s).survey (by decide)
@[simp] theorem makeAt_surveyor (i : RecIdx) (r : Record) (c : Col) (s : State) : (makeAt i r s).surveyor c = s.surveyor c :=
  surveyor_congr (makeAt_survey _ _ s) c

theorem noteUnlisted_only (i : RecIdx) (b : Bool) (s : State) : OnlyChanges [.notice] s (noteUnlisted i b s) := by
  cases b
  · exact .refl _ _
  · exact raiseUnlisted_only _ s
@[simp] theorem noteUnlisted_pending (i : RecIdx) (b : Bool) (s : State) : (noteUnlisted i b s).pending = s.pending := (noteUnlisted_only _ _ s).1
@[simp] theorem noteUnlisted_now (i : RecIdx) (b : Bool) (s : State) : (noteUnlisted i b s).now = s.now := (noteUnlisted_only _ _ s).2.1
@[simp] theorem noteUnlisted_power (i : RecIdx) (b : Bool) (s : State) : (noteUnlisted i b s).power = s.power :=
  (noteUnlisted_only _ _ s).power (by decide)
@[simp] theorem noteUnlisted_port (i : RecIdx) (b : Bool) (s : State) : (noteUnlisted i b s).port = s.port :=
  (noteUnlisted_only _ _ s).port (by decide)
@[simp] theorem noteUnlisted_line (i : RecIdx) (b : Bool) (s : State) : (noteUnlisted i b s).line = s.line :=
  (noteUnlisted_only _ _ s).line (by decide)
@[simp] theorem noteUnlisted_slot (i : RecIdx) (b : Bool) (k : Slot) (s : State) : (noteUnlisted i b s).slot k = s.slot k :=
  slot_congr (noteUnlisted_line _ _ s) k
@[simp] theorem noteUnlisted_isLive (i : RecIdx) (b : Bool) (k : Slot) (s : State) : (noteUnlisted i b s).isLive k = s.isLive k :=
  isLive_congr (noteUnlisted_line _ _ s) k
@[simp] theorem noteUnlisted_columns (i : RecIdx) (b : Bool) (s : State) : (noteUnlisted i b s).columns = s.columns :=
  (noteUnlisted_only _ _ s).columns (by decide)
@[simp] theorem noteUnlisted_col (i : RecIdx) (b : Bool) (c : Col) (s : State) : (noteUnlisted i b s).col c = s.col c :=
  col_congr (noteUnlisted_columns _ _ s) c
@[simp] theorem noteUnlisted_handoff (i : RecIdx) (b : Bool) (s : State) : (noteUnlisted i b s).handoff = s.handoff :=
  (noteUnlisted_only _ _ s).handoff (by decide)
@[simp] theorem noteUnlisted_entry (i : RecIdx) (b : Bool) (j : RecIdx) (s : State) : (noteUnlisted i b s).entry j = s.entry j :=
  entry_congr (noteUnlisted_handoff _ _ s) j
@[simp] theorem noteUnlisted_live (i : RecIdx) (b : Bool) (j : RecIdx) (s : State) : (noteUnlisted i b s).live j = s.live j :=
  live_congr (noteUnlisted_handoff _ _ s) j
@[simp] theorem noteUnlisted_handleAt (i : RecIdx) (b : Bool) (j : RecIdx) (s : State) : (noteUnlisted i b s).handleAt j = s.handleAt j :=
  handleAt_congr (noteUnlisted_handoff _ _ s) j
@[simp] theorem noteUnlisted_named (i : RecIdx) (b : Bool) (h : Handle) (s : State) : (noteUnlisted i b s).named h = s.named h :=
  named_congr (noteUnlisted_handoff _ _ s) h
@[simp] theorem noteUnlisted_placement (i : RecIdx) (b : Bool) (s : State) : (noteUnlisted i b s).placement = s.placement :=
  (noteUnlisted_only _ _ s).placement (by decide)
@[simp] theorem noteUnlisted_lock (i : RecIdx) (b : Bool) (s : State) : (noteUnlisted i b s).lock = s.lock :=
  (noteUnlisted_only _ _ s).lock (by decide)
@[simp] theorem noteUnlisted_lockOf (i : RecIdx) (b : Bool) (c : Col) (s : State) : (noteUnlisted i b s).lockOf c = s.lockOf c :=
  lockOf_congr (noteUnlisted_lock _ _ s) c
@[simp] theorem noteUnlisted_waitsOf (i : RecIdx) (b : Bool) (c : Col) (s : State) : (noteUnlisted i b s).waitsOf c = s.waitsOf c :=
  waitsOf_congr (noteUnlisted_lock _ _ s) c
@[simp] theorem noteUnlisted_mark (i : RecIdx) (b : Bool) (k : Slot) (s : State) : (noteUnlisted i b s).mark k = s.mark k :=
  mark_congr (noteUnlisted_lock _ _ s) k
@[simp] theorem noteUnlisted_age (i : RecIdx) (b : Bool) (s : State) : (noteUnlisted i b s).age = s.age :=
  (noteUnlisted_only _ _ s).age (by decide)
@[simp] theorem noteUnlisted_manifest (i : RecIdx) (b : Bool) (s : State) : (noteUnlisted i b s).manifest = s.manifest :=
  (noteUnlisted_only _ _ s).manifest (by decide)
@[simp] theorem noteUnlisted_survey (i : RecIdx) (b : Bool) (s : State) : (noteUnlisted i b s).survey = s.survey :=
  (noteUnlisted_only _ _ s).survey (by decide)
@[simp] theorem noteUnlisted_surveyor (i : RecIdx) (b : Bool) (c : Col) (s : State) : (noteUnlisted i b s).surveyor c = s.surveyor c :=
  surveyor_congr (noteUnlisted_survey _ _ s) c

theorem retire_only (i : RecIdx) (o : Retirement) (s : State) : OnlyChanges [.handoff, .lock, .manifest] s (retire i o s) := by
  unfold retire
  split
  · exact .refl _ _
  · dsimp only
    split
    · refine OnlyChanges.trans ?_ ((consume_only _ _).mono (by decide))
      exact ⟨rfl, rfl, fun p h => by cases p <;> first | rfl | simp at h⟩
    · exact ⟨rfl, rfl, fun p h => by cases p <;> first | rfl | simp at h⟩
@[simp] theorem retire_pending (i : RecIdx) (o : Retirement) (s : State) : (retire i o s).pending = s.pending := (retire_only _ _ s).1
@[simp] theorem retire_now (i : RecIdx) (o : Retirement) (s : State) : (retire i o s).now = s.now := (retire_only _ _ s).2.1
@[simp] theorem retire_power (i : RecIdx) (o : Retirement) (s : State) : (retire i o s).power = s.power :=
  (retire_only _ _ s).power (by decide)
@[simp] theorem retire_port (i : RecIdx) (o : Retirement) (s : State) : (retire i o s).port = s.port :=
  (retire_only _ _ s).port (by decide)
@[simp] theorem retire_notice (i : RecIdx) (o : Retirement) (s : State) : (retire i o s).notice = s.notice :=
  (retire_only _ _ s).notice (by decide)
@[simp] theorem retire_line (i : RecIdx) (o : Retirement) (s : State) : (retire i o s).line = s.line :=
  (retire_only _ _ s).line (by decide)
@[simp] theorem retire_slot (i : RecIdx) (o : Retirement) (k : Slot) (s : State) : (retire i o s).slot k = s.slot k :=
  slot_congr (retire_line _ _ s) k
@[simp] theorem retire_isLive (i : RecIdx) (o : Retirement) (k : Slot) (s : State) : (retire i o s).isLive k = s.isLive k :=
  isLive_congr (retire_line _ _ s) k
@[simp] theorem retire_columns (i : RecIdx) (o : Retirement) (s : State) : (retire i o s).columns = s.columns :=
  (retire_only _ _ s).columns (by decide)
@[simp] theorem retire_col (i : RecIdx) (o : Retirement) (c : Col) (s : State) : (retire i o s).col c = s.col c :=
  col_congr (retire_columns _ _ s) c
@[simp] theorem retire_placement (i : RecIdx) (o : Retirement) (s : State) : (retire i o s).placement = s.placement :=
  (retire_only _ _ s).placement (by decide)
@[simp] theorem retire_age (i : RecIdx) (o : Retirement) (s : State) : (retire i o s).age = s.age :=
  (retire_only _ _ s).age (by decide)
@[simp] theorem retire_survey (i : RecIdx) (o : Retirement) (s : State) : (retire i o s).survey = s.survey :=
  (retire_only _ _ s).survey (by decide)
@[simp] theorem retire_surveyor (i : RecIdx) (o : Retirement) (c : Col) (s : State) : (retire i o s).surveyor c = s.surveyor c :=
  surveyor_congr (retire_survey _ _ s) c

theorem State.dropWaiter_only (x : Slot) (s : State) : OnlyChanges [.lock] s (State.dropWaiter x s) :=
  ⟨rfl, rfl, fun p h => by cases p <;> first | rfl | simp at h⟩
@[simp] theorem State.dropWaiter_pending (x : Slot) (s : State) : (State.dropWaiter x s).pending = s.pending := (State.dropWaiter_only _ s).1
@[simp] theorem State.dropWaiter_now (x : Slot) (s : State) : (State.dropWaiter x s).now = s.now := (State.dropWaiter_only _ s).2.1
@[simp] theorem State.dropWaiter_power (x : Slot) (s : State) : (State.dropWaiter x s).power = s.power :=
  (State.dropWaiter_only _ s).power (by decide)
@[simp] theorem State.dropWaiter_port (x : Slot) (s : State) : (State.dropWaiter x s).port = s.port :=
  (State.dropWaiter_only _ s).port (by decide)
@[simp] theorem State.dropWaiter_notice (x : Slot) (s : State) : (State.dropWaiter x s).notice = s.notice :=
  (State.dropWaiter_only _ s).notice (by decide)
@[simp] theorem State.dropWaiter_line (x : Slot) (s : State) : (State.dropWaiter x s).line = s.line :=
  (State.dropWaiter_only _ s).line (by decide)
@[simp] theorem State.dropWaiter_slot (x : Slot) (k : Slot) (s : State) : (State.dropWaiter x s).slot k = s.slot k :=
  slot_congr (State.dropWaiter_line _ s) k
@[simp] theorem State.dropWaiter_isLive (x : Slot) (k : Slot) (s : State) : (State.dropWaiter x s).isLive k = s.isLive k :=
  isLive_congr (State.dropWaiter_line _ s) k
@[simp] theorem State.dropWaiter_columns (x : Slot) (s : State) : (State.dropWaiter x s).columns = s.columns :=
  (State.dropWaiter_only _ s).columns (by decide)
@[simp] theorem State.dropWaiter_col (x : Slot) (c : Col) (s : State) : (State.dropWaiter x s).col c = s.col c :=
  col_congr (State.dropWaiter_columns _ s) c
@[simp] theorem State.dropWaiter_handoff (x : Slot) (s : State) : (State.dropWaiter x s).handoff = s.handoff :=
  (State.dropWaiter_only _ s).handoff (by decide)
@[simp] theorem State.dropWaiter_entry (x : Slot) (j : RecIdx) (s : State) : (State.dropWaiter x s).entry j = s.entry j :=
  entry_congr (State.dropWaiter_handoff _ s) j
@[simp] theorem State.dropWaiter_live (x : Slot) (j : RecIdx) (s : State) : (State.dropWaiter x s).live j = s.live j :=
  live_congr (State.dropWaiter_handoff _ s) j
@[simp] theorem State.dropWaiter_handleAt (x : Slot) (j : RecIdx) (s : State) : (State.dropWaiter x s).handleAt j = s.handleAt j :=
  handleAt_congr (State.dropWaiter_handoff _ s) j
@[simp] theorem State.dropWaiter_named (x : Slot) (h : Handle) (s : State) : (State.dropWaiter x s).named h = s.named h :=
  named_congr (State.dropWaiter_handoff _ s) h
@[simp] theorem State.dropWaiter_placement (x : Slot) (s : State) : (State.dropWaiter x s).placement = s.placement :=
  (State.dropWaiter_only _ s).placement (by decide)
@[simp] theorem State.dropWaiter_age (x : Slot) (s : State) : (State.dropWaiter x s).age = s.age :=
  (State.dropWaiter_only _ s).age (by decide)
@[simp] theorem State.dropWaiter_manifest (x : Slot) (s : State) : (State.dropWaiter x s).manifest = s.manifest :=
  (State.dropWaiter_only _ s).manifest (by decide)
@[simp] theorem State.dropWaiter_survey (x : Slot) (s : State) : (State.dropWaiter x s).survey = s.survey :=
  (State.dropWaiter_only _ s).survey (by decide)
@[simp] theorem State.dropWaiter_surveyor (x : Slot) (c : Col) (s : State) : (State.dropWaiter x s).surveyor c = s.surveyor c :=
  surveyor_congr (State.dropWaiter_survey _ s) c

theorem State.dropWaitFor_only (d : Col) (x : Handle) (s : State) : OnlyChanges [.lock] s (State.dropWaitFor d x s) :=
  ⟨rfl, rfl, fun p h => by cases p <;> first | rfl | simp at h⟩
@[simp] theorem State.dropWaitFor_pending (d : Col) (x : Handle) (s : State) : (State.dropWaitFor d x s).pending = s.pending := (State.dropWaitFor_only _ _ s).1
@[simp] theorem State.dropWaitFor_now (d : Col) (x : Handle) (s : State) : (State.dropWaitFor d x s).now = s.now := (State.dropWaitFor_only _ _ s).2.1
@[simp] theorem State.dropWaitFor_power (d : Col) (x : Handle) (s : State) : (State.dropWaitFor d x s).power = s.power :=
  (State.dropWaitFor_only _ _ s).power (by decide)
@[simp] theorem State.dropWaitFor_port (d : Col) (x : Handle) (s : State) : (State.dropWaitFor d x s).port = s.port :=
  (State.dropWaitFor_only _ _ s).port (by decide)
@[simp] theorem State.dropWaitFor_notice (d : Col) (x : Handle) (s : State) : (State.dropWaitFor d x s).notice = s.notice :=
  (State.dropWaitFor_only _ _ s).notice (by decide)
@[simp] theorem State.dropWaitFor_line (d : Col) (x : Handle) (s : State) : (State.dropWaitFor d x s).line = s.line :=
  (State.dropWaitFor_only _ _ s).line (by decide)
@[simp] theorem State.dropWaitFor_slot (d : Col) (x : Handle) (k : Slot) (s : State) : (State.dropWaitFor d x s).slot k = s.slot k :=
  slot_congr (State.dropWaitFor_line _ _ s) k
@[simp] theorem State.dropWaitFor_isLive (d : Col) (x : Handle) (k : Slot) (s : State) : (State.dropWaitFor d x s).isLive k = s.isLive k :=
  isLive_congr (State.dropWaitFor_line _ _ s) k
@[simp] theorem State.dropWaitFor_columns (d : Col) (x : Handle) (s : State) : (State.dropWaitFor d x s).columns = s.columns :=
  (State.dropWaitFor_only _ _ s).columns (by decide)
@[simp] theorem State.dropWaitFor_col (d : Col) (x : Handle) (c : Col) (s : State) : (State.dropWaitFor d x s).col c = s.col c :=
  col_congr (State.dropWaitFor_columns _ _ s) c
@[simp] theorem State.dropWaitFor_handoff (d : Col) (x : Handle) (s : State) : (State.dropWaitFor d x s).handoff = s.handoff :=
  (State.dropWaitFor_only _ _ s).handoff (by decide)
@[simp] theorem State.dropWaitFor_entry (d : Col) (x : Handle) (j : RecIdx) (s : State) : (State.dropWaitFor d x s).entry j = s.entry j :=
  entry_congr (State.dropWaitFor_handoff _ _ s) j
@[simp] theorem State.dropWaitFor_live (d : Col) (x : Handle) (j : RecIdx) (s : State) : (State.dropWaitFor d x s).live j = s.live j :=
  live_congr (State.dropWaitFor_handoff _ _ s) j
@[simp] theorem State.dropWaitFor_handleAt (d : Col) (x : Handle) (j : RecIdx) (s : State) : (State.dropWaitFor d x s).handleAt j = s.handleAt j :=
  handleAt_congr (State.dropWaitFor_handoff _ _ s) j
@[simp] theorem State.dropWaitFor_named (d : Col) (x : Handle) (h : Handle) (s : State) : (State.dropWaitFor d x s).named h = s.named h :=
  named_congr (State.dropWaitFor_handoff _ _ s) h
@[simp] theorem State.dropWaitFor_placement (d : Col) (x : Handle) (s : State) : (State.dropWaitFor d x s).placement = s.placement :=
  (State.dropWaitFor_only _ _ s).placement (by decide)
@[simp] theorem State.dropWaitFor_age (d : Col) (x : Handle) (s : State) : (State.dropWaitFor d x s).age = s.age :=
  (State.dropWaitFor_only _ _ s).age (by decide)
@[simp] theorem State.dropWaitFor_manifest (d : Col) (x : Handle) (s : State) : (State.dropWaitFor d x s).manifest = s.manifest :=
  (State.dropWaitFor_only _ _ s).manifest (by decide)
@[simp] theorem State.dropWaitFor_survey (d : Col) (x : Handle) (s : State) : (State.dropWaitFor d x s).survey = s.survey :=
  (State.dropWaitFor_only _ _ s).survey (by decide)
@[simp] theorem State.dropWaitFor_surveyor (d : Col) (x : Handle) (c : Col) (s : State) : (State.dropWaitFor d x s).surveyor c = s.surveyor c :=
  surveyor_congr (State.dropWaitFor_survey _ _ s) c

theorem dropLiftWait_only (y : Slot) (d : Col) (x : Handle) (s : State) : OnlyChanges [.lock] s (dropLiftWait y d x s) :=
  ⟨rfl, rfl, fun p h => by cases p <;> first | rfl | simp at h⟩
@[simp] theorem dropLiftWait_pending (y : Slot) (d : Col) (x : Handle) (s : State) : (dropLiftWait y d x s).pending = s.pending := (dropLiftWait_only _ _ _ s).1
@[simp] theorem dropLiftWait_now (y : Slot) (d : Col) (x : Handle) (s : State) : (dropLiftWait y d x s).now = s.now := (dropLiftWait_only _ _ _ s).2.1
@[simp] theorem dropLiftWait_power (y : Slot) (d : Col) (x : Handle) (s : State) : (dropLiftWait y d x s).power = s.power :=
  (dropLiftWait_only _ _ _ s).power (by decide)
@[simp] theorem dropLiftWait_port (y : Slot) (d : Col) (x : Handle) (s : State) : (dropLiftWait y d x s).port = s.port :=
  (dropLiftWait_only _ _ _ s).port (by decide)
@[simp] theorem dropLiftWait_notice (y : Slot) (d : Col) (x : Handle) (s : State) : (dropLiftWait y d x s).notice = s.notice :=
  (dropLiftWait_only _ _ _ s).notice (by decide)
@[simp] theorem dropLiftWait_line (y : Slot) (d : Col) (x : Handle) (s : State) : (dropLiftWait y d x s).line = s.line :=
  (dropLiftWait_only _ _ _ s).line (by decide)
@[simp] theorem dropLiftWait_slot (y : Slot) (d : Col) (x : Handle) (k : Slot) (s : State) : (dropLiftWait y d x s).slot k = s.slot k :=
  slot_congr (dropLiftWait_line _ _ _ s) k
@[simp] theorem dropLiftWait_isLive (y : Slot) (d : Col) (x : Handle) (k : Slot) (s : State) : (dropLiftWait y d x s).isLive k = s.isLive k :=
  isLive_congr (dropLiftWait_line _ _ _ s) k
@[simp] theorem dropLiftWait_columns (y : Slot) (d : Col) (x : Handle) (s : State) : (dropLiftWait y d x s).columns = s.columns :=
  (dropLiftWait_only _ _ _ s).columns (by decide)
@[simp] theorem dropLiftWait_col (y : Slot) (d : Col) (x : Handle) (c : Col) (s : State) : (dropLiftWait y d x s).col c = s.col c :=
  col_congr (dropLiftWait_columns _ _ _ s) c
@[simp] theorem dropLiftWait_handoff (y : Slot) (d : Col) (x : Handle) (s : State) : (dropLiftWait y d x s).handoff = s.handoff :=
  (dropLiftWait_only _ _ _ s).handoff (by decide)
@[simp] theorem dropLiftWait_entry (y : Slot) (d : Col) (x : Handle) (j : RecIdx) (s : State) : (dropLiftWait y d x s).entry j = s.entry j :=
  entry_congr (dropLiftWait_handoff _ _ _ s) j
@[simp] theorem dropLiftWait_live (y : Slot) (d : Col) (x : Handle) (j : RecIdx) (s : State) : (dropLiftWait y d x s).live j = s.live j :=
  live_congr (dropLiftWait_handoff _ _ _ s) j
@[simp] theorem dropLiftWait_handleAt (y : Slot) (d : Col) (x : Handle) (j : RecIdx) (s : State) : (dropLiftWait y d x s).handleAt j = s.handleAt j :=
  handleAt_congr (dropLiftWait_handoff _ _ _ s) j
@[simp] theorem dropLiftWait_named (y : Slot) (d : Col) (x : Handle) (h : Handle) (s : State) : (dropLiftWait y d x s).named h = s.named h :=
  named_congr (dropLiftWait_handoff _ _ _ s) h
@[simp] theorem dropLiftWait_placement (y : Slot) (d : Col) (x : Handle) (s : State) : (dropLiftWait y d x s).placement = s.placement :=
  (dropLiftWait_only _ _ _ s).placement (by decide)
@[simp] theorem dropLiftWait_age (y : Slot) (d : Col) (x : Handle) (s : State) : (dropLiftWait y d x s).age = s.age :=
  (dropLiftWait_only _ _ _ s).age (by decide)
@[simp] theorem dropLiftWait_manifest (y : Slot) (d : Col) (x : Handle) (s : State) : (dropLiftWait y d x s).manifest = s.manifest :=
  (dropLiftWait_only _ _ _ s).manifest (by decide)
@[simp] theorem dropLiftWait_survey (y : Slot) (d : Col) (x : Handle) (s : State) : (dropLiftWait y d x s).survey = s.survey :=
  (dropLiftWait_only _ _ _ s).survey (by decide)
@[simp] theorem dropLiftWait_surveyor (y : Slot) (d : Col) (x : Handle) (c : Col) (s : State) : (dropLiftWait y d x s).surveyor c = s.surveyor c :=
  surveyor_congr (dropLiftWait_survey _ _ _ s) c

theorem dropCollectorWait_only (r : Record) (x : Handle) (s : State) : OnlyChanges [.lock] s (dropCollectorWait r x s) := by
  unfold dropCollectorWait
  split
  · exact dropLiftWait_only _ _ _ s
  · exact .refl _ _
@[simp] theorem dropCollectorWait_pending (r : Record) (x : Handle) (s : State) : (dropCollectorWait r x s).pending = s.pending := (dropCollectorWait_only _ _ s).1
@[simp] theorem dropCollectorWait_now (r : Record) (x : Handle) (s : State) : (dropCollectorWait r x s).now = s.now := (dropCollectorWait_only _ _ s).2.1
@[simp] theorem dropCollectorWait_power (r : Record) (x : Handle) (s : State) : (dropCollectorWait r x s).power = s.power :=
  (dropCollectorWait_only _ _ s).power (by decide)
@[simp] theorem dropCollectorWait_port (r : Record) (x : Handle) (s : State) : (dropCollectorWait r x s).port = s.port :=
  (dropCollectorWait_only _ _ s).port (by decide)
@[simp] theorem dropCollectorWait_notice (r : Record) (x : Handle) (s : State) : (dropCollectorWait r x s).notice = s.notice :=
  (dropCollectorWait_only _ _ s).notice (by decide)
@[simp] theorem dropCollectorWait_line (r : Record) (x : Handle) (s : State) : (dropCollectorWait r x s).line = s.line :=
  (dropCollectorWait_only _ _ s).line (by decide)
@[simp] theorem dropCollectorWait_slot (r : Record) (x : Handle) (k : Slot) (s : State) : (dropCollectorWait r x s).slot k = s.slot k :=
  slot_congr (dropCollectorWait_line _ _ s) k
@[simp] theorem dropCollectorWait_isLive (r : Record) (x : Handle) (k : Slot) (s : State) : (dropCollectorWait r x s).isLive k = s.isLive k :=
  isLive_congr (dropCollectorWait_line _ _ s) k
@[simp] theorem dropCollectorWait_columns (r : Record) (x : Handle) (s : State) : (dropCollectorWait r x s).columns = s.columns :=
  (dropCollectorWait_only _ _ s).columns (by decide)
@[simp] theorem dropCollectorWait_col (r : Record) (x : Handle) (c : Col) (s : State) : (dropCollectorWait r x s).col c = s.col c :=
  col_congr (dropCollectorWait_columns _ _ s) c
@[simp] theorem dropCollectorWait_handoff (r : Record) (x : Handle) (s : State) : (dropCollectorWait r x s).handoff = s.handoff :=
  (dropCollectorWait_only _ _ s).handoff (by decide)
@[simp] theorem dropCollectorWait_entry (r : Record) (x : Handle) (j : RecIdx) (s : State) : (dropCollectorWait r x s).entry j = s.entry j :=
  entry_congr (dropCollectorWait_handoff _ _ s) j
@[simp] theorem dropCollectorWait_live (r : Record) (x : Handle) (j : RecIdx) (s : State) : (dropCollectorWait r x s).live j = s.live j :=
  live_congr (dropCollectorWait_handoff _ _ s) j
@[simp] theorem dropCollectorWait_handleAt (r : Record) (x : Handle) (j : RecIdx) (s : State) : (dropCollectorWait r x s).handleAt j = s.handleAt j :=
  handleAt_congr (dropCollectorWait_handoff _ _ s) j
@[simp] theorem dropCollectorWait_named (r : Record) (x : Handle) (h : Handle) (s : State) : (dropCollectorWait r x s).named h = s.named h :=
  named_congr (dropCollectorWait_handoff _ _ s) h
@[simp] theorem dropCollectorWait_placement (r : Record) (x : Handle) (s : State) : (dropCollectorWait r x s).placement = s.placement :=
  (dropCollectorWait_only _ _ s).placement (by decide)
@[simp] theorem dropCollectorWait_age (r : Record) (x : Handle) (s : State) : (dropCollectorWait r x s).age = s.age :=
  (dropCollectorWait_only _ _ s).age (by decide)
@[simp] theorem dropCollectorWait_manifest (r : Record) (x : Handle) (s : State) : (dropCollectorWait r x s).manifest = s.manifest :=
  (dropCollectorWait_only _ _ s).manifest (by decide)
@[simp] theorem dropCollectorWait_survey (r : Record) (x : Handle) (s : State) : (dropCollectorWait r x s).survey = s.survey :=
  (dropCollectorWait_only _ _ s).survey (by decide)
@[simp] theorem dropCollectorWait_surveyor (r : Record) (x : Handle) (c : Col) (s : State) : (dropCollectorWait r x s).surveyor c = s.surveyor c :=
  surveyor_congr (dropCollectorWait_survey _ _ s) c

theorem grant_only (d : Col) (x : Slot) (w : Hold) (s : State) : OnlyChanges [.handoff, .lock] s (grant d x w s) := by
  have e : OnlyChanges [.handoff, .lock] s (s.setLockOf d (some ⟨x, w, s.lock.limitOf w, s.now⟩)) :=
    ⟨rfl, rfl, fun p h => by cases p <;> first | rfl | simp at h⟩
  unfold grant
  split
  · exact e.trans ((updRec_only _ _ _).mono (by decide))
  · exact e.trans ((updRec_only _ _ _).mono (by decide))
  · exact e
@[simp] theorem grant_pending (d : Col) (x : Slot) (w : Hold) (s : State) : (grant d x w s).pending = s.pending := (grant_only _ _ _ s).1
@[simp] theorem grant_now (d : Col) (x : Slot) (w : Hold) (s : State) : (grant d x w s).now = s.now := (grant_only _ _ _ s).2.1
@[simp] theorem grant_power (d : Col) (x : Slot) (w : Hold) (s : State) : (grant d x w s).power = s.power :=
  (grant_only _ _ _ s).power (by decide)
@[simp] theorem grant_port (d : Col) (x : Slot) (w : Hold) (s : State) : (grant d x w s).port = s.port :=
  (grant_only _ _ _ s).port (by decide)
@[simp] theorem grant_notice (d : Col) (x : Slot) (w : Hold) (s : State) : (grant d x w s).notice = s.notice :=
  (grant_only _ _ _ s).notice (by decide)
@[simp] theorem grant_line (d : Col) (x : Slot) (w : Hold) (s : State) : (grant d x w s).line = s.line :=
  (grant_only _ _ _ s).line (by decide)
@[simp] theorem grant_slot (d : Col) (x : Slot) (w : Hold) (k : Slot) (s : State) : (grant d x w s).slot k = s.slot k :=
  slot_congr (grant_line _ _ _ s) k
@[simp] theorem grant_isLive (d : Col) (x : Slot) (w : Hold) (k : Slot) (s : State) : (grant d x w s).isLive k = s.isLive k :=
  isLive_congr (grant_line _ _ _ s) k
@[simp] theorem grant_columns (d : Col) (x : Slot) (w : Hold) (s : State) : (grant d x w s).columns = s.columns :=
  (grant_only _ _ _ s).columns (by decide)
@[simp] theorem grant_col (d : Col) (x : Slot) (w : Hold) (c : Col) (s : State) : (grant d x w s).col c = s.col c :=
  col_congr (grant_columns _ _ _ s) c
@[simp] theorem grant_placement (d : Col) (x : Slot) (w : Hold) (s : State) : (grant d x w s).placement = s.placement :=
  (grant_only _ _ _ s).placement (by decide)
@[simp] theorem grant_age (d : Col) (x : Slot) (w : Hold) (s : State) : (grant d x w s).age = s.age :=
  (grant_only _ _ _ s).age (by decide)
@[simp] theorem grant_manifest (d : Col) (x : Slot) (w : Hold) (s : State) : (grant d x w s).manifest = s.manifest :=
  (grant_only _ _ _ s).manifest (by decide)
@[simp] theorem grant_survey (d : Col) (x : Slot) (w : Hold) (s : State) : (grant d x w s).survey = s.survey :=
  (grant_only _ _ _ s).survey (by decide)
@[simp] theorem grant_surveyor (d : Col) (x : Slot) (w : Hold) (c : Col) (s : State) : (grant d x w s).surveyor c = s.surveyor c :=
  surveyor_congr (grant_survey _ _ _ s) c

theorem scan_only (d : Col) (s : State) : OnlyChanges [.handoff, .lock] s (scan d s) := by
  unfold scan
  split
  · exact .refl _ _
  · split
    · exact .refl _ _
    · refine OnlyChanges.trans ?_ (grant_only _ _ _ _)
      exact ⟨rfl, rfl, fun p h => by cases p <;> first | rfl | simp at h⟩
@[simp] theorem scan_pending (d : Col) (s : State) : (scan d s).pending = s.pending := (scan_only _ s).1
@[simp] theorem scan_now (d : Col) (s : State) : (scan d s).now = s.now := (scan_only _ s).2.1
@[simp] theorem scan_power (d : Col) (s : State) : (scan d s).power = s.power :=
  (scan_only _ s).power (by decide)
@[simp] theorem scan_port (d : Col) (s : State) : (scan d s).port = s.port :=
  (scan_only _ s).port (by decide)
@[simp] theorem scan_notice (d : Col) (s : State) : (scan d s).notice = s.notice :=
  (scan_only _ s).notice (by decide)
@[simp] theorem scan_line (d : Col) (s : State) : (scan d s).line = s.line :=
  (scan_only _ s).line (by decide)
@[simp] theorem scan_slot (d : Col) (k : Slot) (s : State) : (scan d s).slot k = s.slot k :=
  slot_congr (scan_line _ s) k
@[simp] theorem scan_isLive (d : Col) (k : Slot) (s : State) : (scan d s).isLive k = s.isLive k :=
  isLive_congr (scan_line _ s) k
@[simp] theorem scan_columns (d : Col) (s : State) : (scan d s).columns = s.columns :=
  (scan_only _ s).columns (by decide)
@[simp] theorem scan_col (d : Col) (c : Col) (s : State) : (scan d s).col c = s.col c :=
  col_congr (scan_columns _ s) c
@[simp] theorem scan_placement (d : Col) (s : State) : (scan d s).placement = s.placement :=
  (scan_only _ s).placement (by decide)
@[simp] theorem scan_age (d : Col) (s : State) : (scan d s).age = s.age :=
  (scan_only _ s).age (by decide)
@[simp] theorem scan_manifest (d : Col) (s : State) : (scan d s).manifest = s.manifest :=
  (scan_only _ s).manifest (by decide)
@[simp] theorem scan_survey (d : Col) (s : State) : (scan d s).survey = s.survey :=
  (scan_only _ s).survey (by decide)
@[simp] theorem scan_surveyor (d : Col) (c : Col) (s : State) : (scan d s).surveyor c = s.surveyor c :=
  surveyor_congr (scan_survey _ s) c

theorem endLock_only (d : Col) (s : State) : OnlyChanges [.lock] s (endLock d s) :=
  ⟨rfl, rfl, fun p h => by cases p <;> first | rfl | simp at h⟩
@[simp] theorem endLock_pending (d : Col) (s : State) : (endLock d s).pending = s.pending := (endLock_only _ s).1
@[simp] theorem endLock_now (d : Col) (s : State) : (endLock d s).now = s.now := (endLock_only _ s).2.1
@[simp] theorem endLock_power (d : Col) (s : State) : (endLock d s).power = s.power :=
  (endLock_only _ s).power (by decide)
@[simp] theorem endLock_port (d : Col) (s : State) : (endLock d s).port = s.port :=
  (endLock_only _ s).port (by decide)
@[simp] theorem endLock_notice (d : Col) (s : State) : (endLock d s).notice = s.notice :=
  (endLock_only _ s).notice (by decide)
@[simp] theorem endLock_line (d : Col) (s : State) : (endLock d s).line = s.line :=
  (endLock_only _ s).line (by decide)
@[simp] theorem endLock_slot (d : Col) (k : Slot) (s : State) : (endLock d s).slot k = s.slot k :=
  slot_congr (endLock_line _ s) k
@[simp] theorem endLock_isLive (d : Col) (k : Slot) (s : State) : (endLock d s).isLive k = s.isLive k :=
  isLive_congr (endLock_line _ s) k
@[simp] theorem endLock_columns (d : Col) (s : State) : (endLock d s).columns = s.columns :=
  (endLock_only _ s).columns (by decide)
@[simp] theorem endLock_col (d : Col) (c : Col) (s : State) : (endLock d s).col c = s.col c :=
  col_congr (endLock_columns _ s) c
@[simp] theorem endLock_handoff (d : Col) (s : State) : (endLock d s).handoff = s.handoff :=
  (endLock_only _ s).handoff (by decide)
@[simp] theorem endLock_entry (d : Col) (j : RecIdx) (s : State) : (endLock d s).entry j = s.entry j :=
  entry_congr (endLock_handoff _ s) j
@[simp] theorem endLock_live (d : Col) (j : RecIdx) (s : State) : (endLock d s).live j = s.live j :=
  live_congr (endLock_handoff _ s) j
@[simp] theorem endLock_handleAt (d : Col) (j : RecIdx) (s : State) : (endLock d s).handleAt j = s.handleAt j :=
  handleAt_congr (endLock_handoff _ s) j
@[simp] theorem endLock_named (d : Col) (h : Handle) (s : State) : (endLock d s).named h = s.named h :=
  named_congr (endLock_handoff _ s) h
@[simp] theorem endLock_placement (d : Col) (s : State) : (endLock d s).placement = s.placement :=
  (endLock_only _ s).placement (by decide)
@[simp] theorem endLock_age (d : Col) (s : State) : (endLock d s).age = s.age :=
  (endLock_only _ s).age (by decide)
@[simp] theorem endLock_manifest (d : Col) (s : State) : (endLock d s).manifest = s.manifest :=
  (endLock_only _ s).manifest (by decide)
@[simp] theorem endLock_survey (d : Col) (s : State) : (endLock d s).survey = s.survey :=
  (endLock_only _ s).survey (by decide)
@[simp] theorem endLock_surveyor (d : Col) (c : Col) (s : State) : (endLock d s).surveyor c = s.surveyor c :=
  surveyor_congr (endLock_survey _ s) c

theorem strand_only (d : Col) (y : Slot) (w : Work) (x : Handle) (s : State) : OnlyChanges [.notice, .columns, .handoff, .lock] s (strand d y w x s) := by
  have e : OnlyChanges [.handoff, .lock] s (endLock d s) :=
    ⟨rfl, rfl, fun p h => by cases p <;> first | rfl | simp at h⟩
  have e2 := (e.trans ((updRec_only x.idx
    (fun r => { r with state := .stranded, strandedFrom := some w.strandedFrom, buried := false }) _).mono
      (by decide))).mono (qs := [.notice, .columns, .handoff, .lock]) (by decide)
  exact e2.trans ⟨rfl, rfl, fun p h => by cases p <;> first | rfl | simp at h⟩
@[simp] theorem strand_pending (d : Col) (y : Slot) (w : Work) (x : Handle) (s : State) : (strand d y w x s).pending = s.pending := (strand_only _ _ _ _ s).1
@[simp] theorem strand_now (d : Col) (y : Slot) (w : Work) (x : Handle) (s : State) : (strand d y w x s).now = s.now := (strand_only _ _ _ _ s).2.1
@[simp] theorem strand_power (d : Col) (y : Slot) (w : Work) (x : Handle) (s : State) : (strand d y w x s).power = s.power :=
  (strand_only _ _ _ _ s).power (by decide)
@[simp] theorem strand_port (d : Col) (y : Slot) (w : Work) (x : Handle) (s : State) : (strand d y w x s).port = s.port :=
  (strand_only _ _ _ _ s).port (by decide)
@[simp] theorem strand_line (d : Col) (y : Slot) (w : Work) (x : Handle) (s : State) : (strand d y w x s).line = s.line :=
  (strand_only _ _ _ _ s).line (by decide)
@[simp] theorem strand_slot (d : Col) (y : Slot) (w : Work) (x : Handle) (k : Slot) (s : State) : (strand d y w x s).slot k = s.slot k :=
  slot_congr (strand_line _ _ _ _ s) k
@[simp] theorem strand_isLive (d : Col) (y : Slot) (w : Work) (x : Handle) (k : Slot) (s : State) : (strand d y w x s).isLive k = s.isLive k :=
  isLive_congr (strand_line _ _ _ _ s) k
@[simp] theorem strand_placement (d : Col) (y : Slot) (w : Work) (x : Handle) (s : State) : (strand d y w x s).placement = s.placement :=
  (strand_only _ _ _ _ s).placement (by decide)
@[simp] theorem strand_age (d : Col) (y : Slot) (w : Work) (x : Handle) (s : State) : (strand d y w x s).age = s.age :=
  (strand_only _ _ _ _ s).age (by decide)
@[simp] theorem strand_manifest (d : Col) (y : Slot) (w : Work) (x : Handle) (s : State) : (strand d y w x s).manifest = s.manifest :=
  (strand_only _ _ _ _ s).manifest (by decide)
@[simp] theorem strand_survey (d : Col) (y : Slot) (w : Work) (x : Handle) (s : State) : (strand d y w x s).survey = s.survey :=
  (strand_only _ _ _ _ s).survey (by decide)
@[simp] theorem strand_surveyor (d : Col) (y : Slot) (w : Work) (x : Handle) (c : Col) (s : State) : (strand d y w x s).surveyor c = s.surveyor c :=
  surveyor_congr (strand_survey _ _ _ _ s) c

theorem breakLock_only (d : Col) (s : State) : OnlyChanges [.notice, .columns, .handoff, .lock] s (breakLock d s) := by
  unfold breakLock
  split
  · exact .refl _ _
  · split
    · exact strand_only _ _ _ _ s
    · exact (endLock_only d s).mono (by decide)
@[simp] theorem breakLock_pending (d : Col) (s : State) : (breakLock d s).pending = s.pending := (breakLock_only _ s).1
@[simp] theorem breakLock_now (d : Col) (s : State) : (breakLock d s).now = s.now := (breakLock_only _ s).2.1
@[simp] theorem breakLock_power (d : Col) (s : State) : (breakLock d s).power = s.power :=
  (breakLock_only _ s).power (by decide)
@[simp] theorem breakLock_port (d : Col) (s : State) : (breakLock d s).port = s.port :=
  (breakLock_only _ s).port (by decide)
@[simp] theorem breakLock_line (d : Col) (s : State) : (breakLock d s).line = s.line :=
  (breakLock_only _ s).line (by decide)
@[simp] theorem breakLock_slot (d : Col) (k : Slot) (s : State) : (breakLock d s).slot k = s.slot k :=
  slot_congr (breakLock_line _ s) k
@[simp] theorem breakLock_isLive (d : Col) (k : Slot) (s : State) : (breakLock d s).isLive k = s.isLive k :=
  isLive_congr (breakLock_line _ s) k
@[simp] theorem breakLock_placement (d : Col) (s : State) : (breakLock d s).placement = s.placement :=
  (breakLock_only _ s).placement (by decide)
@[simp] theorem breakLock_age (d : Col) (s : State) : (breakLock d s).age = s.age :=
  (breakLock_only _ s).age (by decide)
@[simp] theorem breakLock_manifest (d : Col) (s : State) : (breakLock d s).manifest = s.manifest :=
  (breakLock_only _ s).manifest (by decide)
@[simp] theorem breakLock_survey (d : Col) (s : State) : (breakLock d s).survey = s.survey :=
  (breakLock_only _ s).survey (by decide)
@[simp] theorem breakLock_surveyor (d : Col) (c : Col) (s : State) : (breakLock d s).surveyor c = s.surveyor c :=
  surveyor_congr (breakLock_survey _ s) c

theorem expireLock_only (d : Col) (s : State) : OnlyChanges [.notice, .columns, .handoff, .lock] s (expireLock d s) := by
  unfold expireLock
  split
  · exact .refl _ _
  · exact (breakLock_only d s).trans ⟨rfl, rfl, fun p h => by cases p <;> first | rfl | simp at h⟩
@[simp] theorem expireLock_pending (d : Col) (s : State) : (expireLock d s).pending = s.pending := (expireLock_only _ s).1
@[simp] theorem expireLock_now (d : Col) (s : State) : (expireLock d s).now = s.now := (expireLock_only _ s).2.1
@[simp] theorem expireLock_power (d : Col) (s : State) : (expireLock d s).power = s.power :=
  (expireLock_only _ s).power (by decide)
@[simp] theorem expireLock_port (d : Col) (s : State) : (expireLock d s).port = s.port :=
  (expireLock_only _ s).port (by decide)
@[simp] theorem expireLock_line (d : Col) (s : State) : (expireLock d s).line = s.line :=
  (expireLock_only _ s).line (by decide)
@[simp] theorem expireLock_slot (d : Col) (k : Slot) (s : State) : (expireLock d s).slot k = s.slot k :=
  slot_congr (expireLock_line _ s) k
@[simp] theorem expireLock_isLive (d : Col) (k : Slot) (s : State) : (expireLock d s).isLive k = s.isLive k :=
  isLive_congr (expireLock_line _ s) k
@[simp] theorem expireLock_placement (d : Col) (s : State) : (expireLock d s).placement = s.placement :=
  (expireLock_only _ s).placement (by decide)
@[simp] theorem expireLock_age (d : Col) (s : State) : (expireLock d s).age = s.age :=
  (expireLock_only _ s).age (by decide)
@[simp] theorem expireLock_manifest (d : Col) (s : State) : (expireLock d s).manifest = s.manifest :=
  (expireLock_only _ s).manifest (by decide)
@[simp] theorem expireLock_survey (d : Col) (s : State) : (expireLock d s).survey = s.survey :=
  (expireLock_only _ s).survey (by decide)
@[simp] theorem expireLock_surveyor (d : Col) (c : Col) (s : State) : (expireLock d s).surveyor c = s.surveyor c :=
  surveyor_congr (expireLock_survey _ s) c

theorem returnWork_only (w : Work) (i : RecIdx) (s : State) : OnlyChanges [.handoff, .notice] s (returnWork w i s) := by
  unfold returnWork
  split
  · exact (reserveRecord_only i s).mono (by decide)
  · exact ((updRec_only i _ s).mono (by decide)).trans (refreshBuried_only i _)
@[simp] theorem returnWork_pending (w : Work) (i : RecIdx) (s : State) : (returnWork w i s).pending = s.pending := (returnWork_only _ _ s).1
@[simp] theorem returnWork_now (w : Work) (i : RecIdx) (s : State) : (returnWork w i s).now = s.now := (returnWork_only _ _ s).2.1
@[simp] theorem returnWork_power (w : Work) (i : RecIdx) (s : State) : (returnWork w i s).power = s.power :=
  (returnWork_only _ _ s).power (by decide)
@[simp] theorem returnWork_port (w : Work) (i : RecIdx) (s : State) : (returnWork w i s).port = s.port :=
  (returnWork_only _ _ s).port (by decide)
@[simp] theorem returnWork_line (w : Work) (i : RecIdx) (s : State) : (returnWork w i s).line = s.line :=
  (returnWork_only _ _ s).line (by decide)
@[simp] theorem returnWork_slot (w : Work) (i : RecIdx) (k : Slot) (s : State) : (returnWork w i s).slot k = s.slot k :=
  slot_congr (returnWork_line _ _ s) k
@[simp] theorem returnWork_isLive (w : Work) (i : RecIdx) (k : Slot) (s : State) : (returnWork w i s).isLive k = s.isLive k :=
  isLive_congr (returnWork_line _ _ s) k
@[simp] theorem returnWork_columns (w : Work) (i : RecIdx) (s : State) : (returnWork w i s).columns = s.columns :=
  (returnWork_only _ _ s).columns (by decide)
@[simp] theorem returnWork_col (w : Work) (i : RecIdx) (c : Col) (s : State) : (returnWork w i s).col c = s.col c :=
  col_congr (returnWork_columns _ _ s) c
@[simp] theorem returnWork_placement (w : Work) (i : RecIdx) (s : State) : (returnWork w i s).placement = s.placement :=
  (returnWork_only _ _ s).placement (by decide)
@[simp] theorem returnWork_lock (w : Work) (i : RecIdx) (s : State) : (returnWork w i s).lock = s.lock :=
  (returnWork_only _ _ s).lock (by decide)
@[simp] theorem returnWork_lockOf (w : Work) (i : RecIdx) (c : Col) (s : State) : (returnWork w i s).lockOf c = s.lockOf c :=
  lockOf_congr (returnWork_lock _ _ s) c
@[simp] theorem returnWork_waitsOf (w : Work) (i : RecIdx) (c : Col) (s : State) : (returnWork w i s).waitsOf c = s.waitsOf c :=
  waitsOf_congr (returnWork_lock _ _ s) c
@[simp] theorem returnWork_mark (w : Work) (i : RecIdx) (k : Slot) (s : State) : (returnWork w i s).mark k = s.mark k :=
  mark_congr (returnWork_lock _ _ s) k
@[simp] theorem returnWork_age (w : Work) (i : RecIdx) (s : State) : (returnWork w i s).age = s.age :=
  (returnWork_only _ _ s).age (by decide)
@[simp] theorem returnWork_manifest (w : Work) (i : RecIdx) (s : State) : (returnWork w i s).manifest = s.manifest :=
  (returnWork_only _ _ s).manifest (by decide)
@[simp] theorem returnWork_survey (w : Work) (i : RecIdx) (s : State) : (returnWork w i s).survey = s.survey :=
  (returnWork_only _ _ s).survey (by decide)
@[simp] theorem returnWork_surveyor (w : Work) (i : RecIdx) (c : Col) (s : State) : (returnWork w i s).surveyor c = s.surveyor c :=
  surveyor_congr (returnWork_survey _ _ s) c

theorem dropDesignations_only (x : Slot) (s : State) : OnlyChanges [.survey] s (dropDesignations x s) :=
  ⟨rfl, rfl, fun p h => by cases p <;> first | rfl | simp at h⟩
@[simp] theorem dropDesignations_pending (x : Slot) (s : State) : (dropDesignations x s).pending = s.pending := (dropDesignations_only _ s).1
@[simp] theorem dropDesignations_now (x : Slot) (s : State) : (dropDesignations x s).now = s.now := (dropDesignations_only _ s).2.1
@[simp] theorem dropDesignations_power (x : Slot) (s : State) : (dropDesignations x s).power = s.power :=
  (dropDesignations_only _ s).power (by decide)
@[simp] theorem dropDesignations_port (x : Slot) (s : State) : (dropDesignations x s).port = s.port :=
  (dropDesignations_only _ s).port (by decide)
@[simp] theorem dropDesignations_notice (x : Slot) (s : State) : (dropDesignations x s).notice = s.notice :=
  (dropDesignations_only _ s).notice (by decide)
@[simp] theorem dropDesignations_line (x : Slot) (s : State) : (dropDesignations x s).line = s.line :=
  (dropDesignations_only _ s).line (by decide)
@[simp] theorem dropDesignations_slot (x : Slot) (k : Slot) (s : State) : (dropDesignations x s).slot k = s.slot k :=
  slot_congr (dropDesignations_line _ s) k
@[simp] theorem dropDesignations_isLive (x : Slot) (k : Slot) (s : State) : (dropDesignations x s).isLive k = s.isLive k :=
  isLive_congr (dropDesignations_line _ s) k
@[simp] theorem dropDesignations_columns (x : Slot) (s : State) : (dropDesignations x s).columns = s.columns :=
  (dropDesignations_only _ s).columns (by decide)
@[simp] theorem dropDesignations_col (x : Slot) (c : Col) (s : State) : (dropDesignations x s).col c = s.col c :=
  col_congr (dropDesignations_columns _ s) c
@[simp] theorem dropDesignations_handoff (x : Slot) (s : State) : (dropDesignations x s).handoff = s.handoff :=
  (dropDesignations_only _ s).handoff (by decide)
@[simp] theorem dropDesignations_entry (x : Slot) (j : RecIdx) (s : State) : (dropDesignations x s).entry j = s.entry j :=
  entry_congr (dropDesignations_handoff _ s) j
@[simp] theorem dropDesignations_live (x : Slot) (j : RecIdx) (s : State) : (dropDesignations x s).live j = s.live j :=
  live_congr (dropDesignations_handoff _ s) j
@[simp] theorem dropDesignations_handleAt (x : Slot) (j : RecIdx) (s : State) : (dropDesignations x s).handleAt j = s.handleAt j :=
  handleAt_congr (dropDesignations_handoff _ s) j
@[simp] theorem dropDesignations_named (x : Slot) (h : Handle) (s : State) : (dropDesignations x s).named h = s.named h :=
  named_congr (dropDesignations_handoff _ s) h
@[simp] theorem dropDesignations_placement (x : Slot) (s : State) : (dropDesignations x s).placement = s.placement :=
  (dropDesignations_only _ s).placement (by decide)
@[simp] theorem dropDesignations_lock (x : Slot) (s : State) : (dropDesignations x s).lock = s.lock :=
  (dropDesignations_only _ s).lock (by decide)
@[simp] theorem dropDesignations_lockOf (x : Slot) (c : Col) (s : State) : (dropDesignations x s).lockOf c = s.lockOf c :=
  lockOf_congr (dropDesignations_lock _ s) c
@[simp] theorem dropDesignations_waitsOf (x : Slot) (c : Col) (s : State) : (dropDesignations x s).waitsOf c = s.waitsOf c :=
  waitsOf_congr (dropDesignations_lock _ s) c
@[simp] theorem dropDesignations_mark (x : Slot) (k : Slot) (s : State) : (dropDesignations x s).mark k = s.mark k :=
  mark_congr (dropDesignations_lock _ s) k
@[simp] theorem dropDesignations_age (x : Slot) (s : State) : (dropDesignations x s).age = s.age :=
  (dropDesignations_only _ s).age (by decide)
@[simp] theorem dropDesignations_manifest (x : Slot) (s : State) : (dropDesignations x s).manifest = s.manifest :=
  (dropDesignations_only _ s).manifest (by decide)

theorem dropPromises_only (x : Slot) (s : State) : OnlyChanges [.handoff] s (dropPromises x s) :=
  forEach_only (fun i u => parkRecord_only i u) _ s
@[simp] theorem dropPromises_pending (x : Slot) (s : State) : (dropPromises x s).pending = s.pending := (dropPromises_only _ s).1
@[simp] theorem dropPromises_now (x : Slot) (s : State) : (dropPromises x s).now = s.now := (dropPromises_only _ s).2.1
@[simp] theorem dropPromises_power (x : Slot) (s : State) : (dropPromises x s).power = s.power :=
  (dropPromises_only _ s).power (by decide)
@[simp] theorem dropPromises_port (x : Slot) (s : State) : (dropPromises x s).port = s.port :=
  (dropPromises_only _ s).port (by decide)
@[simp] theorem dropPromises_notice (x : Slot) (s : State) : (dropPromises x s).notice = s.notice :=
  (dropPromises_only _ s).notice (by decide)
@[simp] theorem dropPromises_line (x : Slot) (s : State) : (dropPromises x s).line = s.line :=
  (dropPromises_only _ s).line (by decide)
@[simp] theorem dropPromises_slot (x : Slot) (k : Slot) (s : State) : (dropPromises x s).slot k = s.slot k :=
  slot_congr (dropPromises_line _ s) k
@[simp] theorem dropPromises_isLive (x : Slot) (k : Slot) (s : State) : (dropPromises x s).isLive k = s.isLive k :=
  isLive_congr (dropPromises_line _ s) k
@[simp] theorem dropPromises_columns (x : Slot) (s : State) : (dropPromises x s).columns = s.columns :=
  (dropPromises_only _ s).columns (by decide)
@[simp] theorem dropPromises_col (x : Slot) (c : Col) (s : State) : (dropPromises x s).col c = s.col c :=
  col_congr (dropPromises_columns _ s) c
@[simp] theorem dropPromises_placement (x : Slot) (s : State) : (dropPromises x s).placement = s.placement :=
  (dropPromises_only _ s).placement (by decide)
@[simp] theorem dropPromises_lock (x : Slot) (s : State) : (dropPromises x s).lock = s.lock :=
  (dropPromises_only _ s).lock (by decide)
@[simp] theorem dropPromises_lockOf (x : Slot) (c : Col) (s : State) : (dropPromises x s).lockOf c = s.lockOf c :=
  lockOf_congr (dropPromises_lock _ s) c
@[simp] theorem dropPromises_waitsOf (x : Slot) (c : Col) (s : State) : (dropPromises x s).waitsOf c = s.waitsOf c :=
  waitsOf_congr (dropPromises_lock _ s) c
@[simp] theorem dropPromises_mark (x : Slot) (k : Slot) (s : State) : (dropPromises x s).mark k = s.mark k :=
  mark_congr (dropPromises_lock _ s) k
@[simp] theorem dropPromises_age (x : Slot) (s : State) : (dropPromises x s).age = s.age :=
  (dropPromises_only _ s).age (by decide)
@[simp] theorem dropPromises_manifest (x : Slot) (s : State) : (dropPromises x s).manifest = s.manifest :=
  (dropPromises_only _ s).manifest (by decide)
@[simp] theorem dropPromises_survey (x : Slot) (s : State) : (dropPromises x s).survey = s.survey :=
  (dropPromises_only _ s).survey (by decide)
@[simp] theorem dropPromises_surveyor (x : Slot) (c : Col) (s : State) : (dropPromises x s).surveyor c = s.surveyor c :=
  surveyor_congr (dropPromises_survey _ s) c

theorem endSurveyLockOf_only (d : Col) (x : Slot) (s : State) : OnlyChanges [.lock] s (endSurveyLockOf d x s) := by
  unfold endSurveyLockOf
  split
  · exact endLock_only d s
  · exact .refl _ _
@[simp] theorem endSurveyLockOf_pending (d : Col) (x : Slot) (s : State) : (endSurveyLockOf d x s).pending = s.pending := (endSurveyLockOf_only _ _ s).1
@[simp] theorem endSurveyLockOf_now (d : Col) (x : Slot) (s : State) : (endSurveyLockOf d x s).now = s.now := (endSurveyLockOf_only _ _ s).2.1
@[simp] theorem endSurveyLockOf_power (d : Col) (x : Slot) (s : State) : (endSurveyLockOf d x s).power = s.power :=
  (endSurveyLockOf_only _ _ s).power (by decide)
@[simp] theorem endSurveyLockOf_port (d : Col) (x : Slot) (s : State) : (endSurveyLockOf d x s).port = s.port :=
  (endSurveyLockOf_only _ _ s).port (by decide)
@[simp] theorem endSurveyLockOf_notice (d : Col) (x : Slot) (s : State) : (endSurveyLockOf d x s).notice = s.notice :=
  (endSurveyLockOf_only _ _ s).notice (by decide)
@[simp] theorem endSurveyLockOf_line (d : Col) (x : Slot) (s : State) : (endSurveyLockOf d x s).line = s.line :=
  (endSurveyLockOf_only _ _ s).line (by decide)
@[simp] theorem endSurveyLockOf_slot (d : Col) (x : Slot) (k : Slot) (s : State) : (endSurveyLockOf d x s).slot k = s.slot k :=
  slot_congr (endSurveyLockOf_line _ _ s) k
@[simp] theorem endSurveyLockOf_isLive (d : Col) (x : Slot) (k : Slot) (s : State) : (endSurveyLockOf d x s).isLive k = s.isLive k :=
  isLive_congr (endSurveyLockOf_line _ _ s) k
@[simp] theorem endSurveyLockOf_columns (d : Col) (x : Slot) (s : State) : (endSurveyLockOf d x s).columns = s.columns :=
  (endSurveyLockOf_only _ _ s).columns (by decide)
@[simp] theorem endSurveyLockOf_col (d : Col) (x : Slot) (c : Col) (s : State) : (endSurveyLockOf d x s).col c = s.col c :=
  col_congr (endSurveyLockOf_columns _ _ s) c
@[simp] theorem endSurveyLockOf_handoff (d : Col) (x : Slot) (s : State) : (endSurveyLockOf d x s).handoff = s.handoff :=
  (endSurveyLockOf_only _ _ s).handoff (by decide)
@[simp] theorem endSurveyLockOf_entry (d : Col) (x : Slot) (j : RecIdx) (s : State) : (endSurveyLockOf d x s).entry j = s.entry j :=
  entry_congr (endSurveyLockOf_handoff _ _ s) j
@[simp] theorem endSurveyLockOf_live (d : Col) (x : Slot) (j : RecIdx) (s : State) : (endSurveyLockOf d x s).live j = s.live j :=
  live_congr (endSurveyLockOf_handoff _ _ s) j
@[simp] theorem endSurveyLockOf_handleAt (d : Col) (x : Slot) (j : RecIdx) (s : State) : (endSurveyLockOf d x s).handleAt j = s.handleAt j :=
  handleAt_congr (endSurveyLockOf_handoff _ _ s) j
@[simp] theorem endSurveyLockOf_named (d : Col) (x : Slot) (h : Handle) (s : State) : (endSurveyLockOf d x s).named h = s.named h :=
  named_congr (endSurveyLockOf_handoff _ _ s) h
@[simp] theorem endSurveyLockOf_placement (d : Col) (x : Slot) (s : State) : (endSurveyLockOf d x s).placement = s.placement :=
  (endSurveyLockOf_only _ _ s).placement (by decide)
@[simp] theorem endSurveyLockOf_age (d : Col) (x : Slot) (s : State) : (endSurveyLockOf d x s).age = s.age :=
  (endSurveyLockOf_only _ _ s).age (by decide)
@[simp] theorem endSurveyLockOf_manifest (d : Col) (x : Slot) (s : State) : (endSurveyLockOf d x s).manifest = s.manifest :=
  (endSurveyLockOf_only _ _ s).manifest (by decide)
@[simp] theorem endSurveyLockOf_survey (d : Col) (x : Slot) (s : State) : (endSurveyLockOf d x s).survey = s.survey :=
  (endSurveyLockOf_only _ _ s).survey (by decide)
@[simp] theorem endSurveyLockOf_surveyor (d : Col) (x : Slot) (c : Col) (s : State) : (endSurveyLockOf d x s).surveyor c = s.surveyor c :=
  surveyor_congr (endSurveyLockOf_survey _ _ s) c

theorem settleColumn_only (d : Col) (s : State) : OnlyChanges [.columns, .survey] s (settleColumn d s) :=
  ⟨rfl, rfl, fun p h => by cases p <;> first | rfl | simp at h⟩
@[simp] theorem settleColumn_pending (d : Col) (s : State) : (settleColumn d s).pending = s.pending := (settleColumn_only _ s).1
@[simp] theorem settleColumn_now (d : Col) (s : State) : (settleColumn d s).now = s.now := (settleColumn_only _ s).2.1
@[simp] theorem settleColumn_power (d : Col) (s : State) : (settleColumn d s).power = s.power :=
  (settleColumn_only _ s).power (by decide)
@[simp] theorem settleColumn_port (d : Col) (s : State) : (settleColumn d s).port = s.port :=
  (settleColumn_only _ s).port (by decide)
@[simp] theorem settleColumn_notice (d : Col) (s : State) : (settleColumn d s).notice = s.notice :=
  (settleColumn_only _ s).notice (by decide)
@[simp] theorem settleColumn_line (d : Col) (s : State) : (settleColumn d s).line = s.line :=
  (settleColumn_only _ s).line (by decide)
@[simp] theorem settleColumn_slot (d : Col) (k : Slot) (s : State) : (settleColumn d s).slot k = s.slot k :=
  slot_congr (settleColumn_line _ s) k
@[simp] theorem settleColumn_isLive (d : Col) (k : Slot) (s : State) : (settleColumn d s).isLive k = s.isLive k :=
  isLive_congr (settleColumn_line _ s) k
@[simp] theorem settleColumn_handoff (d : Col) (s : State) : (settleColumn d s).handoff = s.handoff :=
  (settleColumn_only _ s).handoff (by decide)
@[simp] theorem settleColumn_entry (d : Col) (j : RecIdx) (s : State) : (settleColumn d s).entry j = s.entry j :=
  entry_congr (settleColumn_handoff _ s) j
@[simp] theorem settleColumn_live (d : Col) (j : RecIdx) (s : State) : (settleColumn d s).live j = s.live j :=
  live_congr (settleColumn_handoff _ s) j
@[simp] theorem settleColumn_handleAt (d : Col) (j : RecIdx) (s : State) : (settleColumn d s).handleAt j = s.handleAt j :=
  handleAt_congr (settleColumn_handoff _ s) j
@[simp] theorem settleColumn_named (d : Col) (h : Handle) (s : State) : (settleColumn d s).named h = s.named h :=
  named_congr (settleColumn_handoff _ s) h
@[simp] theorem settleColumn_placement (d : Col) (s : State) : (settleColumn d s).placement = s.placement :=
  (settleColumn_only _ s).placement (by decide)
@[simp] theorem settleColumn_lock (d : Col) (s : State) : (settleColumn d s).lock = s.lock :=
  (settleColumn_only _ s).lock (by decide)
@[simp] theorem settleColumn_lockOf (d : Col) (c : Col) (s : State) : (settleColumn d s).lockOf c = s.lockOf c :=
  lockOf_congr (settleColumn_lock _ s) c
@[simp] theorem settleColumn_waitsOf (d : Col) (c : Col) (s : State) : (settleColumn d s).waitsOf c = s.waitsOf c :=
  waitsOf_congr (settleColumn_lock _ s) c
@[simp] theorem settleColumn_mark (d : Col) (k : Slot) (s : State) : (settleColumn d s).mark k = s.mark k :=
  mark_congr (settleColumn_lock _ s) k
@[simp] theorem settleColumn_age (d : Col) (s : State) : (settleColumn d s).age = s.age :=
  (settleColumn_only _ s).age (by decide)
@[simp] theorem settleColumn_manifest (d : Col) (s : State) : (settleColumn d s).manifest = s.manifest :=
  (settleColumn_only _ s).manifest (by decide)

theorem acceptLeave_only (x : Slot) (s : State) : OnlyChanges [.line, .handoff, .lock, .survey] s (acceptLeave x s) := by
  unfold acceptLeave
  dsimp only
  refine OnlyChanges.trans (t := dropDesignations x ((dropPromises x (s.dropWaiter x)).setMark x none)) ?_
    ((setSlot_only _ _ _).mono (by decide))
  refine OnlyChanges.trans ?_ ((dropDesignations_only _ _).mono (by decide))
  refine OnlyChanges.trans ?_ ((setMark_only _ _ _).mono (by decide))
  exact ((State.dropWaiter_only x s).mono (by decide)).trans ((dropPromises_only x _).mono (by decide))
@[simp] theorem acceptLeave_pending (x : Slot) (s : State) : (acceptLeave x s).pending = s.pending := (acceptLeave_only _ s).1
@[simp] theorem acceptLeave_now (x : Slot) (s : State) : (acceptLeave x s).now = s.now := (acceptLeave_only _ s).2.1
@[simp] theorem acceptLeave_power (x : Slot) (s : State) : (acceptLeave x s).power = s.power :=
  (acceptLeave_only _ s).power (by decide)
@[simp] theorem acceptLeave_port (x : Slot) (s : State) : (acceptLeave x s).port = s.port :=
  (acceptLeave_only _ s).port (by decide)
@[simp] theorem acceptLeave_notice (x : Slot) (s : State) : (acceptLeave x s).notice = s.notice :=
  (acceptLeave_only _ s).notice (by decide)
@[simp] theorem acceptLeave_columns (x : Slot) (s : State) : (acceptLeave x s).columns = s.columns :=
  (acceptLeave_only _ s).columns (by decide)
@[simp] theorem acceptLeave_col (x : Slot) (c : Col) (s : State) : (acceptLeave x s).col c = s.col c :=
  col_congr (acceptLeave_columns _ s) c
@[simp] theorem acceptLeave_placement (x : Slot) (s : State) : (acceptLeave x s).placement = s.placement :=
  (acceptLeave_only _ s).placement (by decide)
@[simp] theorem acceptLeave_age (x : Slot) (s : State) : (acceptLeave x s).age = s.age :=
  (acceptLeave_only _ s).age (by decide)
@[simp] theorem acceptLeave_manifest (x : Slot) (s : State) : (acceptLeave x s).manifest = s.manifest :=
  (acceptLeave_only _ s).manifest (by decide)

theorem takeCondition_only (x : Slot) (s : State) : OnlyChanges [.notice, .columns, .handoff, .lock] s (takeCondition x s) := by
  unfold takeCondition
  split
  · split
    · exact expireLock_only _ s
    · exact (State.dropWaiter_only x s).mono (by decide)
  · exact .refl _ _
@[simp] theorem takeCondition_pending (x : Slot) (s : State) : (takeCondition x s).pending = s.pending := (takeCondition_only _ s).1
@[simp] theorem takeCondition_now (x : Slot) (s : State) : (takeCondition x s).now = s.now := (takeCondition_only _ s).2.1
@[simp] theorem takeCondition_power (x : Slot) (s : State) : (takeCondition x s).power = s.power :=
  (takeCondition_only _ s).power (by decide)
@[simp] theorem takeCondition_port (x : Slot) (s : State) : (takeCondition x s).port = s.port :=
  (takeCondition_only _ s).port (by decide)
@[simp] theorem takeCondition_line (x : Slot) (s : State) : (takeCondition x s).line = s.line :=
  (takeCondition_only _ s).line (by decide)
@[simp] theorem takeCondition_slot (x : Slot) (k : Slot) (s : State) : (takeCondition x s).slot k = s.slot k :=
  slot_congr (takeCondition_line _ s) k
@[simp] theorem takeCondition_isLive (x : Slot) (k : Slot) (s : State) : (takeCondition x s).isLive k = s.isLive k :=
  isLive_congr (takeCondition_line _ s) k
@[simp] theorem takeCondition_placement (x : Slot) (s : State) : (takeCondition x s).placement = s.placement :=
  (takeCondition_only _ s).placement (by decide)
@[simp] theorem takeCondition_age (x : Slot) (s : State) : (takeCondition x s).age = s.age :=
  (takeCondition_only _ s).age (by decide)
@[simp] theorem takeCondition_manifest (x : Slot) (s : State) : (takeCondition x s).manifest = s.manifest :=
  (takeCondition_only _ s).manifest (by decide)
@[simp] theorem takeCondition_survey (x : Slot) (s : State) : (takeCondition x s).survey = s.survey :=
  (takeCondition_only _ s).survey (by decide)
@[simp] theorem takeCondition_surveyor (x : Slot) (c : Col) (s : State) : (takeCondition x s).surveyor c = s.surveyor c :=
  surveyor_congr (takeCondition_survey _ s) c

theorem loseHoldings_only (x : Slot) (s : State) : OnlyChanges [.notice, .columns, .handoff, .lock, .manifest, .survey] s (loseHoldings x s) := by
  have key : ∀ u, OnlyChanges [.notice, .columns, .handoff, .lock, .manifest, .survey] s u →
      OnlyChanges [.notice, .columns, .handoff, .lock, .manifest, .survey] s
        ((dropDesignations x (dropPromises x (forEach
          ((u.dropWaiter x).recordsWhere fun r => r.state = .reserved && r.releaser = some x)
            (fun i => retire i .unplaced) (u.dropWaiter x)))).setMark x none) := by
    intro u e
    refine (e.trans ((State.dropWaiter_only x u).mono (by decide))).trans ?_
    generalize u.dropWaiter x = v
    generalize (v.recordsWhere fun r => r.state = .reserved && r.releaser = some x) = l
    refine ((forEach_only (fun i u => retire_only i .unplaced u) l v).mono (by decide)).trans ?_
    refine ((dropPromises_only x _).mono (by decide)).trans (((dropDesignations_only x _).mono (by decide)).trans ?_)
    exact ⟨rfl, rfl, fun p h => by cases p <;> first | rfl | simp at h⟩
  refine key _ ?_
  split
  · exact (breakLock_only _ s).mono (by decide)
  · exact .refl _ _
@[simp] theorem loseHoldings_pending (x : Slot) (s : State) : (loseHoldings x s).pending = s.pending := (loseHoldings_only _ s).1
@[simp] theorem loseHoldings_now (x : Slot) (s : State) : (loseHoldings x s).now = s.now := (loseHoldings_only _ s).2.1
@[simp] theorem loseHoldings_power (x : Slot) (s : State) : (loseHoldings x s).power = s.power :=
  (loseHoldings_only _ s).power (by decide)
@[simp] theorem loseHoldings_port (x : Slot) (s : State) : (loseHoldings x s).port = s.port :=
  (loseHoldings_only _ s).port (by decide)
@[simp] theorem loseHoldings_line (x : Slot) (s : State) : (loseHoldings x s).line = s.line :=
  (loseHoldings_only _ s).line (by decide)
@[simp] theorem loseHoldings_slot (x : Slot) (k : Slot) (s : State) : (loseHoldings x s).slot k = s.slot k :=
  slot_congr (loseHoldings_line _ s) k
@[simp] theorem loseHoldings_isLive (x : Slot) (k : Slot) (s : State) : (loseHoldings x s).isLive k = s.isLive k :=
  isLive_congr (loseHoldings_line _ s) k
@[simp] theorem loseHoldings_placement (x : Slot) (s : State) : (loseHoldings x s).placement = s.placement :=
  (loseHoldings_only _ s).placement (by decide)
@[simp] theorem loseHoldings_age (x : Slot) (s : State) : (loseHoldings x s).age = s.age :=
  (loseHoldings_only _ s).age (by decide)

/-! ### Rounds -/

theorem passBlocks_only (l : List Block) (s : State) : OnlyChanges [.notice] s (passBlocks l s).1 := by
  induction l generalizing s with
  | nil => exact .refl _ _
  | cons b bs ih =>
    unfold passBlocks
    split
    · split
      · exact .refl _ _
      · refine OnlyChanges.trans ?_ (ih _)
        unfold blockEnd
        split
        · exact raiseBlockEnd_only b s
        · exact .refl _ _
    · exact ih s

theorem sendCall_only (x : Slot) (q : CallKind) (s : State) : OnlyChanges [.line] s (sendCall x q s) := by
  cases q <;> exact ⟨rfl, rfl, fun p h => by cases p <;> first | rfl | simp at h⟩
@[simp] theorem sendCall_pending (x : Slot) (q : CallKind) (s : State) : (sendCall x q s).pending = s.pending := (sendCall_only _ _ s).1
@[simp] theorem sendCall_now (x : Slot) (q : CallKind) (s : State) : (sendCall x q s).now = s.now := (sendCall_only _ _ s).2.1
@[simp] theorem sendCall_power (x : Slot) (q : CallKind) (s : State) : (sendCall x q s).power = s.power :=
  (sendCall_only _ _ s).power (by decide)
@[simp] theorem sendCall_port (x : Slot) (q : CallKind) (s : State) : (sendCall x q s).port = s.port :=
  (sendCall_only _ _ s).port (by decide)
@[simp] theorem sendCall_notice (x : Slot) (q : CallKind) (s : State) : (sendCall x q s).notice = s.notice :=
  (sendCall_only _ _ s).notice (by decide)
@[simp] theorem sendCall_columns (x : Slot) (q : CallKind) (s : State) : (sendCall x q s).columns = s.columns :=
  (sendCall_only _ _ s).columns (by decide)
@[simp] theorem sendCall_col (x : Slot) (q : CallKind) (c : Col) (s : State) : (sendCall x q s).col c = s.col c :=
  col_congr (sendCall_columns _ _ s) c
@[simp] theorem sendCall_handoff (x : Slot) (q : CallKind) (s : State) : (sendCall x q s).handoff = s.handoff :=
  (sendCall_only _ _ s).handoff (by decide)
@[simp] theorem sendCall_entry (x : Slot) (q : CallKind) (j : RecIdx) (s : State) : (sendCall x q s).entry j = s.entry j :=
  entry_congr (sendCall_handoff _ _ s) j
@[simp] theorem sendCall_live (x : Slot) (q : CallKind) (j : RecIdx) (s : State) : (sendCall x q s).live j = s.live j :=
  live_congr (sendCall_handoff _ _ s) j
@[simp] theorem sendCall_handleAt (x : Slot) (q : CallKind) (j : RecIdx) (s : State) : (sendCall x q s).handleAt j = s.handleAt j :=
  handleAt_congr (sendCall_handoff _ _ s) j
@[simp] theorem sendCall_named (x : Slot) (q : CallKind) (h : Handle) (s : State) : (sendCall x q s).named h = s.named h :=
  named_congr (sendCall_handoff _ _ s) h
@[simp] theorem sendCall_placement (x : Slot) (q : CallKind) (s : State) : (sendCall x q s).placement = s.placement :=
  (sendCall_only _ _ s).placement (by decide)
@[simp] theorem sendCall_lock (x : Slot) (q : CallKind) (s : State) : (sendCall x q s).lock = s.lock :=
  (sendCall_only _ _ s).lock (by decide)
@[simp] theorem sendCall_lockOf (x : Slot) (q : CallKind) (c : Col) (s : State) : (sendCall x q s).lockOf c = s.lockOf c :=
  lockOf_congr (sendCall_lock _ _ s) c
@[simp] theorem sendCall_waitsOf (x : Slot) (q : CallKind) (c : Col) (s : State) : (sendCall x q s).waitsOf c = s.waitsOf c :=
  waitsOf_congr (sendCall_lock _ _ s) c
@[simp] theorem sendCall_mark (x : Slot) (q : CallKind) (k : Slot) (s : State) : (sendCall x q s).mark k = s.mark k :=
  mark_congr (sendCall_lock _ _ s) k
@[simp] theorem sendCall_age (x : Slot) (q : CallKind) (s : State) : (sendCall x q s).age = s.age :=
  (sendCall_only _ _ s).age (by decide)
@[simp] theorem sendCall_manifest (x : Slot) (q : CallKind) (s : State) : (sendCall x q s).manifest = s.manifest :=
  (sendCall_only _ _ s).manifest (by decide)
@[simp] theorem sendCall_survey (x : Slot) (q : CallKind) (s : State) : (sendCall x q s).survey = s.survey :=
  (sendCall_only _ _ s).survey (by decide)
@[simp] theorem sendCall_surveyor (x : Slot) (q : CallKind) (c : Col) (s : State) : (sendCall x q s).surveyor c = s.surveyor c :=
  surveyor_congr (sendCall_survey _ _ s) c

theorem blockEnd_only (b : Block) (s : State) : OnlyChanges [.notice] s (blockEnd b s) := by
  unfold blockEnd
  split
  · exact raiseBlockEnd_only b s
  · exact .refl _ _
@[simp] theorem blockEnd_pending (b : Block) (s : State) : (blockEnd b s).pending = s.pending := (blockEnd_only _ s).1
@[simp] theorem blockEnd_now (b : Block) (s : State) : (blockEnd b s).now = s.now := (blockEnd_only _ s).2.1
@[simp] theorem blockEnd_power (b : Block) (s : State) : (blockEnd b s).power = s.power :=
  (blockEnd_only _ s).power (by decide)
@[simp] theorem blockEnd_port (b : Block) (s : State) : (blockEnd b s).port = s.port :=
  (blockEnd_only _ s).port (by decide)
@[simp] theorem blockEnd_line (b : Block) (s : State) : (blockEnd b s).line = s.line :=
  (blockEnd_only _ s).line (by decide)
@[simp] theorem blockEnd_slot (b : Block) (k : Slot) (s : State) : (blockEnd b s).slot k = s.slot k :=
  slot_congr (blockEnd_line _ s) k
@[simp] theorem blockEnd_isLive (b : Block) (k : Slot) (s : State) : (blockEnd b s).isLive k = s.isLive k :=
  isLive_congr (blockEnd_line _ s) k
@[simp] theorem blockEnd_columns (b : Block) (s : State) : (blockEnd b s).columns = s.columns :=
  (blockEnd_only _ s).columns (by decide)
@[simp] theorem blockEnd_col (b : Block) (c : Col) (s : State) : (blockEnd b s).col c = s.col c :=
  col_congr (blockEnd_columns _ s) c
@[simp] theorem blockEnd_handoff (b : Block) (s : State) : (blockEnd b s).handoff = s.handoff :=
  (blockEnd_only _ s).handoff (by decide)
@[simp] theorem blockEnd_entry (b : Block) (j : RecIdx) (s : State) : (blockEnd b s).entry j = s.entry j :=
  entry_congr (blockEnd_handoff _ s) j
@[simp] theorem blockEnd_live (b : Block) (j : RecIdx) (s : State) : (blockEnd b s).live j = s.live j :=
  live_congr (blockEnd_handoff _ s) j
@[simp] theorem blockEnd_handleAt (b : Block) (j : RecIdx) (s : State) : (blockEnd b s).handleAt j = s.handleAt j :=
  handleAt_congr (blockEnd_handoff _ s) j
@[simp] theorem blockEnd_named (b : Block) (h : Handle) (s : State) : (blockEnd b s).named h = s.named h :=
  named_congr (blockEnd_handoff _ s) h
@[simp] theorem blockEnd_placement (b : Block) (s : State) : (blockEnd b s).placement = s.placement :=
  (blockEnd_only _ s).placement (by decide)
@[simp] theorem blockEnd_lock (b : Block) (s : State) : (blockEnd b s).lock = s.lock :=
  (blockEnd_only _ s).lock (by decide)
@[simp] theorem blockEnd_lockOf (b : Block) (c : Col) (s : State) : (blockEnd b s).lockOf c = s.lockOf c :=
  lockOf_congr (blockEnd_lock _ s) c
@[simp] theorem blockEnd_waitsOf (b : Block) (c : Col) (s : State) : (blockEnd b s).waitsOf c = s.waitsOf c :=
  waitsOf_congr (blockEnd_lock _ s) c
@[simp] theorem blockEnd_mark (b : Block) (k : Slot) (s : State) : (blockEnd b s).mark k = s.mark k :=
  mark_congr (blockEnd_lock _ s) k
@[simp] theorem blockEnd_age (b : Block) (s : State) : (blockEnd b s).age = s.age :=
  (blockEnd_only _ s).age (by decide)
@[simp] theorem blockEnd_manifest (b : Block) (s : State) : (blockEnd b s).manifest = s.manifest :=
  (blockEnd_only _ s).manifest (by decide)
@[simp] theorem blockEnd_survey (b : Block) (s : State) : (blockEnd b s).survey = s.survey :=
  (blockEnd_only _ s).survey (by decide)
@[simp] theorem blockEnd_surveyor (b : Block) (c : Col) (s : State) : (blockEnd b s).surveyor c = s.surveyor c :=
  surveyor_congr (blockEnd_survey _ s) c

theorem openRound_only (s : State) : OnlyChanges [.line] s (openRound s) :=
  ⟨rfl, rfl, fun p h => by cases p <;> first | rfl | simp at h⟩
@[simp] theorem openRound_pending (s : State) : (openRound s).pending = s.pending := (openRound_only s).1
@[simp] theorem openRound_now (s : State) : (openRound s).now = s.now := (openRound_only s).2.1
@[simp] theorem openRound_power (s : State) : (openRound s).power = s.power :=
  (openRound_only s).power (by decide)
@[simp] theorem openRound_port (s : State) : (openRound s).port = s.port :=
  (openRound_only s).port (by decide)
@[simp] theorem openRound_notice (s : State) : (openRound s).notice = s.notice :=
  (openRound_only s).notice (by decide)
@[simp] theorem openRound_columns (s : State) : (openRound s).columns = s.columns :=
  (openRound_only s).columns (by decide)
@[simp] theorem openRound_col (c : Col) (s : State) : (openRound s).col c = s.col c :=
  col_congr (openRound_columns s) c
@[simp] theorem openRound_handoff (s : State) : (openRound s).handoff = s.handoff :=
  (openRound_only s).handoff (by decide)
@[simp] theorem openRound_entry (j : RecIdx) (s : State) : (openRound s).entry j = s.entry j :=
  entry_congr (openRound_handoff s) j
@[simp] theorem openRound_live (j : RecIdx) (s : State) : (openRound s).live j = s.live j :=
  live_congr (openRound_handoff s) j
@[simp] theorem openRound_handleAt (j : RecIdx) (s : State) : (openRound s).handleAt j = s.handleAt j :=
  handleAt_congr (openRound_handoff s) j
@[simp] theorem openRound_named (h : Handle) (s : State) : (openRound s).named h = s.named h :=
  named_congr (openRound_handoff s) h
@[simp] theorem openRound_placement (s : State) : (openRound s).placement = s.placement :=
  (openRound_only s).placement (by decide)
@[simp] theorem openRound_lock (s : State) : (openRound s).lock = s.lock :=
  (openRound_only s).lock (by decide)
@[simp] theorem openRound_lockOf (c : Col) (s : State) : (openRound s).lockOf c = s.lockOf c :=
  lockOf_congr (openRound_lock s) c
@[simp] theorem openRound_waitsOf (c : Col) (s : State) : (openRound s).waitsOf c = s.waitsOf c :=
  waitsOf_congr (openRound_lock s) c
@[simp] theorem openRound_mark (k : Slot) (s : State) : (openRound s).mark k = s.mark k :=
  mark_congr (openRound_lock s) k
@[simp] theorem openRound_age (s : State) : (openRound s).age = s.age :=
  (openRound_only s).age (by decide)
@[simp] theorem openRound_manifest (s : State) : (openRound s).manifest = s.manifest :=
  (openRound_only s).manifest (by decide)
@[simp] theorem openRound_survey (s : State) : (openRound s).survey = s.survey :=
  (openRound_only s).survey (by decide)
@[simp] theorem openRound_surveyor (c : Col) (s : State) : (openRound s).surveyor c = s.surveyor c :=
  surveyor_congr (openRound_survey s) c

theorem startRound_only (s : State) : OnlyChanges [.line, .notice] s (startRound s) := by
  have e : OnlyChanges [.line, .notice] s (passBlocks allBlocks (openRound s)).1 :=
    ((openRound_only s).mono (by decide)).trans ((passBlocks_only _ _).mono (by decide))
  unfold startRound
  split
  · next u k q h => rw [h] at e; exact e.trans ((sendCall_only k q u).mono (by decide))
  · next u h => rw [h] at e; exact e.trans ⟨rfl, rfl, fun p h => by cases p <;> first | rfl | simp at h⟩
@[simp] theorem startRound_pending (s : State) : (startRound s).pending = s.pending := (startRound_only s).1
@[simp] theorem startRound_now (s : State) : (startRound s).now = s.now := (startRound_only s).2.1
@[simp] theorem startRound_power (s : State) : (startRound s).power = s.power :=
  (startRound_only s).power (by decide)
@[simp] theorem startRound_port (s : State) : (startRound s).port = s.port :=
  (startRound_only s).port (by decide)
@[simp] theorem startRound_columns (s : State) : (startRound s).columns = s.columns :=
  (startRound_only s).columns (by decide)
@[simp] theorem startRound_col (c : Col) (s : State) : (startRound s).col c = s.col c :=
  col_congr (startRound_columns s) c
@[simp] theorem startRound_handoff (s : State) : (startRound s).handoff = s.handoff :=
  (startRound_only s).handoff (by decide)
@[simp] theorem startRound_entry (j : RecIdx) (s : State) : (startRound s).entry j = s.entry j :=
  entry_congr (startRound_handoff s) j
@[simp] theorem startRound_live (j : RecIdx) (s : State) : (startRound s).live j = s.live j :=
  live_congr (startRound_handoff s) j
@[simp] theorem startRound_handleAt (j : RecIdx) (s : State) : (startRound s).handleAt j = s.handleAt j :=
  handleAt_congr (startRound_handoff s) j
@[simp] theorem startRound_named (h : Handle) (s : State) : (startRound s).named h = s.named h :=
  named_congr (startRound_handoff s) h
@[simp] theorem startRound_placement (s : State) : (startRound s).placement = s.placement :=
  (startRound_only s).placement (by decide)
@[simp] theorem startRound_lock (s : State) : (startRound s).lock = s.lock :=
  (startRound_only s).lock (by decide)
@[simp] theorem startRound_lockOf (c : Col) (s : State) : (startRound s).lockOf c = s.lockOf c :=
  lockOf_congr (startRound_lock s) c
@[simp] theorem startRound_waitsOf (c : Col) (s : State) : (startRound s).waitsOf c = s.waitsOf c :=
  waitsOf_congr (startRound_lock s) c
@[simp] theorem startRound_mark (k : Slot) (s : State) : (startRound s).mark k = s.mark k :=
  mark_congr (startRound_lock s) k
@[simp] theorem startRound_age (s : State) : (startRound s).age = s.age :=
  (startRound_only s).age (by decide)
@[simp] theorem startRound_manifest (s : State) : (startRound s).manifest = s.manifest :=
  (startRound_only s).manifest (by decide)
@[simp] theorem startRound_survey (s : State) : (startRound s).survey = s.survey :=
  (startRound_only s).survey (by decide)
@[simp] theorem startRound_surveyor (c : Col) (s : State) : (startRound s).surveyor c = s.surveyor c :=
  surveyor_congr (startRound_survey s) c

theorem measureRound_only (s : State) : OnlyChanges [.line] s (measureRound s) :=
  ⟨rfl, rfl, fun p h => by cases p <;> first | rfl | simp at h⟩
@[simp] theorem measureRound_pending (s : State) : (measureRound s).pending = s.pending := (measureRound_only s).1
@[simp] theorem measureRound_now (s : State) : (measureRound s).now = s.now := (measureRound_only s).2.1
@[simp] theorem measureRound_power (s : State) : (measureRound s).power = s.power :=
  (measureRound_only s).power (by decide)
@[simp] theorem measureRound_port (s : State) : (measureRound s).port = s.port :=
  (measureRound_only s).port (by decide)
@[simp] theorem measureRound_notice (s : State) : (measureRound s).notice = s.notice :=
  (measureRound_only s).notice (by decide)
@[simp] theorem measureRound_columns (s : State) : (measureRound s).columns = s.columns :=
  (measureRound_only s).columns (by decide)
@[simp] theorem measureRound_col (c : Col) (s : State) : (measureRound s).col c = s.col c :=
  col_congr (measureRound_columns s) c
@[simp] theorem measureRound_handoff (s : State) : (measureRound s).handoff = s.handoff :=
  (measureRound_only s).handoff (by decide)
@[simp] theorem measureRound_entry (j : RecIdx) (s : State) : (measureRound s).entry j = s.entry j :=
  entry_congr (measureRound_handoff s) j
@[simp] theorem measureRound_live (j : RecIdx) (s : State) : (measureRound s).live j = s.live j :=
  live_congr (measureRound_handoff s) j
@[simp] theorem measureRound_handleAt (j : RecIdx) (s : State) : (measureRound s).handleAt j = s.handleAt j :=
  handleAt_congr (measureRound_handoff s) j
@[simp] theorem measureRound_named (h : Handle) (s : State) : (measureRound s).named h = s.named h :=
  named_congr (measureRound_handoff s) h
@[simp] theorem measureRound_placement (s : State) : (measureRound s).placement = s.placement :=
  (measureRound_only s).placement (by decide)
@[simp] theorem measureRound_lock (s : State) : (measureRound s).lock = s.lock :=
  (measureRound_only s).lock (by decide)
@[simp] theorem measureRound_lockOf (c : Col) (s : State) : (measureRound s).lockOf c = s.lockOf c :=
  lockOf_congr (measureRound_lock s) c
@[simp] theorem measureRound_waitsOf (c : Col) (s : State) : (measureRound s).waitsOf c = s.waitsOf c :=
  waitsOf_congr (measureRound_lock s) c
@[simp] theorem measureRound_mark (k : Slot) (s : State) : (measureRound s).mark k = s.mark k :=
  mark_congr (measureRound_lock s) k
@[simp] theorem measureRound_age (s : State) : (measureRound s).age = s.age :=
  (measureRound_only s).age (by decide)
@[simp] theorem measureRound_manifest (s : State) : (measureRound s).manifest = s.manifest :=
  (measureRound_only s).manifest (by decide)
@[simp] theorem measureRound_survey (s : State) : (measureRound s).survey = s.survey :=
  (measureRound_only s).survey (by decide)
@[simp] theorem measureRound_surveyor (c : Col) (s : State) : (measureRound s).surveyor c = s.surveyor c :=
  surveyor_congr (measureRound_survey s) c

theorem endRound_only (s : State) : OnlyChanges [.line, .notice] s (endRound s) := by
  have e : OnlyChanges [.line, .notice] s (measureRound s) := (measureRound_only s).mono (by decide)
  have e2 : OnlyChanges [.line, .notice] s (if s.roundLate then raise .lateRound (measureRound s) else measureRound s) := by
    split
    · exact e.trans ((raise_only .lateRound _).mono (by decide))
    · exact e
  unfold endRound
  dsimp only
  split
  · exact e2.trans (startRound_only _)
  · exact e2.trans ⟨rfl, rfl, fun p h => by cases p <;> first | rfl | simp at h⟩
@[simp] theorem endRound_pending (s : State) : (endRound s).pending = s.pending := (endRound_only s).1
@[simp] theorem endRound_now (s : State) : (endRound s).now = s.now := (endRound_only s).2.1
@[simp] theorem endRound_power (s : State) : (endRound s).power = s.power :=
  (endRound_only s).power (by decide)
@[simp] theorem endRound_port (s : State) : (endRound s).port = s.port :=
  (endRound_only s).port (by decide)
@[simp] theorem endRound_columns (s : State) : (endRound s).columns = s.columns :=
  (endRound_only s).columns (by decide)
@[simp] theorem endRound_col (c : Col) (s : State) : (endRound s).col c = s.col c :=
  col_congr (endRound_columns s) c
@[simp] theorem endRound_handoff (s : State) : (endRound s).handoff = s.handoff :=
  (endRound_only s).handoff (by decide)
@[simp] theorem endRound_entry (j : RecIdx) (s : State) : (endRound s).entry j = s.entry j :=
  entry_congr (endRound_handoff s) j
@[simp] theorem endRound_live (j : RecIdx) (s : State) : (endRound s).live j = s.live j :=
  live_congr (endRound_handoff s) j
@[simp] theorem endRound_handleAt (j : RecIdx) (s : State) : (endRound s).handleAt j = s.handleAt j :=
  handleAt_congr (endRound_handoff s) j
@[simp] theorem endRound_named (h : Handle) (s : State) : (endRound s).named h = s.named h :=
  named_congr (endRound_handoff s) h
@[simp] theorem endRound_placement (s : State) : (endRound s).placement = s.placement :=
  (endRound_only s).placement (by decide)
@[simp] theorem endRound_lock (s : State) : (endRound s).lock = s.lock :=
  (endRound_only s).lock (by decide)
@[simp] theorem endRound_lockOf (c : Col) (s : State) : (endRound s).lockOf c = s.lockOf c :=
  lockOf_congr (endRound_lock s) c
@[simp] theorem endRound_waitsOf (c : Col) (s : State) : (endRound s).waitsOf c = s.waitsOf c :=
  waitsOf_congr (endRound_lock s) c
@[simp] theorem endRound_mark (k : Slot) (s : State) : (endRound s).mark k = s.mark k :=
  mark_congr (endRound_lock s) k
@[simp] theorem endRound_age (s : State) : (endRound s).age = s.age :=
  (endRound_only s).age (by decide)
@[simp] theorem endRound_manifest (s : State) : (endRound s).manifest = s.manifest :=
  (endRound_only s).manifest (by decide)
@[simp] theorem endRound_survey (s : State) : (endRound s).survey = s.survey :=
  (endRound_only s).survey (by decide)
@[simp] theorem endRound_surveyor (c : Col) (s : State) : (endRound s).surveyor c = s.surveyor c :=
  surveyor_congr (endRound_survey s) c

theorem continueRound_only (x : Slot) (s : State) : OnlyChanges [.line, .notice] s (continueRound x s) := by
  unfold continueRound
  dsimp only
  split
  · exact (sendCall_only _ _ s).mono (by decide)
  · have e : OnlyChanges [.line, .notice] s
        (passBlocks (allBlocks.filter fun c => (⟨x.val / 8, by omega⟩ : Block) < c) (blockEnd ⟨x.val / 8, by omega⟩ s)).1 :=
      ((blockEnd_only _ s).mono (by decide)).trans ((passBlocks_only _ _).mono (by decide))
    split
    · next u k q h => rw [h] at e; exact e.trans ((sendCall_only k q u).mono (by decide))
    · next u h => rw [h] at e; exact e.trans (endRound_only u)
@[simp] theorem continueRound_pending (x : Slot) (s : State) : (continueRound x s).pending = s.pending := (continueRound_only _ s).1
@[simp] theorem continueRound_now (x : Slot) (s : State) : (continueRound x s).now = s.now := (continueRound_only _ s).2.1
@[simp] theorem continueRound_power (x : Slot) (s : State) : (continueRound x s).power = s.power :=
  (continueRound_only _ s).power (by decide)
@[simp] theorem continueRound_port (x : Slot) (s : State) : (continueRound x s).port = s.port :=
  (continueRound_only _ s).port (by decide)
@[simp] theorem continueRound_columns (x : Slot) (s : State) : (continueRound x s).columns = s.columns :=
  (continueRound_only _ s).columns (by decide)
@[simp] theorem continueRound_col (x : Slot) (c : Col) (s : State) : (continueRound x s).col c = s.col c :=
  col_congr (continueRound_columns _ s) c
@[simp] theorem continueRound_handoff (x : Slot) (s : State) : (continueRound x s).handoff = s.handoff :=
  (continueRound_only _ s).handoff (by decide)
@[simp] theorem continueRound_entry (x : Slot) (j : RecIdx) (s : State) : (continueRound x s).entry j = s.entry j :=
  entry_congr (continueRound_handoff _ s) j
@[simp] theorem continueRound_live (x : Slot) (j : RecIdx) (s : State) : (continueRound x s).live j = s.live j :=
  live_congr (continueRound_handoff _ s) j
@[simp] theorem continueRound_handleAt (x : Slot) (j : RecIdx) (s : State) : (continueRound x s).handleAt j = s.handleAt j :=
  handleAt_congr (continueRound_handoff _ s) j
@[simp] theorem continueRound_named (x : Slot) (h : Handle) (s : State) : (continueRound x s).named h = s.named h :=
  named_congr (continueRound_handoff _ s) h
@[simp] theorem continueRound_placement (x : Slot) (s : State) : (continueRound x s).placement = s.placement :=
  (continueRound_only _ s).placement (by decide)
@[simp] theorem continueRound_lock (x : Slot) (s : State) : (continueRound x s).lock = s.lock :=
  (continueRound_only _ s).lock (by decide)
@[simp] theorem continueRound_lockOf (x : Slot) (c : Col) (s : State) : (continueRound x s).lockOf c = s.lockOf c :=
  lockOf_congr (continueRound_lock _ s) c
@[simp] theorem continueRound_waitsOf (x : Slot) (c : Col) (s : State) : (continueRound x s).waitsOf c = s.waitsOf c :=
  waitsOf_congr (continueRound_lock _ s) c
@[simp] theorem continueRound_mark (x : Slot) (k : Slot) (s : State) : (continueRound x s).mark k = s.mark k :=
  mark_congr (continueRound_lock _ s) k
@[simp] theorem continueRound_age (x : Slot) (s : State) : (continueRound x s).age = s.age :=
  (continueRound_only _ s).age (by decide)
@[simp] theorem continueRound_manifest (x : Slot) (s : State) : (continueRound x s).manifest = s.manifest :=
  (continueRound_only _ s).manifest (by decide)
@[simp] theorem continueRound_survey (x : Slot) (s : State) : (continueRound x s).survey = s.survey :=
  (continueRound_only _ s).survey (by decide)
@[simp] theorem continueRound_surveyor (x : Slot) (c : Col) (s : State) : (continueRound x s).surveyor c = s.surveyor c :=
  surveyor_congr (continueRound_survey _ s) c

theorem stopLink_only (s : State) : OnlyChanges [.line] s (stopLink s) :=
  ⟨rfl, rfl, fun p h => by cases p <;> first | rfl | simp at h⟩
@[simp] theorem stopLink_pending (s : State) : (stopLink s).pending = s.pending := (stopLink_only s).1
@[simp] theorem stopLink_now (s : State) : (stopLink s).now = s.now := (stopLink_only s).2.1
@[simp] theorem stopLink_power (s : State) : (stopLink s).power = s.power :=
  (stopLink_only s).power (by decide)
@[simp] theorem stopLink_port (s : State) : (stopLink s).port = s.port :=
  (stopLink_only s).port (by decide)
@[simp] theorem stopLink_notice (s : State) : (stopLink s).notice = s.notice :=
  (stopLink_only s).notice (by decide)
@[simp] theorem stopLink_columns (s : State) : (stopLink s).columns = s.columns :=
  (stopLink_only s).columns (by decide)
@[simp] theorem stopLink_col (c : Col) (s : State) : (stopLink s).col c = s.col c :=
  col_congr (stopLink_columns s) c
@[simp] theorem stopLink_handoff (s : State) : (stopLink s).handoff = s.handoff :=
  (stopLink_only s).handoff (by decide)
@[simp] theorem stopLink_entry (j : RecIdx) (s : State) : (stopLink s).entry j = s.entry j :=
  entry_congr (stopLink_handoff s) j
@[simp] theorem stopLink_live (j : RecIdx) (s : State) : (stopLink s).live j = s.live j :=
  live_congr (stopLink_handoff s) j
@[simp] theorem stopLink_handleAt (j : RecIdx) (s : State) : (stopLink s).handleAt j = s.handleAt j :=
  handleAt_congr (stopLink_handoff s) j
@[simp] theorem stopLink_named (h : Handle) (s : State) : (stopLink s).named h = s.named h :=
  named_congr (stopLink_handoff s) h
@[simp] theorem stopLink_placement (s : State) : (stopLink s).placement = s.placement :=
  (stopLink_only s).placement (by decide)
@[simp] theorem stopLink_lock (s : State) : (stopLink s).lock = s.lock :=
  (stopLink_only s).lock (by decide)
@[simp] theorem stopLink_lockOf (c : Col) (s : State) : (stopLink s).lockOf c = s.lockOf c :=
  lockOf_congr (stopLink_lock s) c
@[simp] theorem stopLink_waitsOf (c : Col) (s : State) : (stopLink s).waitsOf c = s.waitsOf c :=
  waitsOf_congr (stopLink_lock s) c
@[simp] theorem stopLink_mark (k : Slot) (s : State) : (stopLink s).mark k = s.mark k :=
  mark_congr (stopLink_lock s) k
@[simp] theorem stopLink_age (s : State) : (stopLink s).age = s.age :=
  (stopLink_only s).age (by decide)
@[simp] theorem stopLink_manifest (s : State) : (stopLink s).manifest = s.manifest :=
  (stopLink_only s).manifest (by decide)
@[simp] theorem stopLink_survey (s : State) : (stopLink s).survey = s.survey :=
  (stopLink_only s).survey (by decide)
@[simp] theorem stopLink_surveyor (c : Col) (s : State) : (stopLink s).surveyor c = s.surveyor c :=
  surveyor_congr (stopLink_survey s) c

theorem afterExchange_only (x : Slot) (s : State) : OnlyChanges [.line, .notice] s (afterExchange x s) := by
  unfold afterExchange
  split
  · exact (stopLink_only s).mono (by decide)
  · exact continueRound_only x s
@[simp] theorem afterExchange_pending (x : Slot) (s : State) : (afterExchange x s).pending = s.pending := (afterExchange_only _ s).1
@[simp] theorem afterExchange_now (x : Slot) (s : State) : (afterExchange x s).now = s.now := (afterExchange_only _ s).2.1
@[simp] theorem afterExchange_power (x : Slot) (s : State) : (afterExchange x s).power = s.power :=
  (afterExchange_only _ s).power (by decide)
@[simp] theorem afterExchange_port (x : Slot) (s : State) : (afterExchange x s).port = s.port :=
  (afterExchange_only _ s).port (by decide)
@[simp] theorem afterExchange_columns (x : Slot) (s : State) : (afterExchange x s).columns = s.columns :=
  (afterExchange_only _ s).columns (by decide)
@[simp] theorem afterExchange_col (x : Slot) (c : Col) (s : State) : (afterExchange x s).col c = s.col c :=
  col_congr (afterExchange_columns _ s) c
@[simp] theorem afterExchange_handoff (x : Slot) (s : State) : (afterExchange x s).handoff = s.handoff :=
  (afterExchange_only _ s).handoff (by decide)
@[simp] theorem afterExchange_entry (x : Slot) (j : RecIdx) (s : State) : (afterExchange x s).entry j = s.entry j :=
  entry_congr (afterExchange_handoff _ s) j
@[simp] theorem afterExchange_live (x : Slot) (j : RecIdx) (s : State) : (afterExchange x s).live j = s.live j :=
  live_congr (afterExchange_handoff _ s) j
@[simp] theorem afterExchange_handleAt (x : Slot) (j : RecIdx) (s : State) : (afterExchange x s).handleAt j = s.handleAt j :=
  handleAt_congr (afterExchange_handoff _ s) j
@[simp] theorem afterExchange_named (x : Slot) (h : Handle) (s : State) : (afterExchange x s).named h = s.named h :=
  named_congr (afterExchange_handoff _ s) h
@[simp] theorem afterExchange_placement (x : Slot) (s : State) : (afterExchange x s).placement = s.placement :=
  (afterExchange_only _ s).placement (by decide)
@[simp] theorem afterExchange_lock (x : Slot) (s : State) : (afterExchange x s).lock = s.lock :=
  (afterExchange_only _ s).lock (by decide)
@[simp] theorem afterExchange_lockOf (x : Slot) (c : Col) (s : State) : (afterExchange x s).lockOf c = s.lockOf c :=
  lockOf_congr (afterExchange_lock _ s) c
@[simp] theorem afterExchange_waitsOf (x : Slot) (c : Col) (s : State) : (afterExchange x s).waitsOf c = s.waitsOf c :=
  waitsOf_congr (afterExchange_lock _ s) c
@[simp] theorem afterExchange_mark (x : Slot) (k : Slot) (s : State) : (afterExchange x s).mark k = s.mark k :=
  mark_congr (afterExchange_lock _ s) k
@[simp] theorem afterExchange_age (x : Slot) (s : State) : (afterExchange x s).age = s.age :=
  (afterExchange_only _ s).age (by decide)
@[simp] theorem afterExchange_manifest (x : Slot) (s : State) : (afterExchange x s).manifest = s.manifest :=
  (afterExchange_only _ s).manifest (by decide)
@[simp] theorem afterExchange_survey (x : Slot) (s : State) : (afterExchange x s).survey = s.survey :=
  (afterExchange_only _ s).survey (by decide)
@[simp] theorem afterExchange_surveyor (x : Slot) (c : Col) (s : State) : (afterExchange x s).surveyor c = s.surveyor c :=
  surveyor_congr (afterExchange_survey _ s) c

end Sys2Proof.Machine
end

