-- ==== Sys2Proof/Laws/Tables.lean ====
section
/-! SUPPORT. The searches over the tables: what each finds, and when it finds nothing. -/

namespace Sys2Proof.Machine

@[simp] theorem mem_allSlots (k : Slot) : k ∈ allSlots := List.mem_finRange k
@[simp] theorem mem_allCols (c : Col) : c ∈ allCols := List.mem_finRange c
@[simp] theorem mem_allRecs (i : RecIdx) : i ∈ allRecs := List.mem_finRange i
@[simp] theorem mem_allBlocks (b : Block) : b ∈ allBlocks := List.mem_finRange b

variable {s : State}

/-! ### Handles and tags -/

theorem named_eq_some {h : Handle} {r : Record} :
    s.named h = some r ↔ (s.entry h.idx).gen = h.gen ∧ s.live h.idx = some r := by
  unfold State.named
  split <;> simp_all

theorem live_of_named {h : Handle} {r : Record} (e : s.named h = some r) : s.live h.idx = some r := (named_eq_some.1 e).2

theorem handleAt_of_named {h : Handle} {r : Record} (e : s.named h = some r) : s.handleAt h.idx = h := by
  rw [State.handleAt, (named_eq_some.1 e).1]

theorem named_handleAt (i : RecIdx) : s.named (s.handleAt i) = s.live i := by
  simp [State.named, State.handleAt]

theorem tagged_eq_some {t : Tag} {i : RecIdx} {r : Record} (e : s.tagged t = some (i, r)) :
    t ≠ 0 ∧ s.live i = some r ∧ r.tag = t := by
  unfold State.tagged at e
  split at e
  · cases e
  · obtain ⟨j, -, hj⟩ := List.exists_of_findSome?_eq_some e
    split at hj
    · split at hj
      · cases hj; exact ⟨‹_›, ‹_›, ‹_›⟩
      · cases hj
    · cases hj

theorem tagged_eq_none {t : Tag} : s.tagged t = none ↔ t = 0 ∨ ∀ i, ∀ r ∈ s.live i, r.tag ≠ t := by
  unfold State.tagged
  split
  · simp_all
  · simp only [List.findSome?_eq_none_iff, mem_allRecs, forall_const, Option.mem_def]
    constructor
    · intro h
      refine .inr fun i r hr ht => ?_
      have := h i
      simp [hr, ht] at this
    · rintro (h | h) i
      · contradiction
      · cases hr : s.live i with
        | none => rfl
        | some r => simp [h i r hr]

theorem tagged_of_live (hu : Safety.TagsUnique s) {t : Tag} {i : RecIdx} {r : Record} (hr : s.live i = some r)
    (ht : r.tag = t) : s.tagged t = some (i, r) := by
  cases e : s.tagged t with
  | none =>
    rcases tagged_eq_none.1 e with h | h
    · exact absurd (ht.trans h) (hu.1 i r hr)
    · exact absurd ht (h i r hr)
  | some p =>
    obtain ⟨j, q⟩ := p
    obtain ⟨-, hq, hqt⟩ := tagged_eq_some e
    have : j = i := hu.2 j i q hq r hr (hqt.trans ht.symm)
    subst this
    rw [hr] at hq; cases hq; rfl

@[simp] theorem mem_recordsWhere {p : Record → Bool} {i : RecIdx} :
    i ∈ s.recordsWhere p ↔ ∃ r, s.live i = some r ∧ p r = true := by
  simp [State.recordsWhere, Option.any_eq_true]

theorem recordsWhere_eq_nil {p : Record → Bool} : s.recordsWhere p = [] ↔ ∀ i, ∀ r ∈ s.live i, p r = false := by
  rw [List.eq_nil_iff_forall_not_mem]
  simp only [mem_recordsWhere, not_exists, not_and, Bool.not_eq_true, Option.mem_def]

theorem recordsWhere_nodup (p : Record → Bool) : (s.recordsWhere p).Nodup := (List.nodup_finRange 64).filter _

/-! ### Free indices -/

theorem firstFree_eq_none : s.firstFree = none ↔ ∀ i, (s.live i).isSome := by
  simp [State.firstFree, List.find?_eq_none, Option.isSome_iff_ne_none]

theorem firstFree_eq_some {i : RecIdx} (h : s.live i = none) (hj : ∀ j, j < i → (s.live j).isSome) :
    s.firstFree = some i := by
  unfold State.firstFree
  cases e : allRecs.find? fun i => (s.live i).isNone with
  | none => simp [List.find?_eq_none] at e; exact absurd h (e i)
  | some k =>
    have hk := List.find?_some e
    rw [List.find?_eq_some_iff_getElem] at e
    obtain ⟨-, n, hn, hg, hlt⟩ := e
    simp only [allRecs, List.length_finRange] at hn
    simp only [allRecs, List.getElem_finRange] at hg hlt
    congr 1
    have hkn : k.val = n := by rw [← hg]; rfl
    by_contra hne
    rcases Nat.lt_or_gt_of_ne (fun e => hne (Fin.ext e) : k.val ≠ i.val) with h1 | h1
    · have := hj k h1; simp_all
    · have := hlt i.val (by omega)
      simp [h] at this

theorem firstFree_some_iff {i : RecIdx} : s.firstFree = some i ↔ s.live i = none ∧ ∀ j, j < i → (s.live j).isSome := by
  constructor
  · intro e
    have hk := List.find?_some e
    refine ⟨by simpa using hk, fun j hj => ?_⟩
    by_contra hn
    rw [Option.not_isSome_iff_eq_none] at hn
    unfold State.firstFree at e
    rw [List.find?_eq_some_iff_getElem] at e
    obtain ⟨-, n, hn', hg, hlt⟩ := e
    simp only [allRecs, List.length_finRange] at hn'
    simp only [allRecs, List.getElem_finRange] at hg hlt
    have hin : i.val = n := by rw [← hg]; rfl
    have := hlt j.val (by rw [← hin]; exact hj)
    simp [hn] at this
  · rintro ⟨h, hj⟩; exact firstFree_eq_some h hj

/-! ### Locks and wait places -/

theorem holding_eq_some {k : Slot} {c : Col} {l : Lock} (e : s.holding k = some (c, l)) :
    s.lockOf c = some l ∧ l.holder = k := by
  obtain ⟨d, -, hd⟩ := List.exists_of_findSome?_eq_some e
  split at hd
  · split at hd
    · cases hd; exact ⟨‹_›, ‹_›⟩
    · cases hd
  · cases hd

theorem holding_eq_none {k : Slot} : s.holding k = none ↔ ∀ c, ∀ l ∈ s.lockOf c, l.holder ≠ k := by
  unfold State.holding
  simp only [List.findSome?_eq_none_iff, mem_allCols, forall_const, Option.mem_def]
  refine forall_congr' fun c => ?_
  cases s.lockOf c with
  | none => simp
  | some l => simp

theorem waiting_eq_some {k : Slot} {c : Col} {p : Nat} {e : WaitEntry} (h : s.waiting k = some (c, p, e)) :
    ∃ n, p = n + 1 ∧ (s.waitsOf c)[n]? = some e ∧ e.slot = k ∧ ∀ m f, m < n → (s.waitsOf c)[m]? = some f → f.slot ≠ k := by
  obtain ⟨d, -, hd⟩ := List.exists_of_findSome?_eq_some h
  rw [Option.map_eq_some_iff] at hd
  obtain ⟨⟨f, n⟩, hf, he⟩ := hd
  cases he
  have hk := List.find?_some hf
  rw [List.find?_eq_some_iff_getElem] at hf
  obtain ⟨-, m, hm, hg, hlt⟩ := hf
  simp only [List.getElem_zipIdx, Nat.zero_add, Prod.mk.injEq] at hg
  obtain ⟨hg, rfl⟩ := hg
  simp only [List.length_zipIdx] at hm
  refine ⟨m, rfl, by simp [← hg, List.getElem?_eq_getElem hm], by simpa using hk, fun j f hj hf => ?_⟩
  have := hlt j hj
  rw [List.getElem?_eq_some_iff] at hf
  obtain ⟨hj', rfl⟩ := hf
  simpa using this

theorem waiting_eq_none {k : Slot} : s.waiting k = none ↔ ∀ c, ∀ e ∈ s.waitsOf c, e.slot ≠ k := by
  unfold State.waiting
  simp only [List.findSome?_eq_none_iff, mem_allCols, forall_const, Option.map_eq_none_iff, List.find?_eq_none]
  refine forall_congr' fun c => ⟨fun h e he => ?_, fun h p hp => ?_⟩
  · obtain ⟨n, hn, rfl⟩ := List.getElem_of_mem he
    have := h ((s.waitsOf c)[n], n) (by rw [List.mem_zipIdx_iff_getElem?]; simp [hn])
    simpa using this
  · have := List.fst_mem_of_mem_zipIdx hp
    simpa using h p.1 this

/-! ### One position for each slot (R61) -/

theorem mem_positions {k : Slot} : k ∈ Safety.positions s ↔
    (∃ c, ∃ l ∈ s.lockOf c, l.holder = k) ∨ ∃ c, ∃ e ∈ s.waitsOf c, e.slot = k := by
  simp only [Safety.positions, List.mem_flatMap, mem_allCols, true_and, List.mem_append, Option.mem_toList, Option.mem_def,
    Option.map_eq_some_iff, List.mem_map]
  constructor
  · rintro ⟨c, ⟨l, h, e⟩ | ⟨x, h, e⟩⟩
    · exact .inl ⟨c, l, h, e⟩
    · exact .inr ⟨c, x, h, e⟩
  · rintro (⟨c, l, h, e⟩ | ⟨c, x, h, e⟩)
    · exact ⟨c, .inl ⟨l, h, e⟩⟩
    · exact ⟨c, .inr ⟨x, h, e⟩⟩

/-- The slots with a position in one column. -/
def positionsIn (s : State) (c : Col) : List Slot := ((s.lockOf c).map (·.holder)).toList ++ (s.waitsOf c).map (·.slot)

theorem positions_column (h : Safety.OnePosition s) {k : Slot} {c d : Col} (hc : k ∈ positionsIn s c)
    (hd : k ∈ positionsIn s d) : c = d := by
  by_contra hne
  have hp := (List.nodup_flatMap.1 h.1).2
  have hall : List.Pairwise (fun a b => List.Disjoint (positionsIn s a) (positionsIn s b)) allCols := hp
  have key : ∀ {a b : Col}, a < b → List.Disjoint (positionsIn s a) (positionsIn s b) := by
    intro a b hab
    rw [List.pairwise_iff_getElem] at hall
    have := hall a.val b.val (by simp [allCols]) (by simp [allCols]) hab
    simpa [allCols] using this
  rcases lt_or_gt_of_ne hne with h1 | h1
  · exact key h1 hc hd
  · exact key h1 hd hc

theorem positionsIn_nodup (h : Safety.OnePosition s) (c : Col) : (positionsIn s c).Nodup :=
  (List.nodup_flatMap.1 h.1).1 c (mem_allCols c)

theorem holder_mem {k : Slot} {c : Col} {l : Lock} (hl : s.lockOf c = some l) (hk : l.holder = k) :
    k ∈ positionsIn s c := by
  simp [positionsIn, hl, hk]

theorem waiter_mem {k : Slot} {c : Col} {e : WaitEntry} (he : e ∈ s.waitsOf c) (hk : e.slot = k) :
    k ∈ positionsIn s c := by
  simp only [positionsIn, List.mem_append, List.mem_map]
  exact .inr ⟨e, he, hk⟩

/-- A holder's lock is the one the search finds, and it waits nowhere. -/
theorem holding_of_lockOf (h : Safety.OnePosition s) {k : Slot} {c : Col} {l : Lock} (hl : s.lockOf c = some l)
    (hk : l.holder = k) : s.holding k = some (c, l) := by
  cases e : s.holding k with
  | none => exact absurd hk (holding_eq_none.1 e c l hl)
  | some p =>
    obtain ⟨d, m⟩ := p
    obtain ⟨hm, hmk⟩ := holding_eq_some e
    have := positions_column h (holder_mem hl hk) (holder_mem hm hmk)
    subst this
    rw [hl] at hm; cases hm; rfl

theorem waiting_of_holder (h : Safety.OnePosition s) {k : Slot} {c : Col} {l : Lock} (hl : s.lockOf c = some l)
    (hk : l.holder = k) : s.waiting k = none := by
  rw [waiting_eq_none]
  intro d e he hek
  have := positions_column h (holder_mem hl hk) (waiter_mem he hek)
  subst this
  have hn := positionsIn_nodup h c
  simp only [positionsIn, hl, Option.map_some, Option.toList_some, List.singleton_append, List.nodup_cons,
    List.mem_map, not_exists, not_and] at hn
  exact hn.1 e he (hek.trans hk.symm)

/-- A waiter's place is the one the search finds, and it holds no lock. -/
theorem waiting_of_waitsOf (h : Safety.OnePosition s) {k : Slot} {c : Col} {n : Nat} {e : WaitEntry}
    (he : (s.waitsOf c)[n]? = some e) (hk : e.slot = k) : s.waiting k = some (c, n + 1, e) := by
  cases w : s.waiting k with
  | none => exact absurd hk (waiting_eq_none.1 w c e (List.mem_of_getElem? he))
  | some p =>
    obtain ⟨d, p, f⟩ := p
    obtain ⟨m, rfl, hm, hf, -⟩ := waiting_eq_some w
    have := positions_column h (waiter_mem (List.mem_of_getElem? he) hk) (waiter_mem (List.mem_of_getElem? hm) hf)
    subst this
    have hn : ((s.waitsOf c).map (·.slot)).Nodup := (List.nodup_append.1 (positionsIn_nodup h c)).2.1
    have hnm : n = m := by
      obtain ⟨h1, e1⟩ := List.getElem?_eq_some_iff.1 he
      obtain ⟨h2, e2⟩ := List.getElem?_eq_some_iff.1 hm
      refine (List.Nodup.getElem_inj_iff hn (hi := by simpa using h1) (hj := by simpa using h2)).1 ?_
      simp [e1, e2, hk, hf]
    subst hnm
    rw [he] at hm; cases hm; rfl

theorem holding_of_waiter (h : Safety.OnePosition s) {k : Slot} {c : Col} {e : WaitEntry} (he : e ∈ s.waitsOf c)
    (hk : e.slot = k) : s.holding k = none := by
  rw [holding_eq_none]
  intro d l hl hlk
  have := waiting_eq_none.1 (waiting_of_holder h hl hlk) c e he
  exact this hk

theorem holding_none_of_not_mem {k : Slot} (h : k ∉ Safety.positions s) : s.holding k = none := by
  rw [holding_eq_none]
  exact fun c l hl hk => h (mem_positions.2 (.inl ⟨c, l, hl, hk⟩))

theorem waiting_none_of_not_mem {k : Slot} (h : k ∉ Safety.positions s) : s.waiting k = none := by
  rw [waiting_eq_none]
  exact fun c e he hk => h (mem_positions.2 (.inr ⟨c, e, he, hk⟩))

end Sys2Proof.Machine
end

