-- ==== Sys2Proof/Laws/Records.lean ====
section
/-! SUPPORT. What each shared operation does to what it changes: the records, the stacks, the locks and wait lists, the
notices and the manifest map. With the frames of Laws/Frames.lean, each operation is said whole. -/

namespace Sys2Proof.Machine

open Sys2Proof.Safety

variable (s : State)

/-! ### Notices -/

theorem raise_notice (k : NoticeKind) : (raise k s).notice = afterRaising k.bit s.notice := rfl
theorem raiseOverdue_notice (h : Handle) : (raiseOverdue h s).notice =
    afterRaising 3 { s.notice with overdue := some (s.notice.overdue.getD h) } := rfl
theorem raiseSpent_notice (h : Handle) : (raiseSpent h s).notice =
    afterRaising 4 { s.notice with spent := some (s.notice.spent.getD h) } := rfl
theorem raiseBuried_notice (h : Handle) : (raiseBuried h s).notice =
    afterRaising 5 { s.notice with buried := some (s.notice.buried.getD h) } := rfl
theorem raiseUnlisted_notice (h : Handle) : (raiseUnlisted h s).notice =
    afterRaising 6 { s.notice with unlisted := some (s.notice.unlisted.getD h) } := rfl
theorem raiseBlockEnd_notice (b : Block) : (raiseBlockEnd b s).notice =
    afterRaising 9 { s.notice with blockEnd := some b } := rfl
theorem raiseFrameError_notice (k : FrameKind) : (raiseFrameError k s).notice =
    afterRaising 10 { s.notice with frameError := some (s.notice.frameError.getD k) } := rfl

/-- Every raising and every mask leaves ATTN_N following the sets (R168). -/
theorem drive_attnN (n : NoticeUnit) : n.drive.attnN = decide (n.drive.pending &&& n.drive.enabled = 0) := rfl

/-! ### One record changed -/

theorem updRec_entry (i j : RecIdx) (f : Record → Record) :
    (updRec i f s).entry j = if i = j then { s.entry j with live := (s.live j).map f } else s.entry j := by
  unfold updRec
  by_cases h : i = j
  · subst h
    cases e : s.live i with
    | none =>
      have e' : (s.entry i).live = none := e
      simp only [if_true, Option.map_none]
      rw [← e']
    | some r => simp
  · split <;> simp [setRec_entry_if, h]

theorem updRec_live (i j : RecIdx) (f : Record → Record) :
    (updRec i f s).live j = if i = j then (s.live j).map f else s.live j := by
  simp only [live_def, updRec_entry]
  split <;> rfl

@[simp] theorem updRec_gen (i j : RecIdx) (f : Record → Record) : ((updRec i f s).entry j).gen = (s.entry j).gen := by
  rw [updRec_entry]; split <;> rfl

@[simp] theorem updRec_handleAt (i j : RecIdx) (f : Record → Record) : (updRec i f s).handleAt j = s.handleAt j := by
  simp [State.handleAt]

theorem updRec_counts (i : RecIdx) (f : Record → Record) : SameCounts s (updRec i f s) := by
  unfold updRec
  split <;> exact ⟨rfl, rfl⟩

theorem parkRecord_entry (i j : RecIdx) : (parkRecord i s).entry j =
    if i = j then { s.entry j with live := (s.live j).map fun r =>
      { r with state := .parked, collector := none, buried := false, strandedFrom := none } } else s.entry j :=
  updRec_entry s i j _

theorem reserveRecord_entry (i j : RecIdx) : (reserveRecord i s).entry j =
    if i = j then { s.entry j with live := (s.live j).map fun r =>
      { r with state := .reserved, level := none, strandedFrom := none } } else s.entry j :=
  updRec_entry s i j _

theorem parkRecord_counts (i : RecIdx) : SameCounts s (parkRecord i s) := updRec_counts s i _
theorem reserveRecord_counts (i : RecIdx) : SameCounts s (reserveRecord i s) := updRec_counts s i _

/-! ### The buried flag (R16, R17) -/

theorem isBuried_congr {s t : State} (h : t.columns = s.columns) (r : Record) : t.isBuried r = s.isBuried r := by
  unfold State.isBuried State.depth
  rw [col_congr h]

theorem refreshBuried_entry (i j : RecIdx) : (refreshBuried i s).entry j =
    if i = j then { s.entry j with live := (s.live j).map fun r => { r with buried := s.isBuried r } } else s.entry j := by
  unfold refreshBuried
  by_cases h : i = j
  · subst h
    cases e : s.live i with
    | none =>
      have e' : (s.entry i).live = none := e
      simp only [if_true, Option.map_none]
      rw [← e']
    | some r => simp only; split <;> simp
  · simp only [h, if_false]
    split
    · rfl
    · split <;> simp [setRec_entry_if, h]

theorem refreshBuried_live (i j : RecIdx) : (refreshBuried i s).live j =
    if i = j then (s.live j).map (fun r => { r with buried := s.isBuried r }) else s.live j := by
  simp only [live_def, refreshBuried_entry]
  split <;> rfl

theorem refreshBuried_notice (i : RecIdx) : (refreshBuried i s).notice =
    if (s.live i).any (fun r => s.isBuried r && !r.buried) then
      afterRaising 5 { s.notice with buried := some (s.notice.buried.getD (s.handleAt i)) } else s.notice := by
  unfold refreshBuried
  cases s.live i with
  | none => rfl
  | some r => simp only [Option.any_some]; split <;> rfl

theorem refreshBuried_counts (i : RecIdx) : SameCounts s (refreshBuried i s) := by
  unfold refreshBuried
  split
  · exact ⟨rfl, rfl⟩
  · split <;> exact ⟨rfl, rfl⟩

@[simp] theorem refreshBuried_gen (i j : RecIdx) : ((refreshBuried i s).entry j).gen = (s.entry j).gen := by
  rw [refreshBuried_entry]; split <;> rfl

/-- R30: a record promised to a slot, its buried flag following its depth. -/
theorem promiseRecord_entry (i j : RecIdx) (k : Slot) : (promiseRecord i k s).entry j =
    if i = j then { s.entry j with live := (s.live j).map fun r =>
      { r with state := .promised, collector := some k, strandedFrom := none, buried := (s.depth r).any (0 < ·) } }
    else s.entry j := by
  unfold promiseRecord
  rw [refreshBuried_entry, updRec_entry, updRec_live]
  by_cases h : i = j
  · simp only [h, if_true, Option.map_map]
    congr 1
    congr 1
    funext r
    simp [Function.comp, State.isBuried, State.depth]
  · simp [h]

theorem promiseRecord_notice (i : RecIdx) (k : Slot) : (promiseRecord i k s).notice =
    if (s.live i).any (fun r => (s.depth r).any (0 < ·) && !r.buried) then
      afterRaising 5 { s.notice with buried := some (s.notice.buried.getD (s.handleAt i)) } else s.notice := by
  unfold promiseRecord
  rw [refreshBuried_notice, updRec_live, updRec_notice, updRec_handleAt]
  simp only [if_true, State.isBuried, State.depth]
  cases s.live i <;> simp

theorem promiseRecord_counts (i : RecIdx) (k : Slot) : SameCounts s (promiseRecord i k s) :=
  ⟨(refreshBuried_counts _ i).1.trans (updRec_counts s i _).1, (refreshBuried_counts _ i).2.trans (updRec_counts s i _).2⟩

/-! ### Pushing and popping (R11) -/

theorem pushRecord_entry (i j : RecIdx) (c : Col) : (pushRecord i c s).entry j =
    if i = j then { s.entry j with live := (s.live j).map fun r =>
      { r with
        state := .parked, collector := none, buried := false, level := some (s.col c).stack.length,
        strandedFrom := none } } else s.entry j :=
  updRec_entry s i j _

theorem pushRecord_col (i : RecIdx) (c d : Col) : (pushRecord i c s).col d =
    if c = d then { s.col d with stack := (s.col d).stack ++ [s.handleAt i] } else s.col d := by
  unfold pushRecord
  simp only [setCol_col_if, updRec_col, updRec_handleAt]
  split
  · next h => rw [h]
  · rfl

theorem popStack_col (c d : Col) : (popStack c s).col d =
    if c = d then { s.col d with stack := (s.col d).stack.dropLast } else s.col d := by
  unfold popStack
  rw [setCol_col_if]
  split
  · next h => rw [h]
  · rfl

/-! ### Making and retiring a record (R23, R34 to R36) -/

theorem makeAt_entry (i j : RecIdx) (r : Record) : (makeAt i r s).entry j =
    if i = j then { s.entry j with live := some r, last := none } else s.entry j := by
  have e : (makeAt i r s).entry j = (s.setEntry i { s.entry i with live := some r, last := none }).entry j := rfl
  rw [e, setEntry_entry_if]
  split
  · next h => rw [h]
  · rfl

theorem makeAt_counts (i : RecIdx) (r : Record) : (makeAt i r s).handoff.freeCount = s.handoff.freeCount - 1 ∧
    (makeAt i r s).handoff.order = s.handoff.order ++ [i] := ⟨rfl, rfl⟩

theorem consume_manifest (t : Tag) : (consume t s).manifest =
    match s.manifest.find t with
    | some e => if e.keep then s.manifest else { s.manifest with map := dropEntry t s.manifest.map }
    | none => s.manifest := by
  unfold consume
  cases s.manifest.find t with
  | none => rfl
  | some e => simp only; split <;> rfl

/-- The state of a retirement before R36's consumption. -/
theorem retire_eq {i : RecIdx} {r : Record} (h : s.live i = some r) (o : Retirement) :
    ∃ u, retire i o s = (if o = .delivered then consume r.tag u else u) ∧ OnlyChanges [.handoff, .lock] s u ∧
      (∀ j, u.entry j = if i = j then
        ⟨(s.entry i).gen + 1, none, some ⟨s.handleAt i, o, r.tag, r.column⟩⟩ else s.entry j) ∧
      u.handoff.freeCount = s.handoff.freeCount + 1 ∧ u.handoff.order = s.handoff.order.filter (· ≠ i) ∧
      u.lock = (s.dropWaitFor r.column (s.handleAt i)).lock := by
  let v := (s.dropWaitFor r.column (s.handleAt i)).setEntry i
    ⟨(s.handleAt i).gen + 1, none, some ⟨s.handleAt i, o, r.tag, r.column⟩⟩
  refine ⟨v.setHandoff ⟨v.handoff.entries, s.handoff.freeCount + 1, s.handoff.order.filter (· ≠ i)⟩, ?_, ?_, ?_⟩
  · simp only [retire, h]; rfl
  · exact ⟨rfl, rfl, fun p h => by cases p <;> first | rfl | simp at h⟩
  · exact ⟨fun j => vector_get_set _ _ _ _, rfl, rfl, rfl⟩

theorem retire_entry {i : RecIdx} {r : Record} (h : s.live i = some r) (o : Retirement) (j : RecIdx) :
    (retire i o s).entry j =
      if i = j then ⟨(s.entry i).gen + 1, none, some ⟨s.handleAt i, o, r.tag, r.column⟩⟩ else s.entry j := by
  obtain ⟨u, e, -, he, -⟩ := retire_eq s h o
  rw [e]
  split
  · rw [consume_entry, he]
  · exact he j

theorem retire_counts {i : RecIdx} {r : Record} (h : s.live i = some r) (o : Retirement) :
    (retire i o s).handoff.freeCount = s.handoff.freeCount + 1 ∧
      (retire i o s).handoff.order = s.handoff.order.filter (· ≠ i) := by
  obtain ⟨u, e, -, -, hf, ho, -⟩ := retire_eq s h o
  rw [e]
  split
  · rw [consume_handoff]; exact ⟨hf, ho⟩
  · exact ⟨hf, ho⟩

theorem retire_lock {i : RecIdx} {r : Record} (h : s.live i = some r) (o : Retirement) :
    (retire i o s).lock = (s.dropWaitFor r.column (s.handleAt i)).lock := by
  obtain ⟨u, e, -, -, -, -, hl⟩ := retire_eq s h o
  rw [e]
  split
  · rw [consume_lock, hl]
  · exact hl

theorem retire_manifest {i : RecIdx} {r : Record} (h : s.live i = some r) (o : Retirement) :
    (retire i o s).manifest = if o = .delivered then (consume r.tag s).manifest else s.manifest := by
  obtain ⟨u, e, hu, -⟩ := retire_eq s h o
  rw [e]
  split
  · simp only [consume_manifest, hu.manifest (by decide)]
  · exact hu.manifest (by decide)

/-- A retirement at an index that holds no record does nothing. -/
theorem retire_none {i : RecIdx} (h : s.live i = none) (o : Retirement) : retire i o s = s := by
  simp [retire, h]

/-! ### Wait lists -/

theorem dropWaiter_waitsOf (k : Slot) (c : Col) :
    (s.dropWaiter k).waitsOf c = (s.waitsOf c).filter fun e => e.slot ≠ k := by
  simp [State.dropWaiter, State.waitsOf]

/-- A slot that waits nowhere has no place to lose. -/
theorem dropWaiter_none {k : Slot} (h : ∀ c, ∀ e ∈ s.waitsOf c, e.slot ≠ k) : s.dropWaiter k = s := by
  have : (s.lock.waits.map fun l => l.filter fun e => decide (e.slot ≠ k)) = s.lock.waits := by
    apply Vector.ext
    intro i hi
    rw [Vector.getElem_map, List.filter_eq_self]
    intro e he
    simpa using h ⟨i, hi⟩ e he
  unfold State.dropWaiter
  rw [this]
  rfl

@[simp] theorem dropWaiter_lockOf (k : Slot) (c : Col) : (s.dropWaiter k).lockOf c = s.lockOf c := (rfl)
@[simp] theorem dropWaiter_mark (k j : Slot) : (s.dropWaiter k).mark j = s.mark j := (rfl)

theorem dropWaitFor_waitsOf (c d : Col) (h : Handle) : (s.dropWaitFor c h).waitsOf d =
    if c = d then (s.waitsOf d).filter fun e => e.handle ≠ h else s.waitsOf d := by
  unfold State.dropWaitFor
  rw [setWaitsOf_waitsOf_if]
  split
  · next e => rw [e]
  · rfl

@[simp] theorem dropWaitFor_lockOf (c d : Col) (h : Handle) : (s.dropWaitFor c h).lockOf d = s.lockOf d := (rfl)
@[simp] theorem dropWaitFor_mark (c : Col) (h : Handle) (k : Slot) : (s.dropWaitFor c h).mark k = s.mark k := (rfl)

theorem retire_waitsOf {i : RecIdx} {r : Record} (h : s.live i = some r) (o : Retirement) (c : Col) :
    (retire i o s).waitsOf c =
      if r.column = c then (s.waitsOf c).filter fun e => e.handle ≠ s.handleAt i else s.waitsOf c := by
  have e := waitsOf_congr (retire_lock s h o) c
  rw [e, dropWaitFor_waitsOf]

theorem retire_lockOf (i : RecIdx) (o : Retirement) (c : Col) : (retire i o s).lockOf c = s.lockOf c := by
  cases h : s.live i with
  | none => rw [retire_none s h]
  | some r => exact lockOf_congr (retire_lock s h o) c

theorem retire_mark (i : RecIdx) (o : Retirement) (k : Slot) : (retire i o s).mark k = s.mark k := by
  cases h : s.live i with
  | none => rw [retire_none s h]
  | some r => exact mark_congr (retire_lock s h o) k

/-! ### Grant, scan and the ends of a lock -/

theorem grant_lockOf (c d : Col) (k : Slot) (w : Hold) : (grant c k w s).lockOf d =
    if c = d then some ⟨k, w, s.lock.limitOf w, s.now⟩ else s.lockOf d := by
  unfold grant
  dsimp only
  split <;> simp [setLockOf_lockOf_if]

theorem grant_waitsOf (c d : Col) (k : Slot) (w : Hold) : (grant c k w s).waitsOf d = s.waitsOf d := by
  unfold grant
  dsimp only
  split <;> simp

theorem grant_mark (c : Col) (j k : Slot) (w : Hold) : (grant c k w s).mark j = s.mark j := by
  unfold grant
  dsimp only
  split <;> simp

theorem grant_entry (c : Col) (k : Slot) (w : Work) (h : Handle) (j : RecIdx) : (grant c k (.work w h) s).entry j =
    if h.idx = j then { s.entry j with live := (s.live j).map fun r => match w with
      | .place => { r with state := .placing }
      | .lift => { r with state := .lifting, buried := false } } else s.entry j := by
  cases w <;> simp [grant, updRec_entry]

theorem grant_survey_eq (c : Col) (k : Slot) :
    grant c k .survey s = s.setLockOf c (some ⟨k, .survey, s.lock.surveyLimit, s.now⟩) := rfl

theorem grant_limits (c : Col) (k : Slot) (w : Hold) : (grant c k w s).lock =
    { s.lock with locks := (grant c k w s).lock.locks } := by
  unfold grant
  dsimp only
  split
  · rw [updRec_lock]; rfl
  · rw [updRec_lock]; rfl
  · rfl

theorem grant_counts (c : Col) (k : Slot) (w : Hold) : SameCounts s (grant c k w s) := by
  unfold grant
  dsimp only
  split
  · exact updRec_counts (s.setLockOf c _) _ _
  · exact updRec_counts (s.setLockOf c _) _ _
  · exact ⟨rfl, rfl⟩

/-- R70: a scan that finds no possible waiter does nothing. -/
theorem scan_none {c : Col} (h : (s.waitsOf c).find? (s.possible c) = none) : scan c s = s := by
  unfold scan
  have : (s.waitsOf c).findIdx? (s.possible c) = none := by
    rw [List.findIdx?_eq_none_iff]
    rw [List.find?_eq_none] at h
    intro x hx
    simpa using h x hx
  rw [this]

/-- R70: a scan gives the lock to the first possible waiter, which leaves the list. -/
theorem scan_some {c : Col} {e : WaitEntry} (h : (s.waitsOf c).find? (s.possible c) = some e) :
    scan c s = grant c e.slot (.work e.work e.handle)
      (s.setWaitsOf c ((s.waitsOf c).eraseIdx ((s.waitsOf c).findIdx (s.possible c)))) := by
  have hp : s.possible c e := List.find?_some h
  have hm : e ∈ s.waitsOf c := List.mem_of_find?_eq_some h
  have hlt : (s.waitsOf c).findIdx (s.possible c) < (s.waitsOf c).length := List.findIdx_lt_length_of_exists ⟨e, hm, hp⟩
  have h1 : (s.waitsOf c).findIdx? (s.possible c) = some ((s.waitsOf c).findIdx (s.possible c)) := by
    rw [List.findIdx?_eq_some_iff_findIdx_eq]
    exact ⟨hlt, rfl⟩
  have h2 : (s.waitsOf c)[(s.waitsOf c).findIdx (s.possible c)]? = some e := by
    rw [← List.find?_eq_getElem?_findIdx]
    exact h
  unfold scan
  simp only [h1, h2]

@[simp] theorem endLock_waitsOf (c d : Col) : (endLock c s).waitsOf d = s.waitsOf d := (rfl)
@[simp] theorem endLock_mark (c : Col) (k : Slot) : (endLock c s).mark k = s.mark k := (rfl)
theorem endLock_lockOf (c d : Col) : (endLock c s).lockOf d = if c = d then none else s.lockOf d := setLockOf_lockOf_if ..

theorem strand_lockOf (c d : Col) (k : Slot) (w : Work) (h : Handle) :
    (strand c k w h s).lockOf d = if c = d then none else s.lockOf d := by
  simp [strand, endLock_lockOf]

theorem strand_waitsOf (c d : Col) (k : Slot) (w : Work) (h : Handle) :
    (strand c k w h s).waitsOf d = if c = d then [] else s.waitsOf d := by
  simp [strand, setWaitsOf_waitsOf_if]

theorem strand_mark (c : Col) (j k : Slot) (w : Work) (h : Handle) : (strand c k w h s).mark j = s.mark j := by
  simp [strand]

theorem strand_entry (c : Col) (k : Slot) (w : Work) (h : Handle) (j : RecIdx) : (strand c k w h s).entry j =
    if h.idx = j then { s.entry j with live := (s.live j).map fun r =>
      { r with state := .stranded, strandedFrom := some w.strandedFrom, buried := false } } else s.entry j := by
  simp [strand, updRec_entry]

theorem strand_col (c d : Col) (k : Slot) (w : Work) (h : Handle) : (strand c k w h s).col d =
    if c = d then { s.col d with
      prior := (s.col d).presentAsPrior, service := .suspect, stranded := some h, strandingId := (s.slot k).robotId }
    else s.col d := by
  simp only [strand, raise_col, setWaitsOf_col, setCol_col_if, updRec_col, endLock_col, updRec_slot, endLock_slot]
  split
  · next e => subst e; simp
  · simp

theorem strand_notice (c : Col) (k : Slot) (w : Work) (h : Handle) :
    (strand c k w h s).notice = afterRaising 1 s.notice := by
  simp [strand, raise_notice, NoticeKind.bit]

theorem strand_counts (c : Col) (k : Slot) (w : Work) (h : Handle) : SameCounts s (strand c k w h s) := by
  refine ⟨?_, ?_⟩
  · simp only [strand, raise_handoff, setWaitsOf_handoff, setCol_handoff, (updRec_counts (endLock c s) h.idx _).1]; rfl
  · simp only [strand, raise_handoff, setWaitsOf_handoff, setCol_handoff, (updRec_counts (endLock c s) h.idx _).2]; rfl

theorem strand_limits (c : Col) (k : Slot) (w : Work) (h : Handle) :
    (strand c k w h s).lock.placeLimit = s.lock.placeLimit ∧ (strand c k w h s).lock.liftLimit = s.lock.liftLimit ∧
      (strand c k w h s).lock.surveyLimit = s.lock.surveyLimit := by
  simp [strand, endLock]

/-! ### Many records in turn -/

/-- Operations that each change one index by its own entry alone change each listed index once. -/
theorem forEach_entry {f : RecIdx → State → State} {g : RecIdx → Entry → Entry}
    (h : ∀ i u j, (f i u).entry j = if i = j then g i (u.entry j) else u.entry j) {l : List RecIdx} (hn : l.Nodup)
    (s : State) (j : RecIdx) : (forEach l f s).entry j = if j ∈ l then g j (s.entry j) else s.entry j := by
  induction l generalizing s with
  | nil => simp [forEach]
  | cons i l ih =>
    obtain ⟨hi, hl⟩ := List.nodup_cons.1 hn
    have e : (forEach (i :: l) f s) = forEach l f (f i s) := rfl
    rw [e, ih hl (f i s), h]
    by_cases hij : i = j
    · subst hij; simp [hi]
    · simp [hij, Ne.symm hij]

theorem forEach_counts {α : Type} {f : α → State → State} (h : ∀ a u, SameCounts u (f a u)) (l : List α) (s : State) :
    SameCounts s (forEach l f s) := by
  induction l generalizing s with
  | nil => exact ⟨rfl, rfl⟩
  | cons a l ih =>
    obtain ⟨h1, h2⟩ := ih (f a s)
    obtain ⟨g1, g2⟩ := h a s
    exact ⟨h1.trans g1, h2.trans g2⟩

/-- R121, R145: every PROMISED record of a collector becomes PARKED with no collector, and no other record changes. -/
theorem dropPromises_entry (k : Slot) (j : RecIdx) : (dropPromises k s).entry j =
    if (s.live j).any (fun r => r.state = .promised && r.collector = some k) then
      { s.entry j with live := (s.live j).map fun r =>
        { r with state := .parked, collector := none, buried := false, strandedFrom := none } }
    else s.entry j := by
  have this := forEach_entry (f := parkRecord)
    (g := fun _ e => { e with live := e.live.map fun r =>
      { r with state := .parked, collector := none, buried := false, strandedFrom := none } })
    (fun i u j => parkRecord_entry u i j)
    (recordsWhere_nodup (s := s) fun r => r.state = .promised && r.collector = some k) s j
  unfold dropPromises
  rw [this]
  congr 1
  simp only [mem_recordsWhere, Option.any_eq_true]

theorem dropPromises_counts (k : Slot) : SameCounts s (dropPromises k s) :=
  forEach_counts (fun i u => parkRecord_counts u i) _ s

/-! ### Designations (R150) -/

theorem dropDesignations_surveyor (k : Slot) (c : Col) :
    (dropDesignations k s).surveyor c = if s.surveyor c = some k then none else s.surveyor c := by
  unfold dropDesignations State.surveyor
  simp only [setSurvey_survey, Fin.getElem_fin, Vector.getElem_map]

@[simp] theorem dropDesignations_box (k : Slot) : (dropDesignations k s).survey.box = s.survey.box := (rfl)

/-- R10: a settled column takes its prior service state, and its stranded handle and stranding robot id go. -/
theorem settleColumn_col (c d : Col) : (settleColumn c s).col d =
    if c = d then { s.col d with service := (s.col d).prior.toService, stranded := none, strandingId := none }
    else s.col d := by
  unfold settleColumn
  rw [setSurveyor_col, setCol_col_if]
  split
  · next h => rw [h]
  · rfl

theorem settleColumn_surveyor (c d : Col) :
    (settleColumn c s).surveyor d = if c = d then none else s.surveyor d := by
  unfold settleColumn
  rw [setSurveyor_surveyor_if]
  rfl

@[simp] theorem settleColumn_box (c : Col) : (settleColumn c s).survey.box = s.survey.box := (rfl)

end Sys2Proof.Machine
end

