-- ==== Sys2Proof/Laws/Line.lean ====
section
/-! SUPPORT. How the line goes on: a CALL sent, slots and blocks passed over, a round begun and ended, each as one lemma
that says what it can change. -/

namespace Sys2Proof.Safety

open Sys2Proof.Machine

/-- `t` is `u` after the line has moved on, as far as the state outside the line controller, the slot records and the
notices go. The operations that carry a round on are each of this kind, and so is any run of them. -/
structure LineMoves (u t : State) : Prop where
  rest : OnlyChanges [.line, .notice] u t
  slots : ∀ j, { t.slot j with mode := (u.slot j).mode, verdict := (u.slot j).verdict } = u.slot j
  verdicts : ∀ j, (t.slot j).verdict = (u.slot j).verdict ∨ ((u.slot j).link = .vacant ∧ (t.slot j).verdict = none)
  notices : ∀ b, b ≠ 8 → b ≠ 9 → t.notice.pending.getLsbD b = u.notice.pending.getLsbD b
  subjects : t.notice.overdue = u.notice.overdue ∧ t.notice.spent = u.notice.spent ∧
    t.notice.buried = u.notice.buried ∧ t.notice.unlisted = u.notice.unlisted ∧
    t.notice.frameError = u.notice.frameError ∧ t.notice.enabled = u.notice.enabled

theorem LineMoves.refl (s : State) : LineMoves s s :=
  ⟨.refl _ _, fun _ => rfl, fun _ => .inl rfl, fun _ _ _ => rfl, ⟨rfl, rfl, rfl, rfl, rfl, rfl⟩⟩

theorem LineMoves.link {u t : State} (h : LineMoves u t) (j : Slot) : (t.slot j).link = (u.slot j).link := by
  have := congrArg SlotRec.link (h.slots j); exact this

theorem LineMoves.trans {u t v : State} (h : LineMoves u t) (h' : LineMoves t v) : LineMoves u v := by
  refine ⟨h.rest.trans h'.rest, fun j => ?_, fun j => ?_, fun b h8 h9 => (h'.notices b h8 h9).trans (h.notices b h8 h9), ?_⟩
  · have a := h.slots j
    have b := h'.slots j
    rw [← b] at a
    exact a
  · rcases h'.verdicts j with e | ⟨e1, e2⟩
    · rw [e]; exact h.verdicts j
    · exact .inr ⟨(h.link j).symm.trans e1, e2⟩
  · obtain ⟨a1, a2, a3, a4, a5, a6⟩ := h.subjects
    obtain ⟨b1, b2, b3, b4, b5, b6⟩ := h'.subjects
    exact ⟨b1.trans a1, b2.trans a2, b3.trans a3, b4.trans a4, b5.trans a5, b6.trans a6⟩

/-- The line controller moves on in fields other than the slot records. -/
theorem LineMoves.of_line {u : State} {l : Line} (h : l.slots = u.line.slots) : LineMoves u (u.setLine l) := by
  have e : ∀ j, (u.setLine l).slot j = u.slot j := fun j => by simp [h, line_slots]
  exact ⟨⟨rfl, rfl, fun p hp => by cases p <;> first | rfl | simp at hp⟩, fun j => by rw [e], fun j => .inl (by rw [e]),
    fun _ _ _ => rfl, ⟨rfl, rfl, rfl, rfl, rfl, rfl⟩⟩

theorem LineMoves.of_raise {u : State} {n : NoticeUnit} {b : Nat} (hb : b = 8 ∨ b = 9)
    (hn : ∃ o, n = afterRaising b { u.notice with blockEnd := o }) : LineMoves u (u.setNotice n) := by
  obtain ⟨o, rfl⟩ := hn
  refine ⟨⟨rfl, rfl, fun p hp => by cases p <;> first | rfl | simp at hp⟩, fun j => rfl, fun j => .inl rfl,
    fun c h8 h9 => ?_, ⟨rfl, rfl, rfl, rfl, rfl, rfl⟩⟩
  have : b ≠ c := by rcases hb with rfl | rfl <;> omega
  simp [afterRaising, BitVec.getLsbD_twoPow, this]

end Sys2Proof.Safety

namespace Sys2Proof.Machine

open Sys2Proof.Safety

variable (s : State)

/-! ### Sending a CALL -/

theorem sendCall_phase (k : Slot) (kind : CallKind) : (sendCall k kind s).line.phase = .calling
    ⟨k, kind, callFrame k kind (if kind = .probe then .none else s.standing k) (s.slot k).verdict, s.now, false⟩ := by
  cases kind <;> rfl

theorem sendCall_slot (k j : Slot) (kind : CallKind) : (sendCall k kind s).slot j =
    if kind = .probe ∧ k = j then { s.slot j with verdict := none } else s.slot j := by
  cases kind with
  | regular => simp [sendCall, State.setPhase, line_slots]
  | probe =>
    have e : (sendCall k .probe s).slot j = (s.setSlot k { s.slot k with verdict := none }).slot j := rfl
    rw [e, setSlot_slot_if]
    by_cases h : k = j <;> simp [h]

/-- Everything of the line controller but the phase and the slot records stays. -/
theorem sendCall_line_eq (k : Slot) (kind : CallKind) : (sendCall k kind s).line =
    { s.line with slots := (sendCall k kind s).line.slots, phase := (sendCall k kind s).line.phase } := by
  cases kind <;> rfl

theorem selects_probe {k : Slot} (h : s.selects k = some .probe) : (s.slot k).link = .vacant := by
  unfold State.selects at h
  split at h <;> simp_all

theorem selects_regular {k : Slot} (h : s.selects k = some .regular) : (s.slot k).link = .live := by
  unfold State.selects at h
  split at h <;> simp_all

theorem sendCall_moves {k : Slot} {kind : CallKind} (h : kind = .probe → (s.slot k).link = .vacant) :
    LineMoves s (sendCall k kind s) := by
  refine ⟨(sendCall_only k kind s).mono (by decide), fun j => ?_, fun j => ?_, fun b _ _ => ?_, ?_⟩
  · rw [sendCall_slot]; split <;> rfl
  · rw [sendCall_slot]
    split
    · next e => exact .inr ⟨e.2 ▸ h e.1, rfl⟩
    · exact .inl rfl
  · rw [sendCall_notice]
  · rw [sendCall_notice]; exact ⟨rfl, rfl, rfl, rfl, rfl, rfl⟩

/-! ### Passing over slots and blocks -/

theorem blockEnd_moves (b : Block) : LineMoves s (blockEnd b s) := by
  unfold blockEnd
  split
  · exact .of_raise (.inr rfl) ⟨some b, raiseBlockEnd_notice s b⟩
  · exact .refl s

theorem nextCall_some {l : List Slot} {k : Slot} {kind : CallKind} (h : s.nextCall l = some (k, kind)) :
    k ∈ l ∧ s.selects k = some kind := by
  obtain ⟨j, hj, e⟩ := List.exists_of_findSome?_eq_some h
  rw [Option.map_eq_some_iff] at e
  obtain ⟨q, hq, e⟩ := e
  cases e
  exact ⟨hj, hq⟩

theorem nextCall_none {l : List Slot} : s.nextCall l = none ↔ ∀ k ∈ l, s.selects k = none := by
  simp [State.nextCall]

/-- Passing over blocks changes nothing but the notices; a slot that it finds is one of a block called, and is selected. -/
theorem passBlocks_moves (l : List Block) : LineMoves s (passBlocks l s).1 := by
  induction l generalizing s with
  | nil => exact .refl s
  | cons b bs ih =>
    unfold passBlocks
    split
    · split
      · exact .refl s
      · exact (blockEnd_moves s b).trans (ih _)
    · exact ih s

theorem selects_congr {s t : State} (h : t.line = s.line) (k : Slot) : t.selects k = s.selects k := by
  unfold State.selects; rw [slot_congr h, h]

theorem nextCall_congr {s t : State} (h : t.line = s.line) (l : List Slot) : t.nextCall l = s.nextCall l := by
  unfold State.nextCall
  congr 1
  funext k
  rw [selects_congr h]

theorem kept_congr {s t : State} (h : t.lock = s.lock) (b : Block) : t.kept b = s.kept b := by
  unfold State.kept
  congr 1
  funext c
  rw [lockOf_congr h, waitsOf_congr h]

theorem calls_congr {s t : State} (h : t.line = s.line) (h' : t.lock = s.lock) (b : Block) : t.calls b = s.calls b := by
  unfold State.calls; rw [kept_congr h', h]

theorem passBlocks_some {l : List Block} {k : Slot} {kind : CallKind} (h : (passBlocks l s).2 = some (k, kind)) :
    s.selects k = some kind ∧ ∃ l1 b l2, l = l1 ++ b :: l2 ∧ s.calls b ∧ s.nextCall (slotsOf b) = some (k, kind) ∧
      ∀ c ∈ l1, s.calls c → s.nextCall (slotsOf c) = none := by
  induction l generalizing s with
  | nil => cases h
  | cons b bs ih =>
    unfold passBlocks at h
    split at h
    · next hc =>
      split at h
      · next p hp =>
        cases h
        exact ⟨(nextCall_some s hp).2, [], b, bs, rfl, hc, hp, by simp⟩
      · next hn =>
        obtain ⟨h1, l1, b', l2, e, h2, h3, h4⟩ := ih _ h
        rw [selects_congr (blockEnd_line b s)] at h1
        rw [calls_congr (blockEnd_line b s) (blockEnd_lock b s)] at h2
        rw [nextCall_congr (blockEnd_line b s)] at h3
        refine ⟨h1, b :: l1, b', l2, by rw [e]; rfl, h2, h3, fun c hc' hcc => ?_⟩
        rcases List.mem_cons.1 hc' with rfl | hm
        · exact hn
        · have := h4 c hm
          rw [calls_congr (blockEnd_line b s) (blockEnd_lock b s), nextCall_congr (blockEnd_line b s)] at this
          exact this hcc
    · next hc =>
      obtain ⟨h1, l1, b', l2, e, h2, h3, h4⟩ := ih _ h
      refine ⟨h1, b :: l1, b', l2, by rw [e]; rfl, h2, h3, fun c hc' hcc => ?_⟩
      rcases List.mem_cons.1 hc' with rfl | hm
      · exact absurd hcc hc
      · exact h4 c hm hcc

theorem passBlocks_none {l : List Block} (h : (passBlocks l s).2 = none) :
    ∀ b ∈ l, s.calls b → s.nextCall (slotsOf b) = none := by
  induction l generalizing s with
  | nil => simp
  | cons b bs ih =>
    unfold passBlocks at h
    intro c hc hcc
    split at h
    · split at h
      · cases h
      · next hn =>
        rcases List.mem_cons.1 hc with rfl | hm
        · exact hn
        · have := ih _ h c hm
          rw [calls_congr (blockEnd_line b s) (blockEnd_lock b s), nextCall_congr (blockEnd_line b s)] at this
          exact this hcc
    · next hb =>
      rcases List.mem_cons.1 hc with rfl | hm
      · exact absurd hcc hb
      · exact ih _ h c hm hcc

/-! ### Beginning and ending a round -/

theorem openRound_slot (j : Slot) : (openRound s).slot j = { s.slot j with mode := (s.slot j).nextMode } := by
  simp [openRound, line_slots]

theorem openRound_moves : LineMoves s (openRound s) :=
  ⟨(openRound_only s).mono (by decide), fun j => by rw [openRound_slot], fun j => .inl (by rw [openRound_slot]),
    fun _ _ _ => rfl, ⟨rfl, rfl, rfl, rfl, rfl, rfl⟩⟩

theorem startRound_moves : LineMoves s (startRound s) := by
  have e := (openRound_moves s).trans (passBlocks_moves _ allBlocks)
  have l : (passBlocks allBlocks (openRound s)).1.line = (openRound s).line :=
    (passBlocks_only allBlocks (openRound s)).line (by decide)
  unfold startRound
  split
  · next u k kind h =>
    rw [h] at e l
    refine e.trans (sendCall_moves u fun hp => ?_)
    have := (passBlocks_some _ (congrArg Prod.snd h)).1
    rw [hp] at this
    rw [slot_congr l]
    exact selects_probe _ this
  · next u h => rw [h] at e; exact e.trans (.of_line rfl)

theorem measureRound_moves : LineMoves s (measureRound s) := .of_line rfl

theorem endRound_moves : LineMoves s (endRound s) := by
  have e : LineMoves s (if s.roundLate then raise .lateRound (measureRound s) else measureRound s) := by
    split
    · exact (measureRound_moves s).trans (.of_raise (.inl rfl) ⟨_, rfl⟩)
    · exact measureRound_moves s
  unfold endRound
  dsimp only
  split
  · exact e.trans (startRound_moves _)
  · exact e.trans (.of_line rfl)

theorem continueRound_moves (k : Slot) : LineMoves s (continueRound k s) := by
  unfold continueRound
  dsimp only
  split
  · next j kind h =>
    refine sendCall_moves s fun hp => ?_
    have := (nextCall_some _ h).2
    rw [hp] at this
    exact selects_probe _ this
  · have e := (blockEnd_moves s ⟨k.val / 8, by omega⟩).trans
      (passBlocks_moves _ (allBlocks.filter fun c => (⟨k.val / 8, by omega⟩ : Block) < c))
    have l : (passBlocks (allBlocks.filter fun c => (⟨k.val / 8, by omega⟩ : Block) < c)
        (blockEnd ⟨k.val / 8, by omega⟩ s)).1.line = (blockEnd ⟨k.val / 8, by omega⟩ s).line :=
      (passBlocks_only _ _).line (by decide)
    split
    · next u j kind h =>
      rw [h] at e l
      refine e.trans (sendCall_moves u fun hp => ?_)
      have := (passBlocks_some _ (congrArg Prod.snd h)).1
      rw [hp] at this
      rw [slot_congr l]
      exact selects_probe _ this
    · next u h => rw [h] at e; exact e.trans (endRound_moves u)

/-- After the end of any exchange the line moves on, and nothing else happens (R113, R122, R125). -/
theorem afterExchange_moves (k : Slot) : LineMoves s (afterExchange k s) := by
  unfold afterExchange
  split
  · exact .of_line rfl
  · exact continueRound_moves s k

/-! ### Searches in rising order -/

theorem slotsOf_mem {b : Block} {k : Slot} : k ∈ slotsOf b ↔ k.val / 8 = b.val := by
  simp [slotsOf]

/-- A search of a list in rising order finds the first that answers. -/
theorem findSome_sorted {α β : Type} {f : α → Option β} {l : List α} {r : α → α → Prop} (hl : l.Pairwise r) {b : β}
    (h : l.findSome? f = some b) : ∃ a ∈ l, f a = some b ∧ ∀ c ∈ l, f c ≠ none → c = a ∨ r a c := by
  induction l with
  | nil => cases h
  | cons a l ih =>
    rw [List.pairwise_cons] at hl
    rw [List.findSome?_cons] at h
    cases e : f a with
    | some x =>
      rw [e] at h; cases h
      refine ⟨a, by simp, e, fun c hc _ => ?_⟩
      rcases List.mem_cons.1 hc with rfl | hc
      · exact .inl rfl
      · exact .inr (hl.1 c hc)
    | none =>
      rw [e] at h
      obtain ⟨a', h1, h2, h3⟩ := ih hl.2 h
      refine ⟨a', by simp [h1], h2, fun c hc hn => ?_⟩
      rcases List.mem_cons.1 hc with rfl | hc
      · exact absurd e hn
      · exact h3 c hc hn

theorem allBlocks_sorted : allBlocks.Pairwise (· < ·) := by decide

theorem slotsOf_sorted (b : Block) : (slotsOf b).Pairwise (· < ·) := by
  apply List.Pairwise.filter
  exact List.pairwise_lt_finRange 64

theorem nextCall_first_of {s : State} {l : List Slot} {k : Slot} {kind : CallKind} (hl : l.Pairwise (· < ·))
    (h : s.nextCall l = some (k, kind)) (j : Slot) (hj : j ∈ l) (hjk : j < k) : s.selects j = none := by
  obtain ⟨a, h1, h2, h3⟩ := findSome_sorted hl h
  rw [Option.map_eq_some_iff] at h2
  obtain ⟨q, h2, h4⟩ := h2
  cases h4
  by_contra hn
  rcases h3 j hj (by simpa using hn) with e | e
  · subst e; exact absurd hjk (lt_irrefl _)
  · exact absurd hjk (lt_asymm e)

theorem nextCall_first {s : State} {b : Block} {k : Slot} {kind : CallKind}
    (h : s.nextCall (slotsOf b) = some (k, kind)) (j : Slot) (hj : j.val / 8 = b.val) (hjk : j < k) : s.selects j = none :=
  nextCall_first_of (slotsOf_sorted b) h j (slotsOf_mem.2 hj) hjk

/-- In a list in rising order, what is below a member stands before it. -/
theorem mem_before {α : Type} [Preorder α] {l1 l2 : List α} {a b : α} (h : (l1 ++ b :: l2).Pairwise (· < ·))
    (ha : a ∈ l1 ++ b :: l2) (hab : a < b) : a ∈ l1 := by
  rw [List.pairwise_append] at h
  rcases List.mem_append.1 ha with ha | ha
  · exact ha
  · rcases List.mem_cons.1 ha with rfl | ha
    · exact absurd hab (lt_irrefl _)
    · exact absurd hab (lt_asymm ((List.pairwise_cons.1 h.2.1).1 _ ha))

/-- The ends of a block that is being called and of the blocks after it. -/
theorem filter_from (b : Block) (p q r : Block → Bool) (hq : q b = true) :
    (List.finRange 8).filter (fun c => (decide (c.val = b.val) || (decide (b.val < c.val) && p c)) && q c && r c) =
      (if r b then [b] else []) ++ (allBlocks.filter fun c => b < c).filter fun c => (p c && r c) && q c := by
  have hsp : List.finRange 8 = ((List.finRange 8).filter (· < b)) ++ b :: ((List.finRange 8).filter (b < ·)) := by
    clear hq; revert b; decide
  have h1 : ((List.finRange 8).filter (· < b)).filter
      (fun c => (decide (c.val = b.val) || (decide (b.val < c.val) && p c)) && q c && r c) = [] := by
    rw [List.filter_eq_nil_iff]
    intro c hc hf
    have : c.val < b.val := by simpa using (List.mem_filter.1 hc).2
    simp only [Bool.and_eq_true, Bool.or_eq_true, decide_eq_true_eq] at hf
    omega
  have h2 : ((List.finRange 8).filter (b < ·)).filter
      (fun c => (decide (c.val = b.val) || (decide (b.val < c.val) && p c)) && q c && r c) =
      ((List.finRange 8).filter (b < ·)).filter fun c => (p c && r c) && q c := by
    refine List.filter_congr fun c hc => ?_
    have hbc : b.val < c.val := by simpa using (List.mem_filter.1 hc).2
    have hne : c.val ≠ b.val := by omega
    simp only [hbc, hne, decide_true, decide_false, Bool.false_or, Bool.true_and]
    cases p c <;> cases q c <;> cases r c <;> rfl
  conv_lhs => rw [hsp]
  rw [List.filter_append, h1, List.nil_append, List.filter_cons, h2]
  unfold allBlocks
  simp only [hq, decide_true, Bool.true_or, Bool.true_and]
  split <;> rfl

/-! ### How a round goes on, whole -/

theorem blockEnd_eq (b : Block) : blockEnd b s =
    s.setNotice (afterBlockEnds (if s.line.blockEndEnable.getLsbD b.val then [b] else []) s.notice) := by
  unfold blockEnd
  split <;> rfl

theorem afterRaising_idem (o o' : Option Block) (n : NoticeUnit) :
    afterRaising 9 { afterRaising 9 { n with blockEnd := o } with blockEnd := o' } = afterRaising 9 { n with blockEnd := o' } := by
  simp only [afterRaising, BitVec.or_assoc, BitVec.or_self]

theorem afterBlockEnds_append (l m : List Block) (n : NoticeUnit) :
    afterBlockEnds m (afterBlockEnds l n) = afterBlockEnds (l ++ m) n := by
  unfold afterBlockEnds
  rw [List.getLast?_append]
  cases m.getLast? with
  | none => rfl
  | some b => cases l.getLast? with
    | none => rfl
    | some a => exact afterRaising_idem _ _ _

/-- The blocks of a list that are called and whose end is enabled (R124). -/
def State.endingOf (s : State) (l : List Block) : List Block :=
  l.filter fun b => s.calls b && s.line.blockEndEnable.getLsbD b.val

theorem endingOf_cons (b : Block) (l : List Block) : s.endingOf (b :: l) =
    (if s.calls b && s.line.blockEndEnable.getLsbD b.val then [b] else []) ++ s.endingOf l := by
  unfold State.endingOf
  rw [List.filter_cons]
  split <;> rfl

/-- Passing over blocks, whole: the notices of the blocks passed, and the first slot called. -/
theorem passBlocks_eq (l : List Block) :
    ((passBlocks l s).2 = none → (passBlocks l s).1 = s.setNotice (afterBlockEnds (s.endingOf l) s.notice)) ∧
      ∀ p, (passBlocks l s).2 = some p → ∃ l1 b l2, l = l1 ++ b :: l2 ∧ s.calls b ∧ s.nextCall (slotsOf b) = some p ∧
        (∀ c ∈ l1, s.calls c → s.nextCall (slotsOf c) = none) ∧
        (passBlocks l s).1 = s.setNotice (afterBlockEnds (s.endingOf l1) s.notice) := by
  induction l generalizing s with
  | nil => exact ⟨fun _ => rfl, fun _ h => by cases h⟩
  | cons b bs ih =>
    unfold passBlocks
    split
    · next hc =>
      split
      · next p hp =>
        refine ⟨fun h => (nomatch h), fun q hq => ?_⟩
        cases hq
        exact ⟨[], b, bs, rfl, hc, hp, by simp, rfl⟩
      · next hn =>
        have hl := blockEnd_line b s
        have hk := blockEnd_lock b s
        have he : (blockEnd b s).endingOf = s.endingOf := by
          funext l; unfold State.endingOf; rw [hl]; congr; funext c; rw [calls_congr hl hk]
        have hfirst : ∀ l, (blockEnd b s).setNotice (afterBlockEnds ((blockEnd b s).endingOf l) (blockEnd b s).notice) =
            s.setNotice (afterBlockEnds (s.endingOf (b :: l)) s.notice) := by
          intro l
          rw [he, endingOf_cons, hc, ← afterBlockEnds_append, blockEnd_eq]
          rfl
        obtain ⟨h1, h2⟩ := ih (blockEnd b s)
        refine ⟨fun h => (h1 h).trans (hfirst bs), fun p hp => ?_⟩
        obtain ⟨l1, b', l2, e, g1, g2, g3, g4⟩ := h2 p hp
        refine ⟨b :: l1, b', l2, by rw [e]; rfl, calls_congr hl hk b' ▸ g1, (nextCall_congr hl _).symm.trans g2,
          fun c hc' hcc => ?_, g4.trans (hfirst l1)⟩
        rcases List.mem_cons.1 hc' with rfl | hm
        · exact hn
        · exact (nextCall_congr hl _).symm.trans (g3 c hm (by rw [calls_congr hl hk]; exact hcc))
    · next hc =>
      have hfirst : ∀ l, s.endingOf l = s.endingOf (b :: l) := by
        intro l; rw [endingOf_cons]; simp [hc]
      obtain ⟨h1, h2⟩ := ih s
      refine ⟨fun h => by rw [h1 h, hfirst], fun p hp => ?_⟩
      obtain ⟨l1, b', l2, e, g1, g2, g3, g4⟩ := h2 p hp
      refine ⟨b :: l1, b', l2, by rw [e]; rfl, g1, g2, fun c hc' hcc => ?_, by rw [g4, hfirst]⟩
      rcases List.mem_cons.1 hc' with rfl | hm
      · exact absurd hcc hc
      · exact g3 c hm hcc

/-- A CALL sent, whole. -/
theorem sendCall_eq (k : Slot) (kind : CallKind) : sendCall k kind s =
    { s with
      line := { s.line with
        phase := .calling
          ⟨k, kind, callFrame k kind (if kind = .probe then .none else s.standing k) (s.slot k).verdict, s.now, false⟩
        slots := if kind = .probe then s.line.slots.set k { s.slot k with verdict := none } else s.line.slots } } := by
  cases kind <;> rfl

/-- In a list of blocks in rising order, those before block `b` are the ones below it. -/
theorem filter_below {l1 l2 : List Block} {b : Block} (h : (l1 ++ b :: l2).Pairwise (· < ·)) (p : Block → Bool) :
    (l1 ++ b :: l2).filter (fun c => p c && decide (c < b)) = l1.filter p := by
  rw [List.pairwise_append] at h
  obtain ⟨-, h2, h3⟩ := h
  rw [List.filter_append]
  have e1 : l1.filter (fun c => p c && decide (c < b)) = l1.filter p :=
    List.filter_congr fun c hc => by simp [h3 c hc b (by simp)]
  have e2 : (b :: l2).filter (fun c => p c && decide (c < b)) = [] := by
    rw [List.filter_eq_nil_iff]
    intro c hc
    rcases List.mem_cons.1 hc with rfl | hc
    · simp
    · have := (List.pairwise_cons.1 h2).1 c hc
      simp [not_lt.2 this.le]
  rw [e1, e2, List.append_nil]

/-- R113, R115, R122: what the beginning of a round does. -/
theorem startRound_begun (s : State) : RoundBegun s (startRound s) := by
  have ho : openRound s = roundOpened s := rfl
  have hcall : ∀ j, calledAfter (roundOpened s) none j = calledNow (roundOpened s) j := fun _ => rfl
  obtain ⟨h1, h2⟩ := passBlocks_eq (openRound s) allBlocks
  unfold startRound
  cases hp : (passBlocks allBlocks (openRound s)).2 with
  | none =>
    have hn := passBlocks_none (openRound s) hp
    refine .inr ⟨fun j => ?_, ?_⟩
    · rw [hcall]; unfold calledNow
      split
      · next hc => exact (nextCall_none _).1 (hn _ (mem_allBlocks _) hc) j (slotsOf_mem.2 rfl)
      · rfl
    · have e : passBlocks allBlocks (openRound s) = (_, none) := Prod.ext (h1 hp) hp
      rw [e]
      have : endsOnTheWay (roundOpened s) none none = (openRound s).endingOf allBlocks := by
        unfold endsOnTheWay State.endingOf; simp only [Bool.and_true]; rfl
      rw [this]; rfl
  | some p =>
    obtain ⟨k, kind⟩ := p
    obtain ⟨l1, b, l2, hall, hcb, hnb, hpre, he⟩ := h2 _ hp
    have hkb : k.val / 8 = b.val := slotsOf_mem.1 (nextCall_some _ hnb).1
    have hb : (⟨k.val / 8, by omega⟩ : Block) = b := Fin.ext hkb
    have hso := allBlocks_sorted
    rw [hall] at hso
    have e : passBlocks allBlocks (openRound s) = (_, some (k, kind)) := Prod.ext he hp
    refine .inl ⟨k, kind, ?_, fun j hj => ?_, ?_⟩
    · rw [hcall]; unfold calledNow; rw [hb]
      exact (if_pos hcb).trans (nextCall_some _ hnb).2
    · rw [hcall]; unfold calledNow
      split
      · next hc =>
        by_cases hjb : j.val / 8 = b.val
        · exact nextCall_first hnb j hjb hj
        · have hlt : (⟨j.val / 8, by omega⟩ : Block) < b := by
            show j.val / 8 < b.val
            have : j.val < k.val := hj
            omega
          have hm : (⟨j.val / 8, by omega⟩ : Block) ∈ l1 := mem_before hso (hall ▸ mem_allBlocks _) hlt
          exact (nextCall_none _).1 (hpre _ hm hc) j (slotsOf_mem.2 rfl)
      · rfl
    · rw [e]
      dsimp only
      rw [sendCall_eq]
      have : endsOnTheWay (roundOpened s) none (some k) = (openRound s).endingOf l1 := by
        unfold State.endingOf
        rw [← filter_below hso, ← hall]
        unfold endsOnTheWay
        refine List.filter_congr fun c _ => ?_
        have : decide (c.val < k.val / 8) = decide (c < b) := by rw [hkb]; rfl
        simp only [this, ho]
        cases (roundOpened s).calls c <;> simp [Bool.and_comm]
      rw [this]; rfl

/-- R122, R123: what the end of a round does. -/
theorem endRound_ended (s : State) : RoundEnded s (endRound s) := by
  have hm : (if s.roundLate then raise .lateRound (measureRound s) else measureRound s) =
      { s with
        line := { s.line with
          lastDuration := min 65535 ((s.now - s.line.roundStart) / 10)
          minDuration := min (min 65535 ((s.now - s.line.roundStart) / 10)) s.line.minDuration
          maxDuration := max (min 65535 ((s.now - s.line.roundStart) / 10)) s.line.maxDuration }
        notice := if ∃ n ∈ s.line.dueAt, n < s.now then afterRaising 8 s.notice else s.notice } := by
    have : s.roundLate = true ↔ ∃ n ∈ s.line.dueAt, n < s.now := by
      unfold State.roundLate; cases s.line.dueAt <;> simp
    by_cases h : s.roundLate = true
    · rw [if_pos h, if_pos (this.1 h)]; rfl
    · rw [if_neg h, if_neg fun e => h (this.2 e)]; rfl
  unfold RoundEnded endRound
  dsimp only
  rw [hm]
  refine ⟨fun h1 h2 => ?_, fun h => ?_⟩
  · rw [if_neg (by simp [h1, h2])]
  · rw [if_pos h]; exact startRound_begun _

/-- R113, R124: what follows an exchange on a link that goes on. -/
theorem continueRound_followed (k : Slot) : (∃ j kind, GoesTo s (continueRound k s) (some k) j kind) ∨
    ((∀ j, calledAfter s (some k) j = none) ∧
      RoundEnded { s with notice := afterBlockEnds (endsOnTheWay s (some k) none) s.notice } (continueRound k s)) := by
  have hsame : ∀ j : Slot, k < j → j.val / 8 = k.val / 8 → calledAfter s (some k) j = s.selects j := by
    intro j h1 h2; unfold calledAfter; dsimp only; rw [if_neg (not_le.2 h1), if_pos h2]
  have hmem : ∀ {j : Slot}, j ∈ ((slotsOf ⟨k.val / 8, by omega⟩).filter fun j => k < j) ↔ j.val / 8 = k.val / 8 ∧ k < j := by
    intro j; rw [List.mem_filter, slotsOf_mem]; simp
  unfold continueRound
  dsimp only
  split
  · next j kind h =>
    obtain ⟨hj1, hj2⟩ := nextCall_some _ h
    obtain ⟨hb, hkj⟩ := hmem.1 hj1
    refine .inl ⟨j, kind, by rw [hsame j hkj hb]; exact hj2, fun i hi => ?_, ?_⟩
    · by_cases hik : i ≤ k
      · exact if_pos hik
      · have hki := not_le.1 hik
        have hib : i.val / 8 = k.val / 8 := by
          have h1 : k.val < i.val := hki
          have h2 : i.val < j.val := hi
          omega
        rw [hsame i hki hib]
        exact nextCall_first_of ((slotsOf_sorted _).filter _) h i (hmem.2 ⟨hib, hki⟩) hi
    · rw [sendCall_eq]
      have : endsOnTheWay s (some k) (some j) = [] := by
        unfold endsOnTheWay
        rw [List.filter_eq_nil_iff]
        intro b _ hf
        simp only [Bool.and_eq_true, Bool.or_eq_true, decide_eq_true_eq] at hf
        omega
      rw [this]; rfl
  · next h =>
    have hnone := (nextCall_none _).1 h
    have hl := blockEnd_line (⟨k.val / 8, by omega⟩ : Block) s
    have hk := blockEnd_lock (⟨k.val / 8, by omega⟩ : Block) s
    generalize hrest : (allBlocks.filter fun c => (⟨k.val / 8, by omega⟩ : Block) < c) = rest
    have hrestmem : ∀ {c : Block}, c ∈ rest ↔ k.val / 8 < c.val := by
      intro c; rw [← hrest, List.mem_filter]; simp [Fin.lt_def]
    have hso : rest.Pairwise (· < ·) := hrest ▸ allBlocks_sorted.filter _
    have he : ∀ l, (blockEnd ⟨k.val / 8, by omega⟩ s).endingOf l = s.endingOf l := by
      intro l; unfold State.endingOf; rw [hl]; congr; funext c; rw [calls_congr hl hk]
    -- the notices of the block that ends, and of those passed after it
    have hnot : ∀ l, (blockEnd ⟨k.val / 8, by omega⟩ s).setNotice
          (afterBlockEnds ((blockEnd ⟨k.val / 8, by omega⟩ s).endingOf l) (blockEnd ⟨k.val / 8, by omega⟩ s).notice) =
        s.setNotice (afterBlockEnds
          ((if s.line.blockEndEnable.getLsbD (k.val / 8) then [(⟨k.val / 8, by omega⟩ : Block)] else []) ++ s.endingOf l)
          s.notice) := by
      intro l; rw [he, ← afterBlockEnds_append, blockEnd_eq]; rfl
    have hends : ∀ (q : Block → Bool), q ⟨k.val / 8, by omega⟩ = true →
        (List.finRange 8).filter (fun b =>
          (decide (b.val = k.val / 8) || (decide (k.val / 8 < b.val) && s.calls b)) && q b && s.line.blockEndEnable.getLsbD b.val) =
        (if s.line.blockEndEnable.getLsbD (k.val / 8) then [(⟨k.val / 8, by omega⟩ : Block)] else []) ++
          rest.filter fun b => (s.calls b && s.line.blockEndEnable.getLsbD b.val) && q b := by
      intro q hq
      rw [← hrest]
      exact filter_from ⟨k.val / 8, by omega⟩ s.calls q (fun b => s.line.blockEndEnable.getLsbD b.val) hq
    have hafter : ∀ (j : Slot), k.val / 8 < j.val / 8 → calledAfter s (some k) j = calledNow s j := by
      intro j hj
      have : k < j := by show k.val < j.val; omega
      unfold calledAfter; dsimp only; rw [if_neg (not_le.2 this), if_neg (by omega)]
    have hbefore : ∀ j : Slot, j.val / 8 ≤ k.val / 8 → calledAfter s (some k) j = none := by
      intro j hj
      by_cases hjk : j ≤ k
      · exact if_pos hjk
      · have h1 := not_le.1 hjk
        have h2 : k.val < j.val := h1
        have h3 : j.val / 8 = k.val / 8 := by omega
        rw [hsame j h1 h3]
        exact hnone j (hmem.2 ⟨h3, h1⟩)
    obtain ⟨h1, h2⟩ := passBlocks_eq (blockEnd ⟨k.val / 8, by omega⟩ s) rest
    cases hp : (passBlocks rest (blockEnd ⟨k.val / 8, by omega⟩ s)).2 with
    | none =>
      have hn := passBlocks_none (blockEnd ⟨k.val / 8, by omega⟩ s) hp
      have e := Prod.ext ((h1 hp).trans (hnot rest)) (hp.trans (rfl : _ = (_, (none : Option (Slot × CallKind))).2))
      refine .inr ⟨fun j => ?_, ?_⟩
      · by_cases hj : j.val / 8 ≤ k.val / 8
        · exact hbefore j hj
        · rw [hafter j (not_le.1 hj)]
          unfold calledNow
          split
          · next hc =>
            have := hn ⟨j.val / 8, by omega⟩ (hrestmem.2 (not_le.1 hj)) (by rw [calls_congr hl hk]; exact hc)
            rw [nextCall_congr hl] at this
            exact (nextCall_none _).1 this j (slotsOf_mem.2 rfl)
          · rfl
      · rw [e]
        have : endsOnTheWay s (some k) none = (if s.line.blockEndEnable.getLsbD (k.val / 8) then [(⟨k.val / 8, by omega⟩ : Block)] else []) ++ s.endingOf rest := by
          have := hends (fun _ => true) rfl
          simp only [Bool.and_true] at this
          unfold endsOnTheWay State.endingOf
          simp only [Bool.and_true]
          exact this
        rw [this]
        exact endRound_ended _
    | some p =>
      obtain ⟨j, kind⟩ := p
      obtain ⟨l1, b, l2, hall, hcb, hnb, hpre, hf⟩ := h2 _ hp
      have e := Prod.ext (hf.trans (hnot l1)) (hp.trans (rfl : _ = (_, some (j, kind)).2))
      rw [calls_congr hl hk] at hcb
      rw [nextCall_congr hl] at hnb
      have hjb : j.val / 8 = b.val := slotsOf_mem.1 (nextCall_some _ hnb).1
      have hb : (⟨j.val / 8, by omega⟩ : Block) = b := Fin.ext hjb
      have hkb : k.val / 8 < b.val := hrestmem.1 (by rw [hall]; simp)
      have hsob := hall ▸ hso
      refine .inl ⟨j, kind, ?_, fun i hi => ?_, ?_⟩
      · rw [hafter j (by omega)]; unfold calledNow; rw [hb]
        exact (if_pos hcb).trans (nextCall_some _ hnb).2
      · by_cases hib : i.val / 8 ≤ k.val / 8
        · exact hbefore i hib
        · rw [hafter i (not_le.1 hib)]; unfold calledNow
          split
          · next hc =>
            by_cases hie : i.val / 8 = b.val
            · exact nextCall_first hnb i hie hi
            · have hlt : (⟨i.val / 8, by omega⟩ : Block) < b := by
                show i.val / 8 < b.val
                have : i.val < j.val := hi
                omega
              have hm : (⟨i.val / 8, by omega⟩ : Block) ∈ l1 :=
                mem_before hsob (hall ▸ hrestmem.2 (not_le.1 hib)) hlt
              have := hpre _ hm (by rw [calls_congr hl hk]; exact hc)
              rw [nextCall_congr hl] at this
              exact (nextCall_none _).1 this i (slotsOf_mem.2 rfl)
          · rfl
      · rw [e]
        refine (sendCall_eq _ j kind).trans ?_
        have : endsOnTheWay s (some k) (some j) = (if s.line.blockEndEnable.getLsbD (k.val / 8) then [(⟨k.val / 8, by omega⟩ : Block)] else []) ++ s.endingOf l1 := by
          have := hends (fun c => decide (c.val < j.val / 8)) (by simp; omega)
          unfold endsOnTheWay
          refine this.trans ?_
          unfold State.endingOf
          rw [← filter_below hsob, ← hall, hjb]
          rfl
        rw [this]; rfl

end Sys2Proof.Machine

namespace Sys2Proof.Safety

open Sys2Proof.Machine

theorem GoesTo.lastExpiry {s t : State} {o : Option Slot} {j : Slot} {kind : CallKind} (h : GoesTo s t o j kind) :
    t.line.lastExpiry = s.line.lastExpiry := by rw [h.2.2]

theorem RoundBegun.lastExpiry {s t : State} (h : RoundBegun s t) : t.line.lastExpiry = s.line.lastExpiry := by
  rcases h with ⟨j, kind, h⟩ | ⟨-, h⟩
  · exact h.lastExpiry.trans rfl
  · rw [h]; rfl

theorem RoundEnded.lastExpiry {s t : State} (h : RoundEnded s t) : t.line.lastExpiry = s.line.lastExpiry := by
  by_cases hp : s.line.roundPeriod ≠ 0 ∧ s.line.dueAt = none
  · rw [h.1 hp.1 hp.2]; rfl
  · refine (RoundBegun.lastExpiry (h.2 ?_)).trans rfl
    rw [not_and_or, not_not] at hp
    exact hp.imp id fun e => by rwa [← ne_eq, Option.ne_none_iff_isSome] at e

end Sys2Proof.Safety

namespace Sys2Proof.Machine

open Sys2Proof.Safety

variable (s : State)

theorem afterExchange_lastExpiry (k : Slot) : (afterExchange k s).line.lastExpiry = s.line.lastExpiry := by
  unfold afterExchange
  split
  · rfl
  · rcases continueRound_followed s k with ⟨j, kind, h⟩ | ⟨-, h⟩
    · exact h.lastExpiry
    · exact h.lastExpiry.trans rfl

/-- R113, R122 to R125: what follows the end of an exchange, whole. -/
theorem afterExchange_goesOn {k : Slot} (h : ∀ x ∈ exchangeOf s, x.slot = k) : LineGoesOn s (afterExchange k s) := by
  have hw := afterExchange_moves s k
  have hlast : ∀ t : State, t.line.lastExpiry = s.line.lastExpiry →
      ({ t with line := { t.line with lastExpiry := s.line.lastExpiry } } : State) = t := by
    rintro t e; rw [← e]
  refine ⟨fun x hx => ?_, hw.rest, hw.slots, hw.verdicts, hw.notices, hw.subjects⟩
  rw [h x hx, hlast _ (afterExchange_lastExpiry s k)]
  unfold afterExchange
  refine ⟨fun hr => ?_, fun hr => ?_⟩
  · rw [if_pos hr]; rfl
  · rw [if_neg (by rw [hr]; decide)]; exact continueRound_followed s k

end Sys2Proof.Machine

namespace Sys2Proof.Safety

open Sys2Proof.Machine

/-- The same with the moment of a window's expiry noted (R116). -/
theorem LineGoesOn.noted {u t : State} (h : LineGoesOn u t) (o : Option Nat) :
    LineGoesOn u (t.setLine { t.line with lastExpiry := o }) :=
  ⟨fun x hx => h.follows x hx, ⟨h.rest.1, h.rest.2.1, fun p hp => by
    have := h.rest.2.2 p hp
    cases p <;> first | exact this | simp at hp⟩, h.slots, h.verdicts, h.notices, h.subjects⟩

end Sys2Proof.Safety
end

