-- ==== Sys2Proof/Laws/Operands.lean ====
section
/-! SUPPORT. What each reader of a payload byte answers, by the value of the byte. -/

namespace Sys2Proof

theorem readCol_eq {b : Byte} {c : Col} (h : b.toNat = c.val) : readCol b = some c := by
  have hc := c.isLt
  simp [readCol, h]
theorem readCol_none {b : Byte} (h : 15 < b.toNat) : readCol b = none := by
  simp [readCol]; omega
theorem readCol_some {b : Byte} {c : Col} (h : readCol b = some c) : b.toNat = c.val := by
  unfold readCol at h
  split at h
  · cases h; rfl
  · cases h

theorem readSlotNo_eq {b : Byte} {k : Slot} (h : b.toNat = k.val) : readSlotNo b = some k := by
  have hk := k.isLt
  simp [readSlotNo, h]
theorem readSlotNo_none {b : Byte} (h : 63 < b.toNat) : readSlotNo b = none := by
  simp [readSlotNo]; omega
theorem readSlotNo_some {b : Byte} {k : Slot} (h : readSlotNo b = some k) : b.toNat = k.val := by
  unfold readSlotNo at h
  split at h
  · cases h; rfl
  · cases h

theorem readBlockNo_eq {b : Byte} {k : Block} (h : b.toNat = k.val) : readBlockNo b = some k := by
  have hk := k.isLt
  simp [readBlockNo, h]
theorem readBlockNo_none {b : Byte} (h : 7 < b.toNat) : readBlockNo b = none := by
  simp [readBlockNo]; omega

theorem readRowNo_eq {b : Byte} {n : Fin 16} (h : b.toNat = n.val) : readRowNo b = some n := by
  have hn := n.isLt
  simp [readRowNo, h]
theorem readRowNo_none {b : Byte} (h : 15 < b.toNat) : readRowNo b = none := by
  simp [readRowNo]; omega

theorem readHandle_eq {i g : Byte} {h : Handle} (hi : i.toNat = h.idx.val) (hg : g.toNat = h.gen.val) :
    readHandle i g = some h := by
  have a := h.idx.isLt
  have b := h.gen.isLt
  simp [readHandle, hi, hg]
theorem readHandle_none {i g : Byte} (h : 63 < i.toNat ∨ 15 < g.toNat) : readHandle i g = none := by
  simp [readHandle]; omega
theorem readHandle_some {i g : Byte} {h : Handle} (e : readHandle i g = some h) :
    i.toNat = h.idx.val ∧ g.toNat = h.gen.val := by
  unfold readHandle at e
  split at e
  · cases e; exact ⟨rfl, rfl⟩
  · cases e

/-- A byte is known by its value. -/
theorem byte_eq_of_toNat {b : Byte} {n : Nat} (h : b.toNat = n) : b = BitVec.ofNat 8 n := by
  apply BitVec.eq_of_toNat_eq
  have := b.isLt
  simp; omega

theorem readClass_none {b : Byte} (h : 2 < b.toNat) : readClass b = none := by
  unfold readClass
  split <;> first | omega | rfl
theorem readClass_eq {b : Byte} (h : b.toNat ≤ 2) :
    readClass b = some (if b = 0 then .ambient else if b = 1 then .chilled else .frozen) := by
  obtain h | h | h : b.toNat = 0 ∨ b.toNat = 1 ∨ b.toNat = 2 := by omega
  all_goals rw [byte_eq_of_toNat h]; rfl

theorem readSlotMode_none {b : Byte} (h : 2 < b.toNat) : readSlotMode b = none := by
  unfold readSlotMode
  split <;> first | omega | rfl
theorem readSlotMode_eq {b : Byte} (h : b.toNat ≤ 2) :
    readSlotMode b = some (if b = 0 then .off else if b = 1 then .quiet else .on) := by
  obtain h | h | h : b.toNat = 0 ∨ b.toNat = 1 ∨ b.toNat = 2 := by omega
  all_goals rw [byte_eq_of_toNat h]; rfl

theorem readRowOp_none {b : Byte} (h : 1 < b.toNat) : readRowOp b = none := by
  unfold readRowOp
  split <;> first | omega | rfl
theorem readRowOp_eq {b : Byte} (h : b.toNat ≤ 1) : readRowOp b = some (if b = 0 then .upsert else .delete) := by
  obtain h | h : b.toNat = 0 ∨ b.toNat = 1 := by omega
  all_goals rw [byte_eq_of_toNat h]; rfl

theorem readClassSet_none {b : Byte} (h : b.toNat = 0 ∨ 8 ≤ b.toNat) : readClassSet b = none := by
  simp [readClassSet]; omega
theorem readClassSet_eq {b : Byte} (h : b.toNat ≠ 0) (h' : b.toNat < 8) :
    readClassSet b = some ⟨b.getLsbD 0, b.getLsbD 1, b.getLsbD 2⟩ := by
  simp [readClassSet]; omega

theorem readAskedService_none {b : Byte} (h : b ≠ 1 ∧ b ≠ 2 ∧ b ≠ 5) : readAskedService b = none := by
  unfold readAskedService
  split
  · exact absurd (byte_eq_of_toNat (by assumption)) h.1
  · exact absurd (byte_eq_of_toNat (by assumption)) h.2.1
  · exact absurd (byte_eq_of_toNat (by assumption)) h.2.2
  · rfl
theorem readAskedService_eq {b : Byte} (h : b = 1 ∨ b = 2 ∨ b = 5) :
    readAskedService b = some (if b = 1 then .opened else if b = 2 then .draining else .out) := by
  obtain rfl | rfl | rfl := h <;> rfl

/-- The stored class of R163's clamp, and the condition of R129. -/
theorem readCondition_eq (b : Byte) :
    readCondition b = if b = 0 then .ready else if b = 1 then .busy else .fault := by
  unfold readCondition
  split
  · next h => rw [byte_eq_of_toNat h]; rfl
  · next h => rw [byte_eq_of_toNat h]; rfl
  · next h0 h1 =>
    have a : b ≠ 0 := fun e => h0 (by rw [e]; rfl)
    have c : b ≠ 1 := fun e => h1 (by rw [e]; rfl)
    rw [if_neg a, if_neg c]

end Sys2Proof
end

