-- ==== Sys2Proof/Laws/Answers.lean ====
section
/-! SUPPORT. The taking of a valid answer: the state in which its request is judged, and what a judgment there means for the
command as a whole. -/

namespace Sys2Proof.Machine

open Sys2Proof.Safety

/-- The state in which the request of an answer is judged: the status has been taken, the miss count is 0 and no verdict is
pending (R118 stages 1, 2 and 4). -/
def heard (k : Slot) (st : Status) (s : State) : State := s.setSlot k (slotAfter (s.slot k) st none)

variable (s : State)

theorem heard_only (k : Slot) (st : Status) : OnlyChanges [.line] s (heard k st s) :=
  ⟨rfl, rfl, fun p h => by cases p <;> first | rfl | simp at h⟩

theorem heard_slot (k j : Slot) (st : Status) : (heard k st s).slot j =
    if k = j then slotAfter (s.slot j) st none else s.slot j := by
  unfold heard
  rw [setSlot_slot_if]
  split
  · next h => rw [h]
  · rfl

theorem min_eq_ite (a b : Nat) : min a b = if a < b then a else b := by
  rw [Nat.min_def]; split <;> split <;> omega

/-- R129: the status as taken, and the clearing of the pending verdict. -/
theorem takeStatus_eq (k : Slot) (st : Status) : setVerdict k none (takeStatus k st s) = heard k st s := by
  apply State.ext_fields <;> try rfl
  unfold setVerdict takeStatus heard State.setSlot State.setLine
  simp only [State.slot]
  congr 1
  apply Vector.ext
  intro i hi
  simp only [Vector.getElem_set, Fin.getElem_fin]
  split
  · simp [SlotRec.withStatus, slotAfter, min_eq_ite, readCondition_eq]
  · rfl

/-- A request row is the end of the exchange with the answer that carries it. -/
theorem exec_request {i : Instr} {st : Status} {q : Request} (h : requestOf i = some (st, q)) :
    exec i s = .next (answered st (some q) s) := by
  cases i <;> simp [requestOf] at h <;> (obtain ⟨rfl, rfl⟩ := h; rfl)

theorem answered_of_hears {k : Slot} {kind : CallKind} (h : Hears s k kind) (st : Status) (req : Option Request) :
    ∃ x, exchangeOf s = some x ∧ x.slot = k ∧ x.kind = kind ∧
      answered st req s = afterExchange k (takeAnswer x st req s) := by
  obtain ⟨x, hx, hk, hkind, hr⟩ := h
  refine ⟨x, hx, hk, hkind, ?_⟩
  have hp : s.line.phase = .calling x := by
    unfold exchangeOf at hx
    split at hx <;> simp_all
  simp [answered, endReception, hp, hr, hk]

/-- A sound condition leaves the lock unit alone (R118 stage 3, R76, R77). -/
theorem takeCondition_sound {k : Slot} {st : Status} (hc : Sound s k st) :
    takeCondition k (takeStatus k st s) = takeStatus k st s ∧ (takeStatus k st s).faultsHolder k = false := by
  by_cases hf : ((takeStatus k st s).slot k).cond = .fault
  · have hk : k ∉ positions s := by
      have : ((takeStatus k st s).slot k).cond = readCondition st.cond := by
        simp only [takeStatus, setSlot_slot_self, SlotRec.withStatus]
      rw [this, readCondition_eq] at hf
      rcases hc with h | h | h
      · simp [h] at hf
      · simp [h] at hf
      · exact h
    have hh : (takeStatus k st s).holding k = none := holding_none_of_not_mem hk
    have hw : ∀ c, ∀ e ∈ s.waitsOf c, e.slot ≠ k := fun c e he hek => hk (mem_positions.2 (.inr ⟨c, e, he, hek⟩))
    refine ⟨?_, by simp [State.faultsHolder, hh]⟩
    unfold takeCondition
    rw [if_pos hf, hh]
    exact dropWaiter_none _ hw
  · exact ⟨by unfold takeCondition; rw [if_neg hf], by simp [State.faultsHolder, hf]⟩

theorem takeRegular_request {k : Slot} {st : Status} (hc : Sound s k st) (q : Request) :
    takeRegular k st (some q) s = takeRequest k q false (heard k st s) := by
  obtain ⟨e, f⟩ := takeCondition_sound s hc
  unfold takeRegular
  simp only [e, f, takeStatus_eq]

/-- What a request row does from a called slot with a sound condition: its request is judged in the state heard, the verdict
is stored, the expired mark is cleared, and the line goes on. -/
theorem exec_heard {i : Instr} {k : Slot} {st : Status} {q : Request} (hi : requestOf i = some (st, q))
    (hh : Hears s k .regular) (hc : Sound s k st) :
    exec i s = .next (afterExchange k
      ((setVerdict k (some (judgeRequest k q (heard k st s)).2) (judgeRequest k q (heard k st s)).1).setMark k none)) := by
  obtain ⟨x, -, hk, hkind, e⟩ := answered_of_hears s hh st (some q)
  rw [exec_request s hi, e]
  unfold takeAnswer
  rw [hkind, hk]
  simp only [takeRegular_request s hc]
  rfl

/-- The slot called is the one whose exchange is in progress. -/
theorem slot_of_hears {k : Slot} {kind : CallKind} (h : Hears s k kind) {u : State}
    (hp : u.line.phase = s.line.phase) : ∀ x ∈ exchangeOf u, x.slot = k := by
  obtain ⟨x, hx, hk, -, -⟩ := h
  unfold exchangeOf at hx ⊢
  rw [hp]
  intro y hy
  rw [hx] at hy
  cases hy
  exact hk

/-- A judgment that leaves the line controller, the marks and the limits alone, as a statement about the command. -/
theorem takes_of_judge {i : Instr} {k : Slot} {st : Status} {q : Request} {v : Verdict} {u : State} {ps : List Part}
    {changes : State → Prop} (hi : requestOf i = some (st, q)) (hh : Hears s k .regular) (hc : Sound s k st)
    (hj : judgeRequest k q (heard k st s) = (u, v)) (ho : OnlyChanges (.lock :: ps) (heard k st s) u)
    (hline : u.line = (heard k st s).line) (hm : ∀ j, u.mark j = s.mark j)
    (hl : u.lock.placeLimit = s.lock.placeLimit ∧ u.lock.liftLimit = s.lock.liftLimit ∧
      u.lock.surveyLimit = s.lock.surveyLimit)
    (hch : changes ((setVerdict k (some v) u).setMark k none)) : Takes s i k st v ps changes := by
  have e := exec_heard s hi hh hc
  rw [hj] at e
  refine ⟨_, _, e, afterExchange_goesOn _ (slot_of_hears s hh ?_), ⟨?_, fun j hjk => ?_, ?_, ?_, fun j hjk => ?_, hl⟩, ?_, hch⟩
  · show u.line.phase = _
    rw [hline]; rfl
  · have : u.slot k = slotAfter (s.slot k) st none := by rw [slot_congr hline, heard_slot, if_pos rfl]
    simp [setVerdict, this, slotAfter]
  · have : u.slot j = s.slot j := by rw [slot_congr hline, heard_slot, if_neg (Ne.symm hjk)]
    simp [setVerdict, hjk, this]
  · show _ = _
    simp only [setMark_line, setVerdict, State.setSlot, setLine_line, hline]
    rfl
  · simp
  · rw [setMark_mark_ne _ hjk]; exact hm j
  · have a : OnlyChanges (.line :: .lock :: ps) s u :=
      ((heard_only s k st).mono (by simp)).trans (ho.mono fun p hp => List.mem_cons_of_mem _ hp)
    refine a.trans ⟨rfl, rfl, fun p hp => ?_⟩
    cases p <;> first | rfl | simp at hp

/-- A judgment that changes nothing refuses. -/
theorem refuses_of_judge {i : Instr} {k : Slot} {st : Status} {q : Request} {v : Verdict}
    (hi : requestOf i = some (st, q)) (hh : Hears s k .regular) (hc : Sound s k st)
    (hj : judgeRequest k q (heard k st s) = (heard k st s, v)) : Refuses s i k st v :=
  takes_of_judge s hi hh hc hj (.refl _ _) rfl (fun _ => rfl) ⟨rfl, rfl, rfl⟩ fun _ => ⟨rfl, rfl⟩

/-- R132: a request that its two tests let through is judged by its owner. -/
theorem judgeRequest_owner {k : Slot} {q : Request} (hu : q.unreadable = false) (hm : (s.slot k).mode ≠ .quiet)
    (hw : q.busyForWaiter = true → ∀ d, ∀ e ∈ s.waitsOf d, e.slot ≠ k) : judgeRequest k q s = ownerJudges k q s := by
  unfold judgeRequest
  rw [if_neg (by simp [hu]), if_neg (by simp [hm]), if_neg]
  rintro ⟨h1, h2⟩
  rw [waiting_eq_none.2 (hw h1)] at h2
  cases h2

/-- The same for the answer of a slot that is not QUIET and reports a sound condition. -/
theorem judge_heard {k : Slot} {st : Status} {q : Request} (h : Reports s k st) (hu : q.unreadable = false)
    (hw : q.busyForWaiter = true → ∀ d, ∀ e ∈ s.waitsOf d, e.slot ≠ k) :
    judgeRequest k q (heard k st s) = ownerJudges k q (heard k st s) :=
  judgeRequest_owner _ hu (by rw [heard_slot, if_pos rfl]; exact h.2.1) hw

/-! ### The figures judged in the state heard -/

variable (k : Slot) (st : Status)

@[simp] theorem heard_pending : (heard k st s).pending = s.pending := (rfl)
@[simp] theorem heard_now : (heard k st s).now = s.now := (rfl)
@[simp] theorem heard_power : (heard k st s).power = s.power := (rfl)
@[simp] theorem heard_port : (heard k st s).port = s.port := (rfl)
@[simp] theorem heard_notice : (heard k st s).notice = s.notice := (rfl)
@[simp] theorem heard_columns : (heard k st s).columns = s.columns := (rfl)
@[simp] theorem heard_handoff : (heard k st s).handoff = s.handoff := (rfl)
@[simp] theorem heard_placement : (heard k st s).placement = s.placement := (rfl)
@[simp] theorem heard_lock : (heard k st s).lock = s.lock := (rfl)
@[simp] theorem heard_age : (heard k st s).age = s.age := (rfl)
@[simp] theorem heard_manifest : (heard k st s).manifest = s.manifest := (rfl)
@[simp] theorem heard_survey : (heard k st s).survey = s.survey := (rfl)
@[simp] theorem heard_col (c : Col) : (heard k st s).col c = s.col c := (rfl)
@[simp] theorem heard_entry (i : RecIdx) : (heard k st s).entry i = s.entry i := (rfl)
@[simp] theorem heard_live (i : RecIdx) : (heard k st s).live i = s.live i := (rfl)
@[simp] theorem heard_named (h : Handle) : (heard k st s).named h = s.named h := (rfl)
@[simp] theorem heard_handleAt (i : RecIdx) : (heard k st s).handleAt i = s.handleAt i := (rfl)
@[simp] theorem heard_tagged (t : Tag) : (heard k st s).tagged t = s.tagged t := (rfl)
@[simp] theorem heard_recordsWhere (p : Record → Bool) : (heard k st s).recordsWhere p = s.recordsWhere p := (rfl)
@[simp] theorem heard_firstFree : (heard k st s).firstFree = s.firstFree := (rfl)
@[simp] theorem heard_factsOf (t : Tag) : (heard k st s).factsOf t = s.factsOf t := (rfl)
@[simp] theorem heard_lockOf (c : Col) : (heard k st s).lockOf c = s.lockOf c := (rfl)
@[simp] theorem heard_waitsOf (c : Col) : (heard k st s).waitsOf c = s.waitsOf c := (rfl)
@[simp] theorem heard_mark (j : Slot) : (heard k st s).mark j = s.mark j := (rfl)
@[simp] theorem heard_surveyor (c : Col) : (heard k st s).surveyor c = s.surveyor c := (rfl)
@[simp] theorem heard_holding (j : Slot) : (heard k st s).holding j = s.holding j := (rfl)
@[simp] theorem heard_waiting (j : Slot) : (heard k st s).waiting j = s.waiting j := (rfl)
@[simp] theorem heard_top (c : Col) : (heard k st s).top c = s.top c := (rfl)
@[simp] theorem heard_depth (r : Record) : (heard k st s).depth r = s.depth r := (rfl)
@[simp] theorem heard_load (c : Col) : (heard k st s).load c = s.load c := (rfl)
@[simp] theorem heard_eligible (cls : StorageClass) (c : Col) : (heard k st s).eligible cls c = s.eligible cls c := (rfl)
@[simp] theorem heard_score (x y : Nat) (f : BinFacts) (c : Col) : (heard k st s).score x y f c = s.score x y f c := (rfl)
@[simp] theorem heard_stackTags (c : Col) : (heard k st s).stackTags c = s.stackTags c := (rfl)
@[simp] theorem heard_possible (c : Col) (e : WaitEntry) : (heard k st s).possible c e = s.possible c e := (rfl)

theorem heard_slot_self : (heard k st s).slot k = slotAfter (s.slot k) st none := by rw [heard_slot, if_pos rfl]

theorem heard_isLive (j : Slot) : (heard k st s).isLive j = s.isLive j := by
  unfold State.isLive
  rw [heard_slot]
  split <;> rfl

theorem heard_concernedLive (c : Col) (o : Option Slot) : (heard k st s).concernedLive c o = s.concernedLive c o := by
  unfold State.concernedLive
  congr 1
  funext j
  rw [heard_isLive]
  simp only [heard_slot, heard_col]
  split <;> rfl

end Sys2Proof.Machine
end

