-- ==== Sys2Proof/Laws/Placement.lean ====
section
/-! SUPPORT. The choice of a place (R53 to R56): the column chosen is the eligible one that is better than every other. -/

namespace Sys2Proof.Machine

open Sys2Proof.Safety

variable (s : State) (x y : Nat) (f : BinFacts)

theorem better_iff {a b : Col} : s.better x y f a b = true ↔
    s.score x y f a < s.score x y f b ∨
      (s.score x y f a = s.score x y f b ∧ (s.load a < s.load b ∨ (s.load a = s.load b ∧ a < b))) := by
  simp [State.better]

theorem better_irrefl (a : Col) : s.better x y f a a = false := by
  simp [State.better]

theorem better_trans {a b c : Col} (h : s.better x y f a b = true) (h' : s.better x y f b c = true) :
    s.better x y f a c = true := by
  rw [better_iff] at *
  rcases h with h | ⟨h, g⟩ <;> rcases h' with h' | ⟨h', g'⟩ <;> try (left; omega)
  refine .inr ⟨by omega, ?_⟩
  rcases g with g | ⟨g, k⟩ <;> rcases g' with g' | ⟨g', k'⟩ <;> try (left; omega)
  exact .inr ⟨by omega, k.trans k'⟩

theorem better_total {a b : Col} (h : a ≠ b) : s.better x y f a b = true ∨ s.better x y f b a = true := by
  simp only [better_iff]
  rcases lt_trichotomy (s.score x y f a) (s.score x y f b) with h1 | h1 | h1
  · exact .inl (.inl h1)
  · rcases lt_trichotomy (s.load a) (s.load b) with h2 | h2 | h2
    · exact .inl (.inr ⟨h1, .inl h2⟩)
    · rcases lt_or_gt_of_ne h with h3 | h3
      · exact .inl (.inr ⟨h1, .inr ⟨h2, h3⟩⟩)
      · exact .inr (.inr ⟨h1.symm, .inr ⟨h2.symm, h3⟩⟩)
    · exact .inr (.inr ⟨h1.symm, .inl h2⟩)
  · exact .inr (.inl h1)

/-- One step of the search keeps the better of two columns. -/
def bestOf (best : Option Col) (c : Col) : Option Col :=
  match best with
  | none => some c
  | some b => if s.better x y f c b then some c else some b

/-- The search over a list keeps a column that no other is better than. -/
theorem bestOf_foldl (l : List Col) (o : Option Col) :
    (l.foldl (bestOf s x y f) o = none ↔ o = none ∧ l = []) ∧
      ∀ c, l.foldl (bestOf s x y f) o = some c → (o = some c ∨ c ∈ l) ∧
        (∀ d, o = some d ∨ d ∈ l → d ≠ c → s.better x y f c d = true) := by
  induction l generalizing o with
  | nil => simp +contextual
  | cons a l ih =>
    obtain ⟨h1, h2⟩ := ih (bestOf s x y f o a)
    refine ⟨?_, fun c hc => ?_⟩
    · rw [List.foldl_cons, h1]
      cases o with
      | none => simp [bestOf]
      | some b => simp only [bestOf]; split <;> simp
    · rw [List.foldl_cons] at hc
      obtain ⟨h3, h4⟩ := h2 c hc
      have hb : bestOf s x y f o a = some a ∧ (∀ b, o = some b → s.better x y f a b = true) ∨
          (∃ b, o = some b ∧ bestOf s x y f o a = some b ∧ s.better x y f a b = false) := by
        cases o with
        | none => simp [bestOf]
        | some b =>
          by_cases h : s.better x y f a b = true
          · simp [bestOf, h]
          · simp [bestOf, h]
      rcases hb with ⟨hb, hbb⟩ | ⟨b, ho, hb, hbb⟩
      · rw [hb] at h3 h4
        have hca : c = a ∨ s.better x y f c a = true := by
          by_cases e : a = c
          · exact .inl e.symm
          · exact .inr (h4 a (.inl rfl) e)
        refine ⟨?_, fun d hd hdc => ?_⟩
        · rcases h3 with h | h
          · cases h; exact .inr (by simp)
          · exact .inr (by simp [h])
        · rcases hd with hd | hd
          · have := hbb d hd
            rcases hca with rfl | hca
            · exact this
            · exact better_trans s x y f hca this
          · rcases List.mem_cons.1 hd with rfl | hd
            · exact h4 d (.inl rfl) hdc
            · exact h4 d (.inr hd) hdc
      · rw [hb] at h3 h4
        refine ⟨?_, fun d hd hdc => ?_⟩
        · rcases h3 with h | h
          · cases h; exact .inl ho
          · exact .inr (by simp [h])
        · rcases hd with hd | hd
          · rw [ho] at hd; cases hd
            exact h4 b (.inl rfl) hdc
          · rcases List.mem_cons.1 hd with rfl | hd
            · by_cases hdb : d = b
              · exact h4 d (.inl (by rw [hdb])) hdc
              · have hbd : s.better x y f b d = true := by
                  rcases better_total s x y f hdb with h | h
                  · rw [hbb] at h; cases h
                  · exact h
                by_cases hbc : b = c
                · rw [← hbc]; exact hbd
                · exact better_trans s x y f (h4 b (.inl rfl) hbc) hbd
            · exact h4 d (.inr hd) hdc

theorem choose_eq : s.choose x y f = (allCols.filter (s.eligible f.cls)).foldl (bestOf s x y f) none := rfl

/-- R56: no column is chosen exactly when none is eligible. -/
theorem choose_eq_none : s.choose x y f = none ↔ ∀ c, s.eligible f.cls c = false := by
  rw [choose_eq, (bestOf_foldl s x y f _ none).1]
  simp [List.filter_eq_nil_iff]

/-- R56: the column chosen is the one better than every other eligible column. -/
theorem choose_eq_some {c : Col} : s.choose x y f = some c ↔ Chosen s x y f c := by
  have key : ∀ c, s.choose x y f = some c → Chosen s x y f c := by
    intro c h
    rw [choose_eq] at h
    obtain ⟨h1, h2⟩ := (bestOf_foldl s x y f _ none).2 c h
    simp only [reduceCtorEq, List.mem_filter, mem_allCols, true_and, false_or] at h1 h2
    exact ⟨h1, fun d hd hdc => (better_iff s x y f).1 (h2 d hd hdc)⟩
  refine ⟨key c, fun h => ?_⟩
  cases e : s.choose x y f with
  | none => exact absurd h.1 (by rw [choose_eq_none] at e; simp [e c])
  | some d =>
    by_contra hne
    have hd := key d e
    have hdc : d ≠ c := fun h => hne (by rw [h])
    have a := (better_iff s x y f).2 (h.2 d hd.1 hdc)
    have b := (better_iff s x y f).2 (hd.2 c h.1 hdc.symm)
    have := better_trans s x y f a b
    rw [better_irrefl] at this
    cases this

end Sys2Proof.Machine
end

