-- ==== Sys2Proof/Laws/Port.lean ====
section
/-! SUPPORT. The planner port apart from the blocks behind it: no owner of a host command reads or writes the port, so a
command taken from a free port answers what its owner answers on the state before the frame. -/

namespace Sys2Proof.Machine

/-! ### Operations that leave the port alone, and do not look at it -/

/-- The operation does the same whatever the port holds, and keeps what it holds. -/
abbrev PortBlind (f : State → State) : Prop := ∀ s p, f (s.setPort p) = (f s).setPort p

/-- The owner judges alike whatever the port holds, and keeps what it holds. -/
abbrev OwnerBlind (own : State → State × Response) : Prop :=
  ∀ s p, own (s.setPort p) = ((own s).1.setPort p, (own s).2)

theorem forEach_blind {α : Type} {f : α → State → State} (h : ∀ a, PortBlind (f a)) (l : List α) :
    PortBlind (forEach l f) := by
  intro s p
  induction l generalizing s with
  | nil => rfl
  | cons a l ih =>
    show forEach l f (f a (s.setPort p)) = (forEach l f (f a s)).setPort p
    rw [h a s p, ih]

theorem raise_blind (k : NoticeKind) : PortBlind (raise k) := fun _ _ => rfl
theorem raiseBuried_blind (h : Handle) : PortBlind (raiseBuried h) := fun _ _ => rfl
theorem raiseUnlisted_blind (h : Handle) : PortBlind (raiseUnlisted h) := fun _ _ => rfl
theorem raiseBlockEnd_blind (b : Block) : PortBlind (raiseBlockEnd b) := fun _ _ => rfl
theorem setRec_blind (i : RecIdx) (r : Record) : PortBlind (State.setRec i r) := fun _ _ => rfl
theorem setCol_blind (c : Col) (r : Column) : PortBlind (State.setCol c r) := fun _ _ => rfl
theorem setWaitsOf_blind (c : Col) (l : List WaitEntry) : PortBlind (State.setWaitsOf c l) := fun _ _ => rfl
theorem endLock_blind (c : Col) : PortBlind (endLock c) := fun _ _ => rfl
theorem popStack_blind (c : Col) : PortBlind (popStack c) := fun _ _ => rfl
theorem makeAt_blind (i : RecIdx) (r : Record) : PortBlind (makeAt i r) := fun _ _ => rfl
theorem settleColumn_blind (c : Col) : PortBlind (settleColumn c) := fun _ _ => rfl

theorem refreshBuried_blind (i : RecIdx) : PortBlind (refreshBuried i) := by
  intro s p
  unfold refreshBuried
  rw [setPort_live]
  cases s.live i with
  | none => rfl
  | some r =>
    show (if s.isBuried r && !r.buried then _ else _) = State.setPort p (if s.isBuried r && !r.buried then _ else _)
    split <;> rfl

theorem updRec_blind (i : RecIdx) (f : Record → Record) : PortBlind (updRec i f) := by
  intro s p
  unfold updRec
  rw [setPort_live]
  cases s.live i <;> rfl

theorem parkRecord_blind (i : RecIdx) : PortBlind (parkRecord i) := fun s p => updRec_blind i _ s p
theorem reserveRecord_blind (i : RecIdx) : PortBlind (reserveRecord i) := fun s p => updRec_blind i _ s p
theorem promiseRecord_blind (i : RecIdx) (k : Slot) : PortBlind (promiseRecord i k) := by
  intro s p
  unfold promiseRecord
  rw [updRec_blind, refreshBuried_blind]

theorem consume_blind (t : Tag) : PortBlind (consume t) := by
  intro s p
  unfold consume
  rw [setPort_manifest]
  cases s.manifest.find t with
  | none => rfl
  | some e =>
    show (if e.keep then _ else _) = State.setPort p (if e.keep then _ else _)
    split <;> rfl

theorem retire_blind (i : RecIdx) (o : Retirement) : PortBlind (retire i o) := by
  intro s p
  unfold retire
  rw [setPort_live]
  cases s.live i with
  | none => rfl
  | some r => cases o with
    | delivered => exact consume_blind r.tag (((s.dropWaitFor r.column (s.handleAt i)).setEntry i _).setHandoff _) p
    | cancelled | unplaced | carriedOff | missing => rfl

theorem noteUnlisted_blind (i : RecIdx) (b : Bool) : PortBlind (noteUnlisted i b) := by
  intro s p
  cases b <;> rfl

theorem refreshStack_blind (c : Col) : PortBlind (refreshStack c) := by
  intro s p
  exact forEach_blind (f := fun (h : Handle) s => refreshBuried h.idx s) (fun h => refreshBuried_blind h.idx) _ s p

/-! ### The figures that the owners read -/

@[simp] theorem setPort_load (s : State) (p : Port) (c : Col) : (s.setPort p).load c = s.load c := (rfl)
@[simp] theorem setPort_reservations (s : State) (p : Port) (c : Col) : (s.setPort p).reservations c = s.reservations c := (rfl)
@[simp] theorem setPort_depth (s : State) (p : Port) (r : Record) : (s.setPort p).depth r = s.depth r := (rfl)
@[simp] theorem setPort_top (s : State) (p : Port) (c : Col) : (s.setPort p).top c = s.top c := (rfl)
@[simp] theorem setPort_tagged (s : State) (p : Port) (t : Tag) : (s.setPort p).tagged t = s.tagged t := (rfl)
@[simp] theorem setPort_stackTags (s : State) (p : Port) (c : Col) : (s.setPort p).stackTags c = s.stackTags c := (rfl)
@[simp] theorem setPort_unknownTags (s : State) (p : Port) (l : List Tag) : (s.setPort p).unknownTags l = s.unknownTags l := (rfl)
@[simp] theorem setPort_firstFree (s : State) (p : Port) : (s.setPort p).firstFree = s.firstFree := (rfl)
@[simp] theorem setPort_factsOf (s : State) (p : Port) (t : Tag) : (s.setPort p).factsOf t = s.factsOf t := (rfl)
@[simp] theorem setPort_holding (s : State) (p : Port) (k : Slot) : (s.setPort p).holding k = s.holding k := (rfl)
@[simp] theorem setPort_waiting (s : State) (p : Port) (k : Slot) : (s.setPort p).waiting k = s.waiting k := (rfl)
@[simp] theorem setPort_standing (s : State) (p : Port) (k : Slot) : (s.setPort p).standing k = s.standing k := (rfl)
@[simp] theorem setPort_isBuried (s : State) (p : Port) (r : Record) : (s.setPort p).isBuried r = s.isBuried r := (rfl)
@[simp] theorem setPort_recordsWhere (s : State) (p : Port) (q : Record → Bool) : (s.setPort p).recordsWhere q = s.recordsWhere q := (rfl)
@[simp] theorem setPort_bothStopped (s : State) (p : Port) : (s.setPort p).bothStopped = s.bothStopped := (rfl)
@[simp] theorem setPort_lostSubject (s : State) (p : Port) : (s.setPort p).lostSubject = s.lostSubject := (rfl)
@[simp] theorem setPort_columnSubject (s : State) (p : Port) (v : Service) : (s.setPort p).columnSubject v = s.columnSubject v := (rfl)
@[simp] theorem setPort_progressBytes (s : State) (p : Port) : (s.setPort p).progressBytes = s.progressBytes := (rfl)
@[simp] theorem setPort_strandedFrom (s : State) (p : Port) (c : Col) : (s.setPort p).strandedFrom c = s.strandedFrom c := (rfl)
@[simp] theorem setPort_concernedLive (s : State) (p : Port) (c : Col) (o : Option Slot) : (s.setPort p).concernedLive c o = s.concernedLive c o := (rfl)
@[simp] theorem setPort_placementReturns (s : State) (p : Port) (c : Col) (i : RecIdx) (r : Record) : (s.setPort p).placementReturns c i r = s.placementReturns c i r := (rfl)
@[simp] theorem setPort_reservesOther (s : State) (p : Port) (i : RecIdx) (o : Option Slot) : (s.setPort p).reservesOther i o = s.reservesOther i o := (rfl)
@[simp] theorem setPort_calls (s : State) (p : Port) (b : Block) : (s.setPort p).calls b = s.calls b := (rfl)
@[simp] theorem setPort_selects (s : State) (p : Port) (k : Slot) : (s.setPort p).selects k = s.selects k := (rfl)
@[simp] theorem setPort_nextCall (s : State) (p : Port) (l : List Slot) : (s.setPort p).nextCall l = s.nextCall l := (rfl)

/-! ### Rounds -/

theorem sendCall_blind (k : Slot) (kind : CallKind) : PortBlind (sendCall k kind) := by
  intro s p
  cases kind <;> rfl

theorem blockEnd_blind (b : Block) : PortBlind (blockEnd b) := by
  intro s p
  unfold blockEnd
  rw [setPort_line]
  split <;> rfl

theorem passBlocks_blind (l : List Block) (s : State) (p : Port) :
    passBlocks l (s.setPort p) = ((passBlocks l s).1.setPort p, (passBlocks l s).2) := by
  induction l generalizing s with
  | nil => rfl
  | cons b bs ih =>
    unfold passBlocks
    rw [setPort_calls]
    cases s.calls b with
    | false => simpa using ih s
    | true =>
      rw [setPort_nextCall]
      cases s.nextCall (slotsOf b) with
      | some q => rfl
      | none =>
        show passBlocks bs (blockEnd b (s.setPort p)) = _
        rw [blockEnd_blind, ih]
        rfl

theorem startRound_blind : PortBlind startRound := by
  intro s p
  unfold startRound
  have e : openRound (s.setPort p) = (openRound s).setPort p := rfl
  rw [e, passBlocks_blind]
  obtain ⟨u, _ | ⟨k, kind⟩⟩ := passBlocks allBlocks (openRound s)
  · rfl
  · exact sendCall_blind k kind u p

/-! ### RESTACK -/

theorem makeFound_blind (c : Col) (t : Tag) : PortBlind (makeFound c t) := by
  intro s p
  unfold makeFound
  rw [setPort_firstFree]
  cases s.firstFree with
  | none => rfl
  | some i =>
    show noteUnlisted i (s.factsOf t).2 (makeAt i _ (s.setPort p)) = _
    rw [makeAt_blind, noteUnlisted_blind]
    rfl

theorem resolveAbsentPlacement_blind (i : RecIdx) (b : Bool) : PortBlind (resolveAbsentPlacement i b) := by
  cases b
  · exact retire_blind i .unplaced
  · exact reserveRecord_blind i

theorem resolveLiftInPlace_blind (i : RecIdx) (o : Option Slot) (b : Bool) : PortBlind (resolveLiftInPlace i o b) := by
  cases o <;> cases b <;> first | exact parkRecord_blind i | exact promiseRecord_blind i _

theorem resolveLiftGone_blind (i : RecIdx) (b : Bool) : PortBlind (resolveLiftGone i b) := retire_blind i _

theorem rewriteStack_blind (c : Col) (tags : List Tag) : PortBlind (rewriteStack c tags) := by
  intro s p
  unfold rewriteStack
  simp only [setPort_tagged]
  rw [forEach_blind (f := fun (q : RecIdx × Nat) => updRec q.1 fun r => { r with level := some q.2 })
    (fun q => updRec_blind q.1 _)]
  generalize forEach _ _ s = u
  exact refreshStack_blind c (u.setCol c { u.col c with stack := _ }) p

/-! ### The owners of host commands -/

theorem setManifest_blind (m : Manifest) : PortBlind (State.setManifest m) := fun _ _ => rfl
theorem setLine_blind (l : Line) : PortBlind (State.setLine l) := fun _ _ => rfl
theorem setSurveyor_blind (c : Col) (k : Option Slot) : PortBlind (State.setSurveyor c k) := fun _ _ => rfl
theorem clearZone_blind : PortBlind clearZone := fun _ _ => rfl
theorem storeZone_blind (q : ZoneParams) : PortBlind (storeZone q) := fun _ _ => rfl
theorem dropCollectorWait_blind (r : Record) (h : Handle) : PortBlind (dropCollectorWait r h) := by
  intro s p
  unfold dropCollectorWait
  cases r.collector <;> rfl
theorem endSurveyLockOf_blind (c : Col) (k : Slot) : PortBlind (endSurveyLockOf c k) := by
  intro s p
  unfold endSurveyLockOf
  rw [setPort_lockOf]
  split <;> rfl

/-- An owner that answers a code and changes nothing is blind; so is one that changes a block by a blind operation. -/
theorem answer_blind (r : Result) {f : State → State} (hf : PortBlind f) (s : State) (p : Port) :
    answer r (f (s.setPort p)) = ((answer r (f s)).1.setPort p, (answer r (f s)).2) := by
  simp [answer, hf s p]

theorem ownReadColumn_blind (c : Byte) : OwnerBlind (ownReadColumn c) := by
  intro s p
  unfold ownReadColumn
  split <;> rfl

theorem ownReadSlot_blind (k : Byte) : OwnerBlind (ownReadSlot k) := by
  intro s p
  unfold ownReadSlot
  split <;> rfl

theorem ownReadStats_blind : OwnerBlind (ownReadStats) := fun _ _ => rfl

theorem ownReadAge_blind : OwnerBlind (ownReadAge) := fun _ _ => rfl

theorem ownMergeResult_blind : OwnerBlind (ownMergeResult) := fun _ _ => rfl

theorem ownManifestFind_blind (t : Tag) : OwnerBlind (ownManifestFind t) := fun _ _ => rfl

theorem ownManifestCount_blind : OwnerBlind (ownManifestCount) := fun _ _ => rfl

theorem ownFindTag_blind (t : Tag) : OwnerBlind (ownFindTag t) := fun _ _ => rfl

theorem ownFreeCount_blind : OwnerBlind (ownFreeCount) := fun _ _ => rfl

theorem ownSurveyRead_blind : OwnerBlind (ownSurveyRead) := fun _ _ => rfl

theorem ownSurveyClear_blind : OwnerBlind (ownSurveyClear) := fun _ _ => rfl

theorem ownNotices_blind : OwnerBlind (ownNotices) := fun _ _ => rfl

theorem ownStatsClear_blind : OwnerBlind (ownStatsClear) := fun _ _ => rfl

theorem ownBlockEndEnable_blind (m : Byte) : OwnerBlind (ownBlockEndEnable m) := fun _ _ => rfl

theorem ownNoticeAck_blind (m : BitVec 16) : OwnerBlind (ownNoticeAck m) := fun _ _ => rfl

theorem ownNoticeEnable_blind (m : BitVec 16) : OwnerBlind (ownNoticeEnable m) := fun _ _ => rfl

theorem ownAgeStop_blind : OwnerBlind (ownAgeStop) := fun _ _ => rfl

theorem ownManifestClear_blind : OwnerBlind (ownManifestClear) := by
  intro s p
  simp only [ownManifestClear, answer, setPort_manifest, setManifest_blind]
  repeat' split
  all_goals rfl

theorem ownZoneClear_blind : OwnerBlind (ownZoneClear) := by
  intro s p
  simp only [ownZoneClear, answer, setPort_bothStopped, clearZone_blind]
  repeat' split
  all_goals rfl

theorem ownZoneSetup_blind (q : ZoneParams) : OwnerBlind (ownZoneSetup q) := by
  intro s p
  simp only [ownZoneSetup, answer, setPort_bothStopped, storeZone_blind]
  repeat' split
  all_goals rfl

theorem ownAgeStart_blind : OwnerBlind (ownAgeStart) := by
  intro s p
  unfold ownAgeStart
  simp only [setPort_age]
  split <;> rfl

theorem ownSlotMode_blind (k m : Byte) : OwnerBlind (ownSlotMode k m) := by
  intro s p
  unfold ownSlotMode
  split <;> rfl

theorem ownBlockMode_blind (m a b : Byte) : OwnerBlind (ownBlockMode m a b) := by
  intro s p
  unfold ownBlockMode
  repeat' split
  all_goals rfl

theorem ownClearLost_blind (k : Byte) : OwnerBlind (ownClearLost k) := by
  intro s p
  unfold ownClearLost
  simp only [setPort_slot]
  repeat' split
  all_goals rfl

theorem ownLinkStart_blind : OwnerBlind (ownLinkStart) := by
  intro s p
  unfold ownLinkStart
  simp only [setPort_line]
  split
  · exact answer_blind .ok startRound_blind (s.setLine _) p
  · rfl
  · rfl

theorem ownLinkStop_blind : OwnerBlind (ownLinkStop) := by
  intro s p
  unfold ownLinkStop
  simp only [setPort_line]
  repeat' split
  all_goals rfl

theorem ownRebudget_blind (i g : Byte) (b : BitVec 16) : OwnerBlind (ownRebudget i g b) := by
  intro s p
  unfold ownRebudget
  simp only [setPort_named]
  repeat' split
  all_goals rfl

theorem ownPageWrite_blind (r o : Byte) (t : Tag) (c : Byte) (d b n : BitVec 16) (k : Byte) :
    OwnerBlind (ownPageWrite r o t c d b n k) := by
  intro s p
  unfold ownPageWrite
  split <;> rfl

theorem ownPageMerge_blind (n : Byte) : OwnerBlind (ownPageMerge n) := by
  intro s p
  simp only [ownPageMerge, answer, setPort_manifest, setManifest_blind]
  repeat' split
  all_goals rfl

theorem ownReadHandoff_blind (i g : Byte) : OwnerBlind (ownReadHandoff i g) := by
  intro s p
  unfold ownReadHandoff
  simp only [setPort_named, setPort_entry]
  repeat' split
  all_goals rfl

theorem ownAssign_blind (i g k : Byte) : OwnerBlind (ownAssign i g k) := by
  intro s p
  unfold ownAssign
  simp only [setPort_named, setPort_isLive]
  split
  · split
    · rfl
    · rename_i h k _ _ _ r _
      cases r.state with
      | reserved | placing | lifting | stranded => rfl
      | parked => by_cases hk : s.isLive k <;> simp [hk, answer, promiseRecord_blind h.idx k s p]
      | promised =>
        by_cases hk : s.isLive k <;> by_cases hc : r.collector = some k <;>
          simp [hk, hc, answer, promiseRecord_blind _ _ _ p, dropCollectorWait_blind r h s p]
  · rfl

theorem ownUnassign_blind (i g : Byte) : OwnerBlind (ownUnassign i g) := by
  intro s p
  unfold ownUnassign
  simp only [setPort_named]
  split
  · rfl
  · split
    · rfl
    · rename_i h _ _ r _
      cases r.state with
      | promised => simp [answer, parkRecord_blind h.idx _ p, dropCollectorWait_blind r h s p]
      | reserved | placing | parked | lifting | stranded => rfl

theorem ownCancel_blind (i g : Byte) : OwnerBlind (ownCancel i g) := by
  intro s p
  simp only [ownCancel, answer, setPort_named, retire_blind]
  repeat' split
  all_goals rfl

theorem ownSurveyAsk_blind (c k : Byte) : OwnerBlind (ownSurveyAsk c k) := by
  intro s p
  unfold ownSurveyAsk
  simp only [setPort_col, setPort_isLive, setPort_surveyor]
  split
  · rename_i c k _ _
    by_cases hs : (s.col c).service = .suspect <;> by_cases hk : s.isLive k = true <;> simp [hs, hk, answer]
    cases s.surveyor c with
    | none => rfl
    | some old => by_cases ho : old = k <;> simp [ho, endSurveyLockOf_blind c old s p, setSurveyor_blind _ _ _ p]
  · rfl

theorem ownColumnDefine_blind (c x y k set : Byte) : OwnerBlind (ownColumnDefine c x y k set) := by
  intro s p
  unfold ownColumnDefine
  simp only [setPort_col]
  repeat' split
  all_goals rfl

theorem ownColumnService_blind (c v : Byte) : OwnerBlind (ownColumnService c v) := by
  intro s p
  unfold ownColumnService
  simp only [setPort_col, setPort_load, setPort_lockOf]
  split
  · rename_i c a _ _
    have e : ∀ v : Service, v = .undefined ∨ v = .suspect ∨ v = .fault ∨ v = .opened ∨ v = .draining ∨ v = .out := by
      intro v; cases v <;> simp
    by_cases ha : a = (s.col c).service <;> by_cases hb : a = .out ∧ (0 < s.load c ∨ (s.lockOf c).isSome) <;>
      rcases e (s.col c).service with hs | hs | hs | hs | hs | hs <;>
        simp_all [answer, setCol_blind _ _ s p]
    all_goals split <;> rfl
  · rfl

theorem resolveStranded_blind (c : Col) (tags : List Tag) (s0 : State) : PortBlind (resolveStranded c tags s0) := by
  intro s p
  unfold resolveStranded
  split
  · rfl
  · split
    · rfl
    · split
      · split
        · exact parkRecord_blind _ s p
        · exact resolveAbsentPlacement_blind _ _ s p
      · split
        · exact resolveLiftInPlace_blind _ _ _ s p
        · exact resolveLiftGone_blind _ _ s p
      · rfl

theorem restackRecords_blind (c : Col) (tags : List Tag) : PortBlind (restackRecords c tags) := by
  intro s p
  unfold restackRecords
  have e : resolveStranded c tags (s.setPort p) = resolveStranded c tags s := rfl
  have e2 : missingRecords c tags (s.setPort p) = missingRecords c tags s := rfl
  have e3 : listedReservations c tags (s.setPort p) = listedReservations c tags s := rfl
  simp only [setPort_unknownTags, e, e2, e3]
  rw [forEach_blind (makeFound_blind c), resolveStranded_blind, forEach_blind (fun i => retire_blind i _),
    forEach_blind parkRecord_blind, rewriteStack_blind, settleColumn_blind]

theorem applyRestack_blind (c : Col) (tags : List Tag) (s : State) (p : Port) :
    applyRestack c tags (s.setPort p) = ((applyRestack c tags s).1.setPort p, (applyRestack c tags s).2) := by
  unfold applyRestack
  have e : ∀ u : State, trimmedReservations c (u.setPort p) = trimmedReservations c u := fun _ => rfl
  simp only [restackRecords_blind c tags s p, e, forEach_blind (fun i => retire_blind i .unplaced) _ _ p]
  rfl

theorem ownRestack_blind (c : Byte) (l : List Tag) : OwnerBlind (ownRestack c l) := by
  intro s p
  unfold ownRestack
  simp only [setPort_col, setPort_lockOf, setPort_tagged, setPort_handoff, setPort_unknownTags]
  split
  · rfl
  · rename_i d _
    repeat rw [show ∀ (x : State × Response), (x.1.setPort p, x.2) = Prod.map (State.setPort p) id x from fun _ => rfl]
    simp only [apply_ite (Prod.map (State.setPort p) id)]
    rw [applyRestack_blind]
    rfl

/-- The state in which a command has been taken, from its owner's answer (R159). -/
theorem hostFrame_taken {s : State} {n : Nat} {own : State → State × Response} (h : Safety.PortFree s) (hn : n ≤ 40)
    (hb : OwnerBlind own) : hostFrame n (takeCommand own) s = Safety.commandTaken s (own s).1 n (own s).2 := by
  obtain ⟨hp, hf, hq⟩ := h
  have e : hostFrame n (takeCommand own) s = takeCommand own (s.setPort { s.port with miso := Safety.shifted s (n + 2) }) := by
    simp [hostFrame, endFrame, hp, hf, hq, hn, clockedOut, Response.bytes, Safety.shifted]
  rw [e]
  unfold takeCommand
  rw [hb]
  rfl

/-- The outcome of a command taken from a free port, by what its owner answers (R159). -/
theorem next_taken {s u : State} {n : Nat} {own : State → State × Response} {r : Response} (h : Safety.PortFree s)
    (hn : n ≤ 40) (hb : OwnerBlind own) (ho : own s = (u, r)) :
    (.next (hostFrame n (takeCommand own) s) : Host.Outcome State Fault Refusal) = .next (Safety.commandTaken s u n r) := by
  rw [hostFrame_taken h hn hb, ho]


end Sys2Proof.Machine
end

