-- ==== Sys2Proof/Tests/Slice0.lean ====
section
/-! SUPPORT. Tests of the model on the manual's worked sequences and figures, and a witness for the hypotheses of every
statement. Expected results are the manual's; each test names its source. -/

namespace Sys2Proof.Tests

set_option Elab.async false

open Sys2Proof.Machine Sys2Proof.Safety

/-! ### Small states -/

/-- The state after a command. -/
def after (i : Instr) (s : State) : State :=
  match exec i s with
  | .next t => t
  | .fault _ | .refused _ => s

/-- The status of the response that a host command leaves to be written. -/
def result (i : Instr) (s : State) : Option Result :=
  match (after i s).port.busy with
  | some (.write r) => some r.status
  | _ => none

/-- The data of the response that a host command leaves to be written. -/
def data (i : Instr) (s : State) : List Byte :=
  match (after i s).port.busy with
  | some (.write r) => r.data
  | _ => []

/-- The part ready for frames, otherwise as after reset. -/
def ready : State := State.reset.setPower .ready

/-- A LIVE slot in ON mode whose robot id is 100 more than its number. -/
def liveSlot (k : Slot) : SlotRec :=
  { SlotRec.reset with mode := .on, nextMode := .on, link := .live, robotId := some (BitVec.ofNat 24 (100 + k.val)) }

/-- The slots that the worked sequences name are LIVE and ON. -/
def zone : State :=
  [3, 5, 9, 12, 17, 20, 26, 28, 33, 41, 44].foldl (fun s k => s.setSlot k (liveSlot k)) ready

/-- An open column of one capacity that takes every class. -/
def openCol (capacity : Nat) : Column := ⟨10, 4, capacity, ⟨true, true, true⟩, .opened, .opened, [], none, none⟩

/-- A record of a tag on a column. -/
def bin (st : RecState) (t : Tag) (c : Col) : Record :=
  ⟨st, t, .chilled, 5000, 900, false, false, false, false, false, none, none, c, none, 0, none⟩

/-- A live record put at a handle, made last. -/
def put (i : RecIdx) (g : Gen) (r : Record) (s : State) : State :=
  let s := s.setEntry i ⟨g, some r, none⟩
  s.setHandoff { s.handoff with freeCount := s.handoff.freeCount - 1, order := s.handoff.order ++ [i] }

/-- Slot `k` is being called with this CALL, and its answer is in reception. -/
def calling (k : Slot) (kind : CallKind) (s : State) : State :=
  s.setLine { s.line with run := .running, roundNo := some 300, phase := .calling ⟨k, kind, [], s.now, true⟩ }

/-- A status with a condition and a carried tag. -/
def status (cond : Byte) (carried : Tag) : Status := ⟨30, 2, 21, cond, carried⟩

/-- Column 2 as "Reports at One Column" (chapter 8) leaves it after step 3. -/
def withColumn2 (s : State) : State :=
  let s := put 30 1 { bin .promised 0xA100 2 with releaser := some 20, collector := some 41, level := some 0 } s
  let s := put 8 0 { bin .placing 0xB200 2 with releaser := some 12 } s
  ((s.setCol 2 { openCol 4 with stack := [⟨30, 1⟩] }).setLockOf 2 (some ⟨12, .work .place ⟨8, 0⟩, 60, 0⟩)).setWaitsOf 2
    [⟨41, .lift, ⟨30, 1⟩⟩]

/-- Column 4 as "Settling Column 4" (chapter 9) has it after step 2. -/
def withColumn4 (s : State) : State :=
  let s := put 7 0 { bin .promised 0x7A00 4 with releaser := some 12, collector := some 33, level := some 0 } s
  let s := put 11 1 { bin .stranded 0x7B11 4 with releaser := some 5, strandedFrom := some .placing } s
  ((s.setCol 4
    { openCol 4 with
      x := 30, y := 2, service := .suspect, stack := [⟨7, 0⟩], stranded := some ⟨11, 1⟩
      strandingId := some 105 }).setLockOf 4 (some ⟨28, .survey, 200, 0⟩)).setSurveyor 4 (some 28)

/-- Column 12 as "An Evening Peak at Column 12" (chapter 11) has it after step 9. -/
def withColumn12 (s : State) : State :=
  let s := put 20 0 { bin .promised 0x5A01 12 with collector := some 17, level := some 0, buried := true } s
  let s := put 21 0 { bin .parked 0x5A02 12 with releaser := some 3, level := some 1 } s
  let s := put 22 0 { bin .lifting 0x5A03 12 with releaser := some 9, collector := some 26, level := some 2 } s
  (s.setCol 12 { openCol 3 with stack := [⟨20, 0⟩, ⟨21, 0⟩, ⟨22, 0⟩] }).setLockOf 12
    (some ⟨26, .work .lift ⟨22, 0⟩, 60, 0⟩)

/-- Column 13, FAULT with a stranded lift and a free lock; column 9 empty; column 5 with a reservation. -/
def withColumns (s : State) : State :=
  let s := put 40 0
    { bin .stranded 0x7C50 13 with collector := some 44, level := some 0, strandedFrom := some .lifting } s
  let s := put 41 0 { bin .reserved 0x5100 5 with releaser := some 3 } s
  ((s.setCol 13
    { openCol 4 with
      service := .fault, prior := .draining, stack := [⟨40, 0⟩], stranded := some ⟨40, 0⟩
      strandingId := some 144 }).setCol 9 (openCol 4)).setCol 5 (openCol 2)

/-- The zone with all of these columns. -/
def yard : State := withColumns (withColumn12 (withColumn4 (withColumn2 zone)))

/-- A witness for the laws of the relay table: the yard meets them. -/
theorem test_witness_coherent : Coherent yard where
  tags := by decide +kernel
  count := by decide +kernel
  order := by decide +kernel
  slots := by decide +kernel
  calls := by decide +kernel
  positions := by decide +kernel
  fields := by decide +kernel
  stacked := by decide +kernel
  work := by decide +kernel
  locks := by decide +kernel
  strandings := by decide +kernel
  waiters := by decide +kernel
  live := by decide +kernel
  surveyors := by decide +kernel
  reservations := by decide +kernel
  loads := by decide +kernel
  buried := by decide +kernel

/-- The laws do not depend on which LIVE slot is being called. -/
theorem coherent_calling {s : State} {k : Slot} (h : Coherent s) (hk : (s.slot k).link = .live) :
    Coherent (calling k .regular s) :=
  ⟨h.tags, h.count, h.order, h.slots,
    ⟨nofun, nofun, fun x hx => by cases hx; exact ⟨nofun, fun _ => hk, nofun⟩⟩,
    h.positions, h.fields, h.stacked, h.work, h.locks, h.strandings, h.waiters, h.live, h.surveyors, h.reservations,
    h.loads, h.buried⟩

/-- A slot being called is heard. -/
theorem hears_calling (k : Slot) (kind : CallKind) (s : State) : Hears (calling k kind s) k kind :=
  ⟨_, rfl, rfl, rfl, rfl⟩

/-- Slot `k` of the yard, called. -/
abbrev called (k : Slot) : State := calling k .regular yard

/-- The verdict that slot `k` of the yard holds after a command. -/
def verdict (i : Instr) (k : Slot) : Option Verdict := ((after i (called k)).slot k).verdict

/-! ### Well-formedness and frames -/

/-- R131, R159, R170: what no frame and no answer can carry. -/
theorem test_wellFormed_refuses :
    (Instr.nop (List.replicate 41 0)).wellFormed = false ∧ (Instr.restack 0 (List.replicate 10 1)).wellFormed = false ∧
      (Instr.survey (status 0 0) 0 (List.replicate 7 1)).wellFormed = false ∧
      (Instr.answerEnd (List.replicate 40 0) false).wellFormed = false ∧
      (Request.survey 0 (List.replicate 7 1)).wellFormed = false ∧ Request.bad.wellFormed = false := by decide

/-- R170's table, bytes written out: the codes, the byte order and the fields of some commands. -/
theorem test_frames_read :
    readFrame [0x12, 0x01, 0x04] = .command (.readColumn 4) ∧
      readFrame [0x33, 0x04, 0x02, 0x0F, 0x01, 0x28] = .command (.rebudget 2 15 0x0128) ∧
      readFrame [0x51, 0x04, 0x00, 0x00, 0xA1, 0x00] = .command (.findTag 0xA100) ∧
      readFrame [0x63, 0x05, 0x04, 0x00, 0x00, 0x7A, 0x00] = .command (.restack 4 [0x7A00]) ∧
      readFrame [0x71, 0x02, 0x06, 0x20] = .command (.noticeAck 0x0620) ∧
      readFrame [0x40, 0x0E, 0x03, 0x01, 0x00, 0x00, 0x5F, 0x00, 0x02, 0x02, 0x58, 0x03, 0x84, 0x00, 0x29, 0x01] =
        .command (.pageWrite 3 1 0x5F00 2 600 900 41 1) := by decide +kernel

/-- Chapter 10, "Reading a Column and Meeting a Busy Port": frame 5 is one byte short for COLUMN_SERVICE, and frame 6 ends
after one byte. -/
theorem test_frameEnd_judges :
    (after (.frameEnd [0x11, 0x01, 0x04] 0) ready).port.buffer = ⟨.range, []⟩ ∧
      (after (.frameEnd [0x00] 0) ready).port.buffer = ⟨.frame, []⟩ ∧
      (after (.frameEnd [0x00] 0) ready).notice.frameError = some .under := by decide +kernel

/-- The same sequence: frame 2, begun while READ_COLUMN is in progress, clocks out BUSY_PORT and is discarded. -/
theorem test_frameBegunTooSoon_discards :
    let s := after .frameBegunTooSoon (after (.readColumn 4) yard)
    (after (.pageMerge 7) s).port.miso = [0x0A, 0x00, 0x00] ∧ (after (.pageMerge 7) s).manifest = s.manifest := by
  decide +kernel

/-- The same sequence: the buffer takes READ_COLUMN's response when the command finishes, and frame 3's NOP clocks all its
42 bytes out. -/
theorem test_nop_reads_the_response :
    let s := after .commandFinish (after (.readColumn 4) yard)
    s.port.buffer.data.length = 41 ∧ (after (.nop (List.replicate 40 0)) s).port.miso = 0x01 :: s.port.buffer.data := by
  decide +kernel

/-- R169: the part takes frames when the 200 µs after RESET_N's rise have ended. -/
theorem test_partReady : (after .partReady (after .resetNRise State.reset)).power = .ready := by decide +kernel

/-- R169: a reset returns the blocks to their power-on values. -/
theorem test_reset : after .reset yard = State.reset := by decide +kernel

/-- R173: the check of the nine bytes 31h to 39h is F4h. -/
theorem test_crc : crc8 [0x31, 0x32, 0x33, 0x34, 0x35, 0x36, 0x37, 0x38, 0x39] = 0xF4 := by decide +kernel

/-- R171: a CALL to slot 20 with the standing HOLDING(6, 15.1, 59) of chapter 7's round 102 and the verdict DONE(1). -/
theorem test_callFrame : (callFrame 20 .regular (.holding 6 (some ⟨15, 1⟩) 59) (some (.done (some 1)))).take 14 =
    [20, 0x00, 0x02, 6, 0x00, 0xF1, 59, 0x07, 1, 0, 0, 0, 0, 0] := by decide

/-- R172: a LOCK for 8.0 on column 2, byte for byte, is read with its status. -/
theorem test_answer_read :
    let body : List Byte := [12, 15, 30, 2, 21, 0, 0x00, 0x00, 0xB2, 0x00, 0x04, 2, 0x00, 0x80]
    readAnswer 12 (body ++ [crc8 body]) false = .valid (status 0 0xB200) (some (.lock 2 (some ⟨8, 0⟩))) := by decide +kernel

/-! ### Columns and records: host commands -/

/-- R4: what a definition leaves, on an UNDEFINED column; and on a column that is not UNDEFINED or OUT. -/
theorem test_columnDefine :
    (after (.columnDefine 4 30 2 4 7) ready).col 4 = ⟨30, 2, 4, ⟨true, true, true⟩, .out, .opened, [], none, none⟩ ∧
      result (.columnDefine 4 30 2 4 7) yard = some .wrongState := by decide +kernel

/-- R7: an empty column goes OUT, and a column with a load does not. -/
theorem test_columnService :
    ((after (.columnService 9 5) yard).col 9).service = .out ∧ result (.columnService 5 5) yard = some .busy ∧
      result (.columnService 4 1) yard = some .wrongState := by decide +kernel

/-- R18, R170: column 2 of "Reports at One Column" after step 3, byte for byte. -/
theorem test_readColumn : data (.readColumn 2) yard =
    [2, 10, 4, 4, 7, 0x11, 1, 30, 1, 0xFF, 0xFF, 0xFF, 0xFF, 0xFF, 0xFF, 0xFF, 0xFF, 0xFF, 0xFF, 0x12, 0xFF, 0xFF, 0xFF,
      12, 8, 0, 60, 1, 41 + 64, 30, 1, 0xFF, 0xFF, 0xFF, 0xFF, 0xFF, 0xFF, 0xFF, 0xFF, 0xFF, 0xFF] := by decide +kernel

/-- R37, R170: record 20.0 of "An Evening Peak": PROMISED to 17, buried, at level 0 and depth 2. -/
theorem test_readHandoff : data (.readHandoff 20 0) yard =
    [20, 0, 3, 0x00, 0x00, 0x5A, 0x01, 1, 0x00, 0x00, 0x13, 0x88, 0x03, 0x84, 0x00, 0x00, 0x08, 0xFF, 17, 12, 0, 2,
      0xFF] := by decide +kernel

/-- R38, R24: FIND_TAG and FREE_COUNT. -/
theorem test_findTag_and_freeCount :
    data (.findTag 0xA100) yard = [30, 1] ∧ data (.findTag 0xBEEF) yard = [0xFF, 0xFF] ∧ data .freeCount yard = [55] := by
  decide +kernel

/-- R39, R16: 21.0 is promised to slot 44 and is buried under 22.0; a LIFTING record is BUSY. -/
theorem test_assign :
    let t := after (.assign 21 0 44) yard
    t.live 21 = some { bin .promised 0x5A02 12 with releaser := some 3, collector := some 44, level := some 1, buried := true } ∧
      t.notice.buried = some ⟨21, 0⟩ ∧ result (.assign 22 0 44) yard = some .busy := by decide +kernel

/-- Chapter 2, step 9: UNASSIGN of a LIFTING record is BUSY; and chapter 7, block 2: it removes the collector's wait
place. -/
theorem test_unassign :
    result (.unassign 22 0) yard = some .busy ∧ (after (.unassign 30 1) yard).waitsOf 2 = [] ∧
      ((after (.unassign 30 1) yard).live 30).map (·.state) = some .parked := by decide +kernel

/-- Chapter 2, step 14: CANCEL retires a reservation: the next generation, the outcome entry and the free count. -/
theorem test_cancel :
    (after (.cancel 41 0) yard).entry 41 = ⟨1, none, some ⟨⟨41, 0⟩, .cancelled, 0x5100, 5⟩⟩ ∧
      (after (.cancel 41 0) yard).handoff.freeCount = 56 := by decide +kernel

/-- Chapter 9, step 1: SURVEY_ASK names a surveyor; naming another ends the old one's SURVEY lock (R150). -/
theorem test_surveyAsk :
    (after (.surveyAsk 4 44) yard).surveyor 4 = some 44 ∧ (after (.surveyAsk 4 44) yard).lockOf 4 = none ∧
      result (.surveyAsk 9 44) yard = some .wrongState := by decide +kernel

/-- R155: the box is read and cleared. -/
theorem test_surveyRead_and_clear :
    let s := yard.setSurvey { yard.survey with box := some ⟨4, 28, [0x7C50]⟩ }
    data .surveyRead s = [1, 4, 28, 1, 0x00, 0x00, 0x7C, 0x50] ∧ data .surveyRead yard = [0] ∧
      (after .surveyClear s).survey.box = none := by decide +kernel

/-- Chapter 9, after "Suppose instead": a tag that no record carries is made a PARKED record with the found flag at the lowest
free index, on column 13 here, whose stranded lift stays and is PROMISED again to its LIVE robot. -/
theorem test_restack :
    let t := after (.restack 13 [0x7C50, 0x9999]) yard
    (t.col 13).stack = [⟨40, 0⟩, ⟨0, 0⟩] ∧ (t.col 13).service = .draining ∧
      t.live 0 = some { bin .parked 0x9999 13 with
        deadline := 2400, budget := 1200, unlisted := true, found := true, level := some 1 } ∧
      t.live 40 = some { bin .promised 0x7C50 13 with collector := some 44, level := some 0, buried := true } := by
  decide +kernel

/-- R157: a record of the stack that is not listed is retired MISSING, a stranded placement that is listed is PARKED, and the
response gives the handles and the number of reservations trimmed. -/
theorem test_restack_missing :
    let s := yard.setLockOf 4 none
    let t := after (.restack 4 [0x7B11]) s
    t.entry 7 = ⟨1, none, some ⟨⟨7, 0⟩, .missing, 0x7A00, 4⟩⟩ ∧ (t.live 11).map (·.level) = some (some 0) ∧
      data (.restack 4 [0x7B11]) s = [1, 11, 1, 0] := by decide +kernel

/-! ### The line -/

/-- R111, R114, R124: settings that take force at the next round start. -/
theorem test_line_settings :
    ((after (.slotMode 20 1) yard).slot 20).mode = .on ∧ ((after (.slotMode 20 1) yard).slot 20).nextMode = .quiet ∧
      (after (.blockMode 1 1 2) yard).line.nextBlockMode = .paired 1 2 ∧
      (after (.blockEndEnable 0x81) yard).line.blockEndEnable = 0x81 := by decide +kernel

/-- R125 and chapter 7, "Bringing the line up": the first round after reset is round 0, a probe round. -/
theorem test_linkStart :
    let t := after .linkStart (ready.setSlot 3 { SlotRec.reset with nextMode := .on })
    t.line.roundNo = some 0 ∧ t.line.probe = true ∧ t.line.run = .running ∧
      t.line.phase = .calling ⟨3, .probe, callFrame 3 .probe .none none, 0, false⟩ := by decide +kernel

/-- R125: a stop in an exchange ends with the exchange. -/
theorem test_linkStop :
    (after .linkStop (called 20)).line.run = .stopping ∧
      (after .answerOverlength (after .linkStop (called 20))).line.run = .stopped := by decide +kernel

/-- R123: READ_STATS after round 300 begins, and STATS_CLEAR. -/
theorem test_readStats_and_clear :
    (data .readStats (called 20)).drop 1 =
        [1, 0x01, 0x2C, 2, 20, 0x00, 0xFF, 0xFF, 0x00, 0xFF, 0xFF, 0x00, 0x00, 0xFF, 0xFF, 0x00, 0x00] ∧
      (after .statsClear { yard with line := { yard.line with maxDuration := 9 } }).line.maxDuration = 0 := by decide +kernel

/-- R127, R170: READ_SLOT of slot 12 of the yard: its record, its standing HOLDING(2, 8.0, 60), no mark. -/
theorem test_readSlot : data (.readSlot 12) yard =
    [2, 2, 1, 0, 0, 112, 0, 0, 0, 63, 0, 0, 0, 0, 0, 0, 0, 0, 0, 0, 0, 0, 2, 2, 8, 0, 60, 0xFF] := by decide +kernel

/-- R146: only a LOST slot is cleared. -/
theorem test_clearLost :
    let s := yard.setSlot 20 { liveSlot 20 with link := .lost, miss := 4 }
    (after (.clearLost 20) s).slot 20 = { liveSlot 20 with link := .vacant, robotId := none } ∧
      result (.clearLost 12) s = some .wrongState := by decide +kernel

/-- Chapter 7, "How Long a Round Takes": 15,300 µs are recorded as 1530. -/
theorem test_emptyRoundEnd :
    let s := { ready with
      now := 15300, line := { ready.line with run := .running, phase := .emptyRound, roundNo := some 0, roundPeriod := 20 } }
    (after .emptyRoundEnd s).line.lastDuration = 1530 ∧ (after .emptyRoundEnd s).line.minDuration = 1530 ∧
      (after .emptyRoundEnd s).line.phase = .waiting := by decide +kernel

/-- R122: the next round begins when its period elapses. -/
theorem test_roundPeriodDue :
    let s := { ready with
      now := 20000, line := { ready.line with run := .running, phase := .waiting, roundNo := some 0, roundPeriod := 20 } }
    (after .roundPeriodDue s).line.roundNo = some 1 ∧ (after .roundPeriodDue s).line.probe = false := by decide +kernel

/-- Column 6 of chapter 7's "A Robot Falls Silent Holding a Lock", slot 20 with three misses. -/
def silent : State :=
  let s := put 15 1 { bin .placing 0x1500 6 with releaser := some 20 } zone
  let s := (s.setCol 6 (openCol 4)).setLockOf 6 (some ⟨20, .work .place ⟨15, 1⟩, 60, 0⟩)
  let s := calling 20 .regular (s.setSlot 20 { liveSlot 20 with miss := 3 })
  { s with line := { s.line with phase := .calling ⟨20, .regular, [], 0, false⟩ } }

/-- That sequence, round 106: the fourth miss loses the slot, and its placement is stranded. -/
theorem test_replyWindowExpiry :
    let t := after .replyWindowExpiry silent
    ((t.slot 20).link, (t.slot 20).miss) = (.lost, 4) ∧ (t.live 15).map (·.state) = some .stranded ∧
      ((t.col 6).service, (t.col 6).prior) = (.suspect, .opened) ∧ t.mark 20 = none ∧ t.notice.pending = 0b11 := by
  decide +kernel

/-- R116: a start bit opens reception, and the window then ends nothing; round 101: a spoiled answer is a miss. -/
theorem test_answerStartBit :
    let s := after .answerStartBit { silent with line := { silent.line with lossThreshold := 5 } }
    after .replyWindowExpiry s = s ∧ ((after (.answerEnd [20, 11] false) s).slot 20).miss = 4 ∧
      ((after .answerOverlength s).slot 20).miss = 4 := by decide +kernel

/-- R116: slot 20's start bit, taken at the moment of its window's expiry and after it, opens nothing in the exchange that
has begun with slot 26, nor do its bytes; the next start bit is slot 26's. One that comes when that CALL has been sent, 150
bit times later, is slot 26's too. -/
theorem test_late_start_bit :
    let s := after .replyWindowExpiry { silent with line := { silent.line with lossThreshold := 5 } }
    let t := after .answerStartBit s
    s.line.phase = .calling ⟨26, .regular, callFrame 26 .regular .none none, 0, false⟩ ∧ t.line.phase = s.line.phase ∧
      after .answerOverlength t = t ∧ (exchangeOf (after .answerStartBit t)).map (·.receiving) = some true ∧
      (exchangeOf (after .answerStartBit { s with now := 149 })).map (·.receiving) = some false ∧
      (exchangeOf (after .answerStartBit { s with now := 150 })).map (·.receiving) = some true := by decide +kernel

/-- R124, R122, R123: after slot 20 the round passes the end of block 2 on its way to slot 26; after slot 44, the last, it
ends, is measured, is late, and the next begins. -/
theorem test_round_goes_on :
    let enabled (k : Slot) (s : State) := { s with line := { s.line with
      phase := .calling ⟨k, .regular, [], 0, true⟩, blockEndEnable := 0xFF, dueAt := some 5 }, now := 70 }
    let t := after .answerOverlength (enabled 20 (called 20))
    let u := after .answerOverlength (enabled 44 (called 44))
    (t.notice.blockEnd, t.notice.pending, (exchangeOf t).map (·.slot)) = (some 2, 0x200, some 26) ∧
      (u.notice.blockEnd, u.notice.pending, u.line.roundNo) = (some 7, 0x300, some 301) ∧
      (u.line.lastDuration, (exchangeOf u).map (·.slot)) = (7, some 3) := by decide +kernel

/-! ### The age unit and timers -/

/-- R74 to R78, and step 11 of chapter 4's "A Crowded Column": a place lease expires. -/
theorem test_leaseExpiry :
    let t := after (.leaseExpiry 2) yard
    (t.live 8).map (·.state) = some .stranded ∧ (t.col 2).service = .suspect ∧ t.waitsOf 2 = [] ∧ t.mark 12 = some 2 ∧
      t.lockOf 2 = none := by decide +kernel

/-- The zone of chapter 5's "Three Age Events at Peak". -/
def warm : State :=
  let reading (k : Slot) (l : LinkState) (c : Condition) (t : Nat) (s : State) : State :=
    s.setSlot k { liveSlot k with link := l, cond := c, temp := t }
  let s := reading 50 .live .ready 63 (reading 41 .live .fault 50 (reading 33 .live .ready 34
    (reading 20 .live .busy 21 (reading 12 .live .ready 18 (reading 7 .lost .ready 40 ready)))))
  let s := put 2 0 { bin .parked 0x0200 0 with deadline := 1002, budget := 7 } s
  let s := put 5 1 { bin .promised 0x0501 0 with cls := .frozen, deadline := noDeadline, budget := 20 } s
  let s := put 9 0 { bin .reserved 0x0900 0 with cls := .ambient, deadline := 1001, budget := 0 } s
  s.setAge ⟨.running 0, 1000, 5, .guarded, 1, 8, 16, 24, 8, 1, none, 0⟩

/-- The budget and the two flags of an index. -/
def exposure (s : State) (i : RecIdx) : Option (Nat × Bool × Bool) := (s.live i).map fun r => (r.budget, r.spent, r.overdue)

/-- That sequence, the first age event. -/
theorem test_ageEvent_first :
    let t := after .ageEvent warm
    (t.age.clock, t.age.readings, t.age.aggregate, t.age.band) = (1001, 3, some 21, 2) ∧
      exposure t 2 = some (4, false, false) ∧ exposure t 5 = some (14, false, false) ∧
      exposure t 9 = some (0, true, true) ∧ (t.notice.spent, t.notice.overdue) = (some ⟨9, 0⟩, some ⟨9, 0⟩) := by
  decide +kernel

/-- The second age event, after slot 33's FAULT and slot 20's 25 °C: both kinds keep the subject latched first. -/
theorem test_ageEvent_second :
    let s := after .ageEvent warm
    let s := (s.setSlot 33 { s.slot 33 with cond := .fault }).setSlot 20 { s.slot 20 with temp := 25 }
    let t := after .ageEvent s
    (t.age.readings, t.age.aggregate, t.age.band) = (2, some 25, 3) ∧ exposure t 2 = some (0, true, true) ∧
      exposure t 5 = some (6, false, false) ∧ t.notice.spent = some ⟨9, 0⟩ := by decide +kernel

/-- The same sequence: REBUDGET(2.0, 40) clears the spent flag. -/
theorem test_rebudget :
    let s := put 2 0 { bin .parked 0x0200 0 with budget := 0, spent := true, overdue := true } zone
    exposure (after (.rebudget 2 0 40) s) 2 = some (40, false, true) := by decide +kernel

/-- R83, R91: the timer's start and stop, and what READ_AGE says of a running period. -/
theorem test_age_commands :
    (after .ageStart ready).age.run = .running 0 ∧ (after .ageStop warm).age.run = .stopped ∧
      (data .readAge warm).drop 1 = [0x00, 0x00, 0x03, 0xE8, 5, 5, 2, 1, 8, 16, 24, 8, 1, 0xFF, 0] := by decide +kernel

/-! ### The manifest -/

/-- Chapter 6's "Merging While the Grid Runs", with rows 0 and 3 of P0 and two of the entries. -/
def merging : State :=
  let rows := ((Vector.replicate 16 Row.cleared).set 0 ⟨.upsert, 0x6100, .frozen, 600, 900, 41, false⟩).set 1
    ⟨.delete, 0x5F00, .ambient, 0, 0, 0, false⟩
  { ready with
    age := { ready.age with clock := 2000 }
    manifest := ⟨[⟨0x5F00, .ambient, 1, 1, 1, false⟩, ⟨0x5F10, .chilled, 1, 1, 1, false⟩], ⟨.merging, rows⟩,
      ⟨.filling, Vector.replicate 16 Row.cleared⟩, some ⟨.p0, 3, 0, Tally.zero⟩, ⟨.p0, 0, Tally.zero⟩⟩ }

/-- Step 0: 6100h is inserted with deadline 2600. -/
theorem test_mergeStep_inserts :
    let t := after .mergeStep merging
    t.manifest.find 0x6100 = some ⟨0x6100, .frozen, 2600, 900, 41, false⟩ ∧
      t.manifest.merge = some ⟨.p0, 3, 1, ⟨1, 0, 0, 0, 0⟩⟩ := by decide +kernel

/-- Steps 2 and 3, the latter the last here: 5F00h is deleted, tag 0 is refused, and the merge ends. -/
theorem test_mergeStep_ends :
    let t := after .mergeStep (after .mergeStep (after .mergeStep merging))
    t.manifest.report = ⟨.p0, 3, ⟨1, 0, 1, 0, 1⟩⟩ ∧ t.manifest.p0.state = .empty ∧ t.manifest.map.length = 2 ∧
      t.notice.pending = 0x80 := by decide +kernel

/-- R98, R99: a row is written whole, and PAGE_MERGE turns the pages over. -/
theorem test_pageWrite_and_merge :
    let s := after .commandFinish (after (.pageWrite 0 0 0x6100 2 600 5000 41 0) ready)
    s.manifest.p0.rows[0] = ⟨.upsert, 0x6100, .frozen, 600, 4095, 41, false⟩ ∧
      (after (.pageMerge 7) s).manifest.merge = some ⟨.p0, 7, 0, Tally.zero⟩ ∧
      (after (.pageMerge 7) s).manifest.p1.state = .filling ∧ result (.pageMerge 2) merging = some .busy := by
  decide +kernel

/-- R104 to R107: what the host reads of the manifest, and when it may clear it. -/
theorem test_manifest_queries :
    data (.manifestFind 0x5F10) merging = [1, 1, 0, 0, 0, 1, 0, 1, 0, 1, 0] ∧ data .manifestCount merging = [0, 2] ∧
      result .manifestClear merging = some .busy ∧ (after .manifestClear ready).manifest.map = [] ∧
      (data .mergeResult merging).take 3 = [1, 0, 1] := by decide +kernel

/-! ### Robot requests -/

/-- Chapter 8, "Reports at One Column", steps 4 and 5. -/
theorem test_setDown :
    verdict (.setDown (status 0 0xB200) ⟨8, 0⟩) 12 = some .stillHeld ∧
      verdict (.setDown (status 0 0) ⟨8, 0⟩) 12 = some (.done (some 1)) := by decide +kernel

/-- Step 5: the push buries 30.1, and the lock stays free with slot 41 at position 1. -/
theorem test_setDown_changes :
    let t := after (.setDown (status 0 0) ⟨8, 0⟩) (called 12)
    (t.col 2).stack = [⟨30, 1⟩, ⟨8, 0⟩] ∧ t.lockOf 2 = none ∧ t.waitsOf 2 = [⟨41, .lift, ⟨30, 1⟩⟩] ∧
      (t.live 30).map (·.buried) = some true ∧ t.notice.buried = some ⟨30, 1⟩ ∧ t.load 2 = 2 := by decide +kernel

/-- Step 8: slot 41 gives up its wait place and keeps its promise; a stale handle is answered so (R142 case 1). -/
theorem test_yield :
    let t := after (.yield (status 0 0) ⟨30, 1⟩) (called 41)
    (t.slot 41).verdict = some .released ∧ t.waitsOf 2 = [] ∧ (t.live 30).map (·.state) = some .promised ∧
      verdict (.yield (status 0 0) ⟨30, 2⟩) 41 = some .stale := by decide +kernel

/-- R142 case 3: a placer's YIELD returns its record to RESERVED, and the scan grants slot 41. -/
theorem test_yield_holder :
    let t := after (.yield (status 0 0) ⟨8, 0⟩) (called 12)
    (t.live 8).map (·.state) = some .reserved ∧ t.lockOf 2 = some ⟨41, .work .lift ⟨30, 1⟩, 60, 0⟩ ∧
      (t.live 30).map (·.state) = some .lifting := by decide +kernel

/-- Chapter 4, steps 2 and 7: a repeat answers with the present position; and chapter 11, step 7: BURIED(2). -/
theorem test_lock :
    verdict (.lock (status 0 0) 2 (some ⟨30, 1⟩)) 41 = some (.queued 2 1) ∧
      verdict (.lock (status 0 0) 12 (some ⟨20, 0⟩)) 17 = some (.buried 2) ∧
      verdict (.lock (status 0 0) 2 (some ⟨8, 0⟩)) 12 = some (.granted 2 (.work .place ⟨8, 0⟩) 60) := by decide +kernel

/-- Chapter 11, step 1: a free lock is granted, and the record is PLACING. -/
theorem test_lock_granted :
    let t := after (.lock (status 0 0) 5 (some ⟨41, 0⟩)) (called 3)
    (t.slot 3).verdict = some (.granted 5 (.work .place ⟨41, 0⟩) 60) ∧
      (t.live 41).map (·.state) = some .placing ∧ t.lockOf 5 = some ⟨3, .work .place ⟨41, 0⟩, 60, 0⟩ := by decide +kernel

/-- Chapter 11, step 14's like by PICK_UP (R137): 22.0 is retired DELIVERED. -/
theorem test_pickUp_delivers :
    let t := after (.pickUp (status 0 0x5A03) ⟨22, 0⟩) (called 26)
    (t.slot 26).verdict = some (.done none) ∧ (t.col 12).stack = [⟨20, 0⟩, ⟨21, 0⟩] ∧
      t.entry 22 = ⟨1, none, some ⟨⟨22, 0⟩, .delivered, 0x5A03, 12⟩⟩ ∧ t.lockOf 12 = none := by decide +kernel

/-- Chapter 8, step 11: another tag strands the lift. -/
theorem test_pickUp_wrongBin :
    let t := after (.pickUp (status 0 0xC300) ⟨22, 0⟩) (called 26)
    (t.slot 26).verdict = some .wrongBin ∧ (t.col 12).service = .suspect ∧ (t.col 12).stranded = some ⟨22, 0⟩ ∧
      t.mark 26 = none ∧ t.notice.pending = 0b10 := by decide +kernel

/-- Chapter 11, step 10: slot 26's answer with the condition FAULT. -/
theorem test_fault_condition :
    let t := after (.answerEnd (encodeAnswer 26 (status 2 0) none) false) (called 26)
    (t.live 22).map (·.state) = some .stranded ∧ (t.col 12).strandingId = some 126 ∧ t.mark 26 = some 12 ∧
      t.load 12 = 3 ∧ t.notice.pending = 0b10 := by decide +kernel

/-- R76, R77, R78, R130: a request carried in an answer that reports FAULT is judged after the condition: a waiter has lost its
place and is not BUSY, and a holder keeps the mark of its lease. -/
theorem test_fault_with_request :
    let t := after (.claim (status 2 0) 0xBEEF) (called 41)
    let u := after (.claim (status 2 0) 0xBEEF) (called 12)
    (t.slot 41).verdict = some .unknown ∧ t.waitsOf 2 = [] ∧ (u.slot 12).verdict = some .unknown ∧ u.mark 12 = some 2 ∧
      (u.col 2).service = .suspect := by decide +kernel

/-- R118, R131: an answer without a request, and one with the code 0Ah, which names none. -/
theorem test_answerEnd :
    let body : List Byte := [33, 12, 30, 2, 21, 1, 0, 0, 0, 7, 0x0A]
    let plain := after (.answerEnd (encodeAnswer 33 (status 1 7) none) false) (called 33)
    plain.slot 33 = { liveSlot 33 with x := 30, y := 2, temp := 21, cond := .busy, carried := 7 } ∧
      verdict (.answerEnd (body ++ [crc8 body]) false) 33 = some .badRequest := by decide +kernel

/-- Chapter 8, step 9, and R140: CLAIM of a PARKED bin with one bin on it, and of a bin PROMISED to another. -/
theorem test_claim :
    verdict (.claim (status 0 0) 0x5A02) 33 = some (.claimed ⟨21, 0⟩ 12 1 1) ∧
      verdict (.claim (status 0 0) 0x5A01) 33 = some .taken ∧
      verdict (.claim (status 0 0) 0xBEEF) 33 = some .unknown := by decide +kernel

/-- Chapter 9, step 3: the placement is found present and pushed. -/
theorem test_survey_matched :
    let t := after (.survey (status 0 0) 4 [0x7B11, 0x7A00]) (called 28)
    (t.slot 28).verdict = some .matched ∧ (t.col 4).service = .opened ∧ (t.col 4).stack = [⟨7, 0⟩, ⟨11, 1⟩] ∧
      (t.live 11).map (·.state) = some .parked ∧ (t.live 7).map (·.buried) = some true ∧ t.surveyor 4 = none ∧
      t.load 4 = 2 := by decide +kernel

/-- Chapter 9, "Suppose instead": the list is recorded, and the column is at FAULT. -/
theorem test_survey_recorded :
    let t := after (.survey (status 0 0) 4 [0x9999, 0x7B11, 0x7A00]) (called 28)
    (t.slot 28).verdict = some .recorded ∧ t.survey.box = some ⟨4, 28, [0x9999, 0x7B11, 0x7A00]⟩ ∧
      (t.col 4).service = .fault ∧ t.lockOf 4 = none ∧ t.notice.pending = 0b100 := by decide +kernel

/-- R143: the SURVEY lock is given up, and a slot without one is answered NOT_YOURS. -/
theorem test_yieldSurvey :
    verdict (.yieldSurvey (status 0 0)) 28 = some .released ∧
      (after (.yieldSurvey (status 0 0)) (called 28)).lockOf 4 = none ∧
      verdict (.yieldSurvey (status 0 0)) 12 = some .notYours := by decide +kernel

/-- R119, R112: a robot joins a VACANT slot under an id that no LIVE slot holds. -/
theorem test_join :
    let s := calling 50 .probe yard
    ((after (.join (status 0 0) 999) s).slot 50).link = .live ∧
      ((after (.join (status 0 0) 999) s).slot 50).verdict = some .welcome ∧
      ((after (.join (status 0 0) 112) s).slot 50).verdict = some .refusedId := by decide +kernel

/-- R121: LEAVE is refused while the slot holds a lock, and otherwise drops its promises. -/
theorem test_leave :
    verdict (.leave (status 0 0)) 12 = some .wrongState ∧ verdict (.leave (status 0 0)) 33 = some .left ∧
      ((after (.leave (status 0 0)) (called 33)).live 7).map (·.state) = some .parked := by decide +kernel

/-- The columns of chapter 3's "A chilled bin and an ambient one", the age clock at 100. -/
def chapter3 (cls : StorageClass) : State :=
  let s := put 1 0 { bin .parked 0x0101 3 with deadline := 500, level := some 0 } zone
  let s := put 2 0 { bin .parked 0x0102 3 with deadline := 500, level := some 1 } s
  let s := put 3 0 { bin .parked 0x0103 7 with deadline := 1000, level := some 0 } s
  let s := put 4 0 { bin .parked 0x0104 7 with deadline := 1000, level := some 1 } s
  let s := put 5 0 { bin .parked 0x0105 7 with deadline := 1000, level := some 2 } s
  let s := put 6 0 { bin .parked 0x0106 9 with deadline := 900, level := some 0 } s
  let s := s.setCol 3 { openCol 4 with x := 12, stack := [⟨1, 0⟩, ⟨2, 0⟩] }
  let s := s.setCol 5 { openCol 4 with x := 20, y := 9 }
  let s := s.setCol 7 { openCol 4 with x := 11, y := 6, allowed := ⟨true, false, false⟩, stack := [⟨3, 0⟩, ⟨4, 0⟩, ⟨5, 0⟩] }
  let s := s.setCol 9 { openCol 4 with y := 7, allowed := ⟨false, true, true⟩, stack := [⟨6, 0⟩] }
  calling 12 .regular { s with
    age := { s.age with clock := 100 }, manifest := { s.manifest with map := [⟨0x5100, cls, 700, 900, 7, false⟩] } }

/-- That case: a chilled bin goes to column 9, and an ambient one to column 7. -/
theorem test_park :
    let park := Instr.park ⟨10, 4, 21, 0, 0x5100⟩ 0x5100
    ((after park (chapter3 .chilled)).slot 12).verdict = some (.place 9 ⟨0, 0⟩) ∧
      ((after park (chapter3 .ambient)).slot 12).verdict = some (.place 7 ⟨0, 0⟩) ∧
      (after park (chapter3 .chilled)).load 9 = 2 := by decide +kernel

/-- The scores of that case, and the totals of the ambient bin. -/
theorem test_scores :
    let f (c : StorageClass) : BinFacts := ⟨0x5100, c, 700, 900, 7, false⟩
    [3, 5, 9].map ((chapter3 .chilled).score 10 4 (f .chilled)) = [212, 60, 14] ∧
      [3, 5, 7].map ((chapter3 .ambient).score 10 4 (f .ambient)) = [244, 92, 18] := by decide +kernel

/-! ### Notices and the zone -/

/-- R165 to R168: NOTICES, NOTICE_ACK and NOTICE_ENABLE with LOST and BURIED pending. -/
theorem test_notices :
    let s := yard.setNotice { yard.notice with pending := 0b100010, buried := some ⟨30, 1⟩ }
    data .notices s = [0x00, 0x22, 0, 0, 0xFF, 4, 0xFF, 0xFF, 0xFF, 0xFF, 0xFF, 30, 1, 0xFF, 0xFF, 0xFF, 0xFF] ∧
      (after (.noticeAck 0xF820) s).notice = { s.notice with pending := 0b10, buried := none } ∧
      (after (.noticeEnable 0x0020) s).notice.attnN = false := by decide +kernel

/-- R163: clamping, and the thresholds put in rising order. -/
theorem test_zoneSetup :
    let p : ZoneParams := ⟨16, 2, 1, 32, 0, 17, 1, 4, 20, 0, 60, 60, 0, 3, 4, 24, 8, 63, 32, 3, 5000, 65535⟩
    let t := after (.zoneSetup p) ready
    (t.placement.wd, t.placement.defaultClass, t.placement.defaultBudget) = (15, .frozen, 4095) ∧
      (t.line.lossThreshold, t.line.probeInterval, t.line.replyWindow, t.line.lineRate) = (1, 16, 2, 3) ∧
      (t.age.period, t.age.mode, t.age.fixedBand, t.age.guardGap) = (1, .guarded, 3, 31) ∧
      (t.age.t1, t.age.t2, t.age.t3, t.lock.surveyLimit) = (8, 24, 62, 1) := by decide +kernel

/-- R164: ZONE_CLEAR empties the table, keeps definitions, and is refused while the age unit runs. -/
theorem test_zoneClear :
    let t := after .zoneClear yard
    t.handoff.freeCount = 64 ∧ (t.entry 30).gen = 2 ∧ (t.col 13).service = .draining ∧ (t.col 2).capacity = 4 ∧
      (t.slot 12).link = .vacant ∧ result .zoneClear warm = some .notStopped := by decide +kernel

/-! ### The queue -/

/-- A step takes the command at the front; on an empty queue a microsecond passes (log entry 1). -/
theorem test_step :
    step { yard with pending := [.reset, .resetNRise] } = .next { State.reset with pending := [.resetNRise] } ∧
      step yard = .next { yard with now := 1 } := ⟨rfl, rfl⟩

/-! ### Witnesses: for each statement, a state and operands that meet its hypotheses, clause by clause -/

/-- Slot `k` waits nowhere. -/
abbrev notWaiting (s : State) (k : Slot) : Prop := ∀ d, ∀ e ∈ s.waitsOf d, e.slot ≠ k

theorem reports_called {k : Slot} {t : Tag} {s : State} (hm : (s.slot k).mode ≠ .quiet) :
    Reports (calling k .regular s) k (status 0 t) := ⟨hears_calling k .regular s, hm, .inl rfl⟩

theorem test_witness_portFree : PortFree ready ∧ PortFree yard ∧ PortFree (called 12) ∧ PortFree merging := by
  decide +kernel

theorem test_witness_StepTakesFrontCommand :
    (yard.setPending [.reset, .linkStop]).pending = .reset :: [.linkStop] ∧ yard.pending = [] := by decide +kernel

theorem test_witness_EveryCommandCompletes :
    Instr.linkStart ≠ .reset ∧ Instr.linkStart ≠ .resetNRise ∧ Instr.linkStart ≠ .partReady ∧
      (∀ p, Instr.linkStart ≠ .zoneSetup p) ∧ ∀ b k, Instr.linkStart ≠ .frameEnd b k :=
  ⟨nofun, nofun, nofun, nofun, nofun⟩

theorem test_witness_PartBecomesReady :
    State.reset.power = .low ∧ ready.power ≠ .low ∧ (State.reset.setPower (.counting 5)).power = .counting 5 ∧
      (∀ n, ready.power ≠ .counting n) ∧ State.reset.power ≠ .ready ∧ encodeFrame .notices = some [0x70, 0] ∧
      (ready.power = .ready ∧ (ready.setPort { ready.port with frame := .ignored }).port.frame = .ignored) :=
  ⟨rfl, nofun, rfl, nofun, nofun, rfl, rfl, rfl⟩

/-- One byte; N = 40 with a byte missing; N = 41; N = 40 with a byte too many; a code of no command; COLUMN_SERVICE with one
byte; RESTACK with a payload of two bytes. -/
theorem test_witness_FramesAreJudgedByLength :
    ([0x70] : List Byte).length < 2 ∧ ((0 :: 40 :: List.replicate 39 0 : List Byte).length < 40 + 2) ∧
      (2 ≤ ([0, 41] : List Byte).length ∧ 40 < (([0, 41] : List Byte).getD 1 0).toNat) ∧
      (2 ≤ (0 :: 40 :: List.replicate 41 0 : List Byte).length ∧ 40 + 2 < (0 :: 40 :: List.replicate 41 0 : List Byte).length) ∧
      ((3 : Nat) ≠ 0 ∧ 3 ≠ 0x63 ∧ 3 ∉ fixedPayloads.map Prod.fst ∧ ([3, 0] : List Byte).length = 0 + 2) ∧
      ((0x11, 2) ∈ fixedPayloads ∧ ([0x11, 1, 0] : List Byte).length = 1 + 2) ∧
      (2 % 4 ≠ 1 ∧ ([0x63, 2, 0, 0] : List Byte).length = 2 + 2) := by decide +kernel

theorem test_witness_FrameOfACommandIsThatCommand :
    let i := Instr.restack 15 (List.replicate 9 7)
    i.wellFormed = true ∧ (encodeFrame i).isSome ∧ (Instr.nop (List.replicate 40 0)).wellFormed = true ∧
      (encodeFrame (.nop (List.replicate 40 0))).isSome := by decide

/-- The yard with the port busy. -/
def busy (f : InFlight) (m : FrameMark) : State := yard.setPort { yard.port with busy := some f, frame := m }

theorem test_witness_PortBusyUntilFinish :
    ((busy .keep .judged).power = .ready ∧ (busy .keep .judged).port.busy.isSome) ∧
      (busy .keep .tooSoon).port.frame = .tooSoon ∧
      (busy (.write ⟨.ok, []⟩) .judged).port.busy = some (.write ⟨.ok, []⟩) ∧
      (busy .keep .judged).port.busy = some .keep ∧ yard.port.busy = none ∧ PortFree yard ∧
      (List.replicate 40 (0 : Byte)).length ≤ 40 := by decide +kernel

/-- R4's reasons for RANGE. -/
abbrev defineBad (col x y k set : Byte) : Prop :=
  15 < col.toNat ∨ 127 < x.toNat ∨ 127 < y.toNat ∨ k.toNat = 0 ∨ 6 < k.toNat ∨ set.toNat = 0 ∨ 8 ≤ set.toNat

/-- The reasons for RANGE at their bounds, and the largest operands that pass, with a column of each kind. -/
theorem test_witness_ColumnDefineJudged :
    (defineBad 16 0 0 1 1 ∧ defineBad 0 128 0 1 1 ∧ defineBad 0 0 128 1 1 ∧ defineBad 0 0 0 0 1) ∧
      (defineBad 0 0 0 7 1 ∧ defineBad 0 0 0 1 0 ∧ defineBad 0 0 0 1 8) ∧
      (¬ defineBad 15 127 127 6 7 ∧ ¬ defineBad 0 0 0 1 1) ∧ PortFree yard ∧
      (yard.col 12).service ∈ [Service.opened, .draining, .suspect, .fault] ∧
      (yard.col 15).service ∈ [Service.undefined, .out] :=
  ⟨by decide, by decide, by decide, by decide +kernel⟩

theorem test_witness_ColumnServiceJudged :
    (15 < (16 : Byte).toNat ∧ (3 : Byte) ≠ 1 ∧ (3 : Byte) ≠ 2 ∧ (3 : Byte) ≠ 5) ∧ (15 : Byte).toNat = (15 : Col).val ∧
      (yard.col 15).service ∈ [Service.undefined, .suspect, .fault] ∧
      (yard.col 9).service ∈ [Service.opened, .draining, .out] ∧ Service.opened = (yard.col 9).service ∧
      Service.out ≠ (yard.col 5).service ∧ 0 < yard.load 5 ∧ (yard.lockOf 12).isSome ∧
      ¬ (0 < yard.load 9 ∨ (yard.lockOf 9).isSome) := by decide +kernel

theorem test_witness_ReadColumnLayout :
    PortFree yard ∧ 15 < (16 : Byte).toNat ∧ (15 : Byte).toNat = (15 : Col).val := by decide +kernel

theorem test_witness_ReadHandoffJudged :
    let s := after (.cancel 41 0) yard
    63 < (64 : Byte).toNat ∧ 15 < (16 : Byte).toNat ∧ (yard.named ⟨20, 0⟩).isSome ∧
      (s.named ⟨41, 0⟩ = none ∧ (s.entry 41).last.map (·.handle) = some ⟨41, 0⟩) ∧
      (yard.named ⟨63, 15⟩ = none ∧ ∀ o ∈ (yard.entry 63).last, o.handle ≠ ⟨63, 15⟩) := by decide +kernel

theorem test_witness_TagAndCountQueries :
    TagsUnique yard ∧ MapInForm merging ∧ (∀ i, ∀ r ∈ yard.live i, r.tag ≠ 0xBEEF) ∧
      (∃ r, yard.live 30 = some r ∧ r.tag = 0xA100) ∧ (∀ e ∈ merging.manifest.map, e.tag ≠ 0xBEEF) ∧
      (⟨0x5F10, .chilled, 1, 1, 1, false⟩ : BinFacts) ∈ merging.manifest.map :=
  ⟨by decide +kernel, by decide +kernel, by decide +kernel, ⟨_, rfl, rfl⟩, by decide +kernel, by decide +kernel⟩

theorem test_witness_StatusReports :
    PortFree yard ∧ 63 < (64 : Byte).toNat ∧ (63 : Byte).toNat = (63 : Slot).val := by decide +kernel

theorem test_witness_SurveyBoxReadAndCleared :
    PortFree yard ∧ yard.survey.box = none ∧
      (yard.setSurvey { yard.survey with box := some ⟨4, 28, []⟩ }).survey.box = some ⟨4, 28, []⟩ := by decide +kernel

theorem test_witness_LineSettingsAreStored :
    63 < (64 : Byte).toNat ∧ 2 < (3 : Byte).toNat ∧ ((63 : Byte).toNat = (63 : Slot).val ∧ (2 : Byte).toNat ≤ 2) ∧
      1 < (2 : Byte).toNat ∧ ((1 : Byte) = 1 ∧ 7 < (8 : Byte).toNat) ∧ (7 : Byte).toNat = (7 : Block).val := by decide

/-- Slot 20 of the yard LOST. -/
def lost : State := yard.setSlot 20 { liveSlot 20 with link := .lost, miss := 4 }

theorem test_witness_ClearLostJudged :
    PortFree lost ∧ 63 < (64 : Byte).toNat ∧ (20 : Byte).toNat = (20 : Slot).val ∧ (lost.slot 20).link = .lost ∧
      (lost.slot 63).link ≠ .lost := by decide +kernel

/-- The link RUNNING between rounds, with a round period. -/
def between (p : LinePhase) : State := { yard with line := { yard.line with run := .running, phase := p, roundPeriod := 20 } }

theorem test_witness_RoundsBegin :
    (PortFree yard ∧ yard.line.run = .stopped) ∧ (between .waiting).line.phase = .waiting ∧
      (between .emptyRound).line.phase = .emptyRound ∧ (exchangeOf (called 20)).isSome ∧ yard.line.phase = .idle := by
  decide +kernel

theorem test_witness_LinkStopsAndGoesOn :
    let stopping := { called 20 with line := { (called 20).line with run := .stopping } }
    PortFree stopping ∧ (called 20).line.run = .running ∧ stopping.line.run = .stopping ∧ yard.line.run ≠ .running ∧
      (exchangeOf (called 20)).isSome ∧
      ((between .waiting).line.run = .running ∧ exchangeOf (between .waiting) = none) ∧
      (∃ x, EndsExchange (called 20) x .answerOverlength) ∧ (∃ x, EndsExchange stopping x (.answerEnd [20, 2] false)) ∧
      (∃ x, EndsExchange stopping x (.leave (status 0 0))) ∧ ∃ x, EndsExchange silent x .replyWindowExpiry :=
  ⟨by decide +kernel, rfl, rfl, nofun, rfl, ⟨rfl, rfl⟩, ⟨_, rfl, .inr ⟨rfl, .inl rfl⟩⟩,
    ⟨_, rfl, .inr ⟨rfl, .inr (.inl ⟨_, _, rfl⟩)⟩⟩, ⟨_, rfl, .inr ⟨rfl, .inr (.inr rfl)⟩⟩, _, rfl, .inl ⟨rfl, rfl⟩⟩

theorem test_witness_AgeTimerStartsAndStops :
    PortFree warm ∧ ready.age.run = .stopped ∧ warm.age.run = .running 0 ∧ 1 ≤ warm.age.period := by decide +kernel

theorem test_witness_RebudgetJudged :
    PortFree yard ∧ 63 < (64 : Byte).toNat ∧ 15 < (16 : Byte).toNat ∧ (20 : Byte).toNat = (20 : RecIdx).val ∧
      (yard.named ⟨20, 0⟩).isSome ∧ yard.named ⟨63, 15⟩ = none := by decide +kernel

theorem test_witness_PageWriteJudged :
    PortFree merging ∧ PagesInForm merging ∧ 15 < (16 : Byte).toNat ∧ 1 < (2 : Byte).toNat ∧ 2 < (3 : Byte).toNat ∧
      (15 : Byte).toNat = (15 : Fin 16).val ∧ (1 : Byte).toNat ≤ 1 ∧ (2 : Byte).toNat ≤ 2 ∧
      (merging.manifest.page .p1).state = .filling := by decide +kernel

theorem test_witness_PageMergeAndMapClear :
    PortFree merging ∧ PagesInForm merging ∧ PagesInForm ready ∧ (merging.manifest.page .p1).state = .filling ∧
      ((0 : Byte).toNat = 0 ∧ 16 < (17 : Byte).toNat ∧ 1 ≤ (1 : Byte).toNat ∧ (16 : Byte).toNat ≤ 16) ∧
      (merging.manifest.page .p0).state = .merging ∧
      ((ready.manifest.page .p0).state = .filling ∧ (ready.manifest.page .p1).state = .empty) := by decide +kernel

/-- The merge of `merging` at its row `n`, of `count` rows; the map full where asked. -/
def atRow (n count : Nat) (full : Bool) : State :=
  let fill := (List.range 256).map fun t => (⟨BitVec.ofNat 32 (t + 1), .ambient, 0, 0, 0, false⟩ : BinFacts)
  { merging with manifest := { merging.manifest with
    merge := some ⟨.p0, count, n, ⟨n, 0, 0, 0, 0⟩⟩, map := if full then fill else merging.manifest.map } }

/-- Each case of a merge step: an insertion, a replacement, a deletion, an absent tag, tag 0, a full map, and the last row. -/
theorem test_witness_MergeStepTakesOneRow :
    (MapInForm (atRow 0 3 false) ∧ PagesInForm (atRow 0 3 false)) ∧ (MapInForm (atRow 0 3 true) ∧ PagesInForm (atRow 0 3 true)) ∧
      ready.manifest.merge = none ∧
      (atRow 0 3 false).manifest.p0.rows.toList[0]? = some ⟨.upsert, 0x6100, .frozen, 600, 900, 41, false⟩ ∧
      (∀ e ∈ (atRow 0 3 false).manifest.map, e.tag ≠ 0x6100) ∧
      (∃ e ∈ (after .mergeStep (atRow 0 3 false)).manifest.map, e.tag = 0x6100) ∧
      (atRow 1 3 false).manifest.p0.rows.toList[1]? = some ⟨.delete, 0x5F00, .ambient, 0, 0, 0, false⟩ ∧
      (∃ e ∈ (atRow 1 3 false).manifest.map, e.tag = 0x5F00) ∧ (∀ e ∈ (atRow 1 3 true).manifest.map, e.tag ≠ 0x5F00) ∧
      (atRow 2 3 false).manifest.p0.rows.toList[2]?.map (·.tag) = some 0 ∧ (atRow 0 3 true).manifest.map.length = 256 ∧
      0 + 1 < 3 ∧ 2 + 1 = 3 := by decide +kernel

theorem test_witness_AssignJudged :
    PortFree yard ∧ 63 < (64 : Byte).toNat ∧ 15 < (16 : Byte).toNat ∧ yard.named ⟨63, 15⟩ = none ∧
      (yard.live 22).map (·.state) = some .lifting ∧ (yard.live 41).map (·.state) = some .reserved ∧
      (yard.live 8).map (·.state) = some .placing ∧ (yard.live 11).map (·.state) = some .stranded ∧
      yard.isLive 63 = false ∧ (yard.live 30).map (fun r => (r.state, r.collector)) = some (.promised, some 41) ∧
      yard.isLive 41 = true ∧ yard.isLive 20 = true ∧ (yard.live 21).map (·.state) = some .parked := by decide +kernel

theorem test_witness_UnassignJudged :
    PortFree yard ∧ (yard.named ⟨22, 0⟩).map (·.state) = some .lifting ∧
      (yard.named ⟨21, 0⟩).map (·.state) = some .parked ∧ (yard.named ⟨30, 1⟩).map (·.state) = some .promised ∧
      yard.named ⟨30, 0⟩ = none := by decide +kernel

theorem test_witness_CancelJudged :
    PortFree yard ∧ (yard.named ⟨8, 0⟩).map (·.state) = some .placing ∧
      (yard.named ⟨30, 1⟩).map (·.state) = some .promised ∧ (yard.named ⟨41, 0⟩).map (·.state) = some .reserved ∧
      yard.named ⟨41, 1⟩ = none := by decide +kernel

theorem test_witness_SurveyAskJudged :
    PortFree yard ∧ 15 < (16 : Byte).toNat ∧ 63 < (64 : Byte).toNat ∧ (yard.col 9).service ≠ .suspect ∧
      yard.isLive 63 = false ∧ ((yard.col 4).service = .suspect ∧ yard.isLive 28 = true ∧ yard.surveyor 4 = some 28) ∧
      (yard.isLive 44 = true ∧ yard.surveyor 4 ≠ some 44) := by decide +kernel

/-- RESTACK's checks: each one's failure, with those before it passed, on columns 13 (free) and 4 (locked). -/
theorem test_witness_RestackRefusals :
    PortFree yard ∧ TagsUnique yard ∧ 15 < (16 : Byte).toNat ∧ (List.replicate 9 (7 : Tag)).length ≤ 9 ∧
      ((yard.col 13).capacity < ([1, 2, 3, 4, 5] : List Tag).length ∧ (0 : Tag) ∈ ([0] : List Tag) ∧
        ¬ ([7, 7] : List Tag).Nodup) ∧
      ((yard.col 9).service ≠ .suspect ∧ (yard.col 9).service ≠ .fault) ∧
      ((yard.col 4).service = .suspect ∧ (yard.lockOf 4).isSome) ∧
      ((yard.col 13).service = .fault ∧ yard.lockOf 13 = none) ∧ (yard.live 30).map (fun r => (r.tag, r.column)) = some (0xA100, 2) ∧
      { yard with handoff := { yard.handoff with freeCount := 0 } }.handoff.freeCount < 1 ∧
      (∀ i, ∀ r ∈ yard.live i, r.tag ≠ 0x9999) := by decide +kernel

theorem test_witness_RestackRewritesTheStack :
    Coherent yard ∧ MapInForm yard ∧ PortFree yard ∧ (13 : Byte).toNat = (13 : Col).val ∧
      ([0x7C50, 0x9999] : List Tag).length ≤ (yard.col 13).capacity ∧ (0 : Tag) ∉ ([0x7C50, 0x9999] : List Tag) ∧
      ([0x7C50, 0x9999] : List Tag).Nodup ∧ (yard.col 13).service = .fault ∧ yard.lockOf 13 = none ∧
      (∀ i, ∀ r ∈ yard.live i, r.tag = 0x7C50 ∨ r.tag = 0x9999 → r.column = 13) ∧ 1 ≤ yard.handoff.freeCount :=
  ⟨test_witness_coherent, by decide +kernel⟩

theorem test_witness_ZoneCommands :
    (PortFree yard ∧ yard.line.run = .stopped ∧ yard.age.run = .stopped) ∧ (PortFree warm ∧ warm.age.run ≠ .stopped) ∧
      (PortFree (called 20) ∧ (called 20).line.run ≠ .stopped) := by decide +kernel

/-- An answer spoiled in each way of R117, and whole ones. -/
theorem test_witness_spoiled :
    let ok := encodeAnswer 20 (status 0 0) none
    ¬ Spoiled 20 ok false ∧ Spoiled 20 ok true ∧ Spoiled 20 (ok ++ [0]) false ∧ Spoiled 21 ok false ∧
      Spoiled 20 ((ok.take 10) ++ [0xFF]) false ∧ Spoiled 20 [20, 2] false := by decide +kernel

/-- The exchange that has begun at a window's expiry, its CALL still in the sending: a start bit there is late. -/
theorem test_witness_MissIsCounted_late :
    let s := after .replyWindowExpiry silent
    ∃ x, exchangeOf s = some x ∧ x.receiving = false ∧ s.line.lastExpiry = some x.startedAt ∧
      (s.now - x.startedAt) * 2 ^ s.line.lineRate < 300 := ⟨_, rfl, rfl, rfl, by decide +kernel⟩

theorem test_witness_MissIsCounted :
    let s := { silent with line := { silent.line with lossThreshold := 5 } }
    (∃ x, exchangeOf s = some x ∧ EndsUnanswered s x .replyWindowExpiry ∧ x.kind = .regular ∧ x.receiving = false) ∧
      (min 15 ((s.slot 20).miss + 1) < s.line.lossThreshold) ∧
      (∃ x, exchangeOf (called 20) = some x ∧ x.receiving = true ∧ EndsUnanswered (called 20) x .answerOverlength ∧
        EndsUnanswered (called 20) x (.answerEnd [20, 2] false)) ∧
      (∃ x, EndsUnanswered (calling 50 .probe yard) x .answerOverlength ∧ x.kind = .probe) ∧ exchangeOf yard = none :=
  ⟨⟨_, rfl, ⟨rfl, .inl ⟨rfl, rfl⟩⟩, rfl, rfl⟩, by decide +kernel,
    ⟨_, rfl, rfl, ⟨rfl, .inr (.inl ⟨rfl, rfl⟩)⟩, ⟨rfl, .inr (.inr ⟨_, _, rfl, rfl, by decide⟩)⟩⟩,
    ⟨_, ⟨rfl, .inr (.inl ⟨rfl, rfl⟩)⟩, rfl⟩, rfl⟩

/-- Slot `k` of the yard called, with three misses. -/
def missing (k : Slot) : State := calling k .regular (yard.setSlot k { liveSlot k with miss := 3 })

theorem coherent_missing : Coherent (yard.setSlot 12 { liveSlot 12 with miss := 3 }) where
  tags := test_witness_coherent.tags
  count := test_witness_coherent.count
  order := test_witness_coherent.order
  slots := by decide +kernel
  calls := by decide +kernel
  positions := test_witness_coherent.positions
  fields := test_witness_coherent.fields
  stacked := test_witness_coherent.stacked
  work := test_witness_coherent.work
  locks := test_witness_coherent.locks
  strandings := test_witness_coherent.strandings
  waiters := test_witness_coherent.waiters
  live := by decide +kernel
  surveyors := test_witness_coherent.surveyors
  reservations := test_witness_coherent.reservations
  loads := test_witness_coherent.loads
  buried := test_witness_coherent.buried

theorem test_witness_MissAtThresholdLoses :
    Coherent (missing 12) ∧ (∃ x, EndsUnanswered (missing 12) x .answerOverlength ∧ x.kind = .regular ∧ x.slot = 12) ∧
      (missing 12).line.lossThreshold ≤ min 15 (((missing 12).slot 12).miss + 1) ∧
      (∃ l ∈ (missing 12).lockOf 2, l.holder = 12 ∧ l.hold ≠ .survey) ∧
      (yard.live 41).map (fun r => (r.state, r.releaser)) = some (.reserved, some 3) ∧
      (yard.live 30).map (fun r => (r.state, r.collector)) = some (.promised, some 41) ∧
      (yard.live 8).map (fun r => (r.state, r.releaser)) = some (.placing, some 12) ∧
      (yard.live 22).map (fun r => (r.state, r.collector)) = some (.lifting, some 26) :=
  ⟨coherent_calling coherent_missing (by decide +kernel), ⟨_, ⟨rfl, .inr (.inl ⟨rfl, rfl⟩)⟩, rfl, rfl⟩, by decide +kernel⟩

theorem test_witness_AnswerCarriesItsRequest :
    Hears (called 20) 20 .regular ∧ Hears (calling 50 .probe yard) 50 .probe ∧
      requestOf (.survey (status 0 0) 255 (List.replicate 6 7)) = some (status 0 0, .survey 255 (List.replicate 6 7)) ∧
      (Request.survey 255 (List.replicate 6 7)).wellFormed = true :=
  ⟨hears_calling _ _ _, hears_calling _ _ _, rfl, rfl⟩

theorem test_witness_EmptyRoundEnds :
    yard.line.phase ≠ .emptyRound ∧ (between .emptyRound).line.phase = .emptyRound ∧
      ((between .emptyRound).line.roundPeriod ≠ 0 ∧ (between .emptyRound).line.dueAt = none) ∧
      ({ yard.line with phase := .emptyRound, dueAt := some 7 } : Line).dueAt.isSome ∧ yard.line.roundPeriod = 0 := by
  decide +kernel

theorem test_witness_LeaseExpiryAndFaultEndLocks :
    Coherent yard ∧ yard.lockOf 9 = none ∧ yard.lockOf 4 = some ⟨28, .survey, 200, 0⟩ ∧
      yard.lockOf 2 = some ⟨12, .work .place ⟨8, 0⟩, 60, 0⟩ ∧ Coherent (called 12) ∧ Hears (called 12) 12 .regular ∧
      ((2 : Byte) ≠ 0 ∧ (2 : Byte) ≠ 1) ∧ (∀ d, ∀ l ∈ (called 41).lockOf d, l.holder ≠ 41) ∧
      (Coherent (called 41) ∧ Hears (called 41) 41 .regular) ∧ (∃ l, (called 12).lockOf 2 = some l ∧ l.holder = 12) ∧
      requestOf (.claim (status 2 0) 1) = some (status 2 0, .claim 1) ∧ (Request.claim 1).wellFormed = true :=
  ⟨test_witness_coherent, by decide +kernel, by decide +kernel, by decide +kernel,
    coherent_calling test_witness_coherent (by decide +kernel), hears_calling _ _ _, by decide, by decide +kernel,
    ⟨coherent_calling test_witness_coherent (by decide +kernel), hears_calling _ _ _⟩, ⟨_, rfl, rfl⟩, rfl, rfl⟩

/-- The first event of chapter 5's sequence, with one reading alone, and with none. -/
theorem test_witness_AgeEvent :
    warm.age.run = .running 0 ∧ readingsNow warm = [18, 21, 34] ∧ warm.age.mode = .guarded ∧
      readingsNow ready = [] ∧ readingsNow (ready.setSlot 20 { liveSlot 20 with temp := 21 }) = [21] ∧
      (∀ b ∈ readingsNow warm, b ≤ 34) ∧ 21 ∈ (readingsNow warm).erase 34 := by decide +kernel

theorem test_witness_JoinJudged :
    Hears (calling 50 .probe yard) 50 .probe ∧ (0 : RobotId) = 0 ∧
      (∃ j, (yard.slot j).link = .live ∧ (yard.slot j).robotId = some 112) ∧
      (∀ j, (yard.slot j).link = .live → (yard.slot j).robotId ≠ some 999) ∧
      requestOf (.leave (status 0 0)) = some (status 0 0, .leave) ∧ Hears (called 12) 12 .regular ∧
      ((status 1 0).cond = 0 ∨ (status 1 0).cond = 1) :=
  ⟨hears_calling _ _ _, rfl, by decide +kernel, by decide +kernel, rfl, hears_calling _ _ _, .inr rfl⟩

theorem test_witness_LeaveJudged :
    Reports (called 12) 12 (status 0 0) ∧ Reports (called 3) 3 (status 0 0) ∧ Reports (called 33) 33 (status 0 0) ∧
      (∃ l ∈ yard.lockOf 2, l.holder = 12) ∧
      (yard.live 41).map (fun r => (r.state, r.releaser)) = some (.reserved, some 3) ∧
      (∀ c, ∀ l ∈ yard.lockOf c, l.holder ≠ 33) ∧
      (∀ i, ∀ r ∈ yard.live i, r.state = .reserved ∨ r.state = .placing → r.releaser ≠ some 33) :=
  ⟨reports_called (by decide +kernel), reports_called (by decide +kernel), reports_called (by decide +kernel),
    by decide +kernel⟩

theorem test_witness_ParkReservesBestPlace :
    let s := chapter3 .chilled
    Reports s 12 (status 0 0x5100) ∧ notWaiting s 12 ∧ FreeCounted s ∧ (0x5100 : Tag) ≠ 0 ∧
      (∀ j, ∀ r ∈ s.live j, r.tag ≠ 0x5100) ∧ (∀ j, ∀ r ∈ s.live j, r.reservedBy 12 = false) ∧ s.live 0 = none ∧
      s.manifest.find 0x5100 = some ⟨0x5100, .chilled, 700, 900, 7, false⟩ ∧ s.manifest.find 0xBEEF = none ∧
      Chosen s 10 4 ⟨0x5100, .chilled, 700, 900, 7, false⟩ 9 :=
  ⟨⟨⟨_, rfl, rfl, rfl, rfl⟩, by decide +kernel, .inl rfl⟩, by decide +kernel⟩

theorem test_witness_ParkRefusals :
    Reports (called 3) 3 (status 0 0) ∧ notWaiting (called 3) 3 ∧ TagsUnique (called 3) ∧ OneReservation (called 3) ∧
      FreeCounted (called 3) ∧
      ((yard.live 41).map fun r => (r.tag, r.state, r.releaser)) = some (0x5100, .reserved, some 3) ∧
      ((yard.live 20).map (·.tag) = some 0x5A01) ∧ (∀ i, ∀ r ∈ yard.live i, r.tag ≠ 0xBEEF) ∧
      (∀ i, ∀ r ∈ yard.live i, r.reservedBy 33 = false) ∧ yard.handoff.freeCount ≠ 0 ∧
      (∀ c, zone.eligible .chilled c = false) ∧ FreeCounted zone :=
  ⟨reports_called (by decide +kernel), by decide +kernel⟩

/-- The zone with all 64 indices live, for FULL. -/
theorem test_witness_full :
    let s := { zone with handoff := ⟨Vector.replicate 64 ⟨0, some (bin .parked 1 0), none⟩, 0, []⟩ }
    FreeCounted s ∧ s.handoff.freeCount = 0 := by decide +kernel

/-- A waiter, a holder, and slots that are neither: SURVEY with and without the designation; each check of a work lock. -/
theorem test_witness_LockJudged :
    OnePosition yard ∧ (yard.waitsOf 2)[0]? = some ⟨41, .lift, ⟨30, 1⟩⟩ ∧ (∃ l ∈ yard.lockOf 2, l.holder = 12) ∧
      Reports (called 41) 41 (status 0 0) ∧ Reports (called 3) 3 (status 0 0) ∧
      (3 ∉ positions yard ∧ 33 ∉ positions yard ∧ 17 ∉ positions yard) ∧ 15 < (16 : Byte).toNat ∧
      ((yard.col 9).service ≠ .suspect ∧ yard.surveyor 4 ≠ some 3) ∧
      ((yard.setLockOf 4 none).surveyor 4 = some 28 ∧ 28 ∉ positions (yard.setLockOf 4 none)) ∧
      (¬ inService yard 4 ∧ inService yard 5 ∧ yard.named ⟨63, 0⟩ = none) ∧
      ((yard.named ⟨41, 0⟩).map fun r => (r.state, r.releaser, r.column)) = some (.reserved, some 3, 5) ∧
      yard.lockOf 5 = none ∧
      ((yard.named ⟨20, 0⟩).map fun r => (r.state, r.collector, yard.depth r)) = some (.promised, some 17, some 2) :=
  ⟨by decide +kernel, by decide +kernel, by decide +kernel, reports_called (by decide +kernel),
    reports_called (by decide +kernel), by decide +kernel⟩

/-- Column 5 locked by slot 20, with no waiter and with four: slot 3's LOCK is queued, and is QUEUE_FULL. -/
theorem test_witness_lock_queue :
    let s := yard.setLockOf 5 (some ⟨20, .survey, 60, 0⟩)
    let f := s.setWaitsOf 5 (List.replicate 4 ⟨33, .lift, ⟨7, 0⟩⟩)
    ((s.lockOf 5).isSome ∧ (s.waitsOf 5).length < 4 ∧ 3 ∉ positions s) ∧ (f.lockOf 5).isSome ∧ 4 ≤ (f.waitsOf 5).length := by
  decide +kernel

theorem test_witness_SetDownJudged :
    Coherent (called 12) ∧ Reports (called 12) 12 (status 0 0xB200) ∧ notWaiting yard 12 ∧ yard.named ⟨8, 1⟩ = none ∧
      ((yard.named ⟨8, 0⟩).map fun r => (r.state, r.tag, r.column)) = some (.placing, 0xB200, 2) ∧
      yard.lockOf 2 = some ⟨12, .work .place ⟨8, 0⟩, 60, 0⟩ ∧
      ((yard.named ⟨11, 1⟩).map fun r => (r.state, r.strandedFrom, r.releaser)) =
        some (.stranded, some .placing, some 5) ∧ Coherent (called 5) ∧ (yard.named ⟨21, 0⟩).isSome :=
  ⟨coherent_calling test_witness_coherent (by decide +kernel), reports_called (by decide +kernel), by decide +kernel,
    by decide +kernel, by decide +kernel, by decide +kernel, by decide +kernel,
    coherent_calling test_witness_coherent (by decide +kernel), by decide +kernel⟩

theorem test_witness_PickUpJudged :
    Coherent (called 26) ∧ MapInForm (called 26) ∧ Reports (called 26) 26 (status 0 0x5A03) ∧ notWaiting yard 26 ∧
      yard.lockOf 12 = some ⟨26, .work .lift ⟨22, 0⟩, 60, 0⟩ ∧
      ((yard.named ⟨22, 0⟩).map fun r => (r.tag, r.column)) = some (0x5A03, 12) ∧ (0x5A03 : Tag) ≠ 0 ∧
      (0xC300 : Tag) ≠ 0x5A03 ∧
      ((yard.named ⟨40, 0⟩).map fun r => (r.state, r.strandedFrom, r.collector)) =
        some (.stranded, some .lifting, some 44) ∧ Coherent (called 44) :=
  ⟨coherent_calling test_witness_coherent (by decide +kernel), by decide +kernel, reports_called (by decide +kernel),
    by decide +kernel, by decide +kernel, by decide +kernel, by decide, by decide, by decide +kernel,
    coherent_calling test_witness_coherent (by decide +kernel)⟩

theorem test_witness_ClaimJudged :
    Reports (called 33) 33 (status 0 0) ∧ notWaiting yard 33 ∧ TagsUnique yard ∧ FieldsFit yard ∧
      (∀ i, ∀ r ∈ yard.live i, r.tag ≠ 0xBEEF) ∧
      ((yard.live 20).map fun r => (r.tag, r.state, r.collector)) = some (0x5A01, .promised, some 17) ∧
      ((yard.live 22).map fun r => (r.tag, r.state)) = some (0x5A03, .lifting) ∧
      ((yard.live 21).map fun r => (r.tag, r.state, r.level)) = some (0x5A02, .parked, some 1) ∧
      ((yard.live 7).map fun r => (r.tag, r.collector, r.level)) = some (0x7A00, some 33, some 0) :=
  ⟨reports_called (by decide +kernel), by decide +kernel, test_witness_coherent.tags, test_witness_coherent.fields,
    by decide +kernel⟩

theorem test_witness_YieldJudged :
    Coherent (called 12) ∧ Reports (called 12) 12 (status 0 0) ∧
      yard.lockOf 2 = some ⟨12, .work .place ⟨8, 0⟩, 60, 0⟩ ∧ (yard.named ⟨8, 0⟩).map (·.column) = some 2 ∧
      (⟨41, .lift, ⟨30, 1⟩⟩ : WaitEntry) ∈ yard.waitsOf 2 ∧ (33 ∉ positions yard ∧ 3 ∉ positions yard ∧ 17 ∉ positions yard) ∧
      ((yard.named ⟨7, 0⟩).map fun r => (r.state, r.collector)) = some (.promised, some 33) ∧
      ((yard.named ⟨41, 0⟩).map fun r => (r.state, r.releaser)) = some (.reserved, some 3) ∧
      (yard.named ⟨21, 0⟩).map (·.state) = some .parked ∧
      ((yard.named ⟨11, 1⟩).map fun r => (r.state, r.releaser)) = some (.stranded, some 5) ∧
      yard.lockOf 4 = some ⟨28, .survey, 200, 0⟩ ∧ (∀ c, ∀ l ∈ yard.lockOf c, l.holder = 12 → l.hold ≠ .survey) :=
  ⟨coherent_calling test_witness_coherent (by decide +kernel), reports_called (by decide +kernel), by decide +kernel⟩

/-- Slot 28's survey of column 4: the two lists that match a placement and one that does not, the box empty and full, and
column 4 with a lift stranded instead, its robot LIVE and not. -/
theorem test_witness_SurveyJudged :
    Coherent (called 28) ∧ MapInForm (called 28) ∧ Reports (called 28) 28 (status 0 0) ∧ notWaiting yard 28 ∧
      (yard.surveyor 4 = some 28 ∧ ∃ l ∈ yard.lockOf 4, l.holder = 28 ∧ l.hold = .survey) ∧ yard.surveyor 9 ≠ some 28 ∧
      (yard.stackTags 4).reverse = [0x7A00] ∧ ((yard.named ⟨11, 1⟩).map (·.tag)) = some 0x7B11 ∧
      (yard.isLive 5 = true ∧ (yard.slot 5).robotId = (yard.col 4).strandingId ∧
        ∀ i, ∀ q ∈ yard.live i, q.reservedBy 5 = false) ∧ yard.survey.box = none ∧
      (yard.setSurvey { yard.survey with box := some ⟨9, 3, []⟩ }).survey.box.isSome :=
  ⟨coherent_calling test_witness_coherent (by decide +kernel), by decide +kernel, reports_called (by decide +kernel),
    by decide +kernel⟩

/-- The yard's column 13 SUSPECT, surveyed by slot 20: a stranded lift whose robot is LIVE. -/
def surveyed : State :=
  ((yard.setCol 13 { yard.col 13 with service := .suspect }).setLockOf 13 (some ⟨20, .survey, 200, 0⟩)).setSurveyor 13
    (some 20)

theorem coherent_surveyed : Coherent surveyed where
  tags := test_witness_coherent.tags
  count := test_witness_coherent.count
  order := test_witness_coherent.order
  slots := test_witness_coherent.slots
  calls := test_witness_coherent.calls
  positions := by decide +kernel
  fields := test_witness_coherent.fields
  stacked := by decide +kernel
  work := by decide +kernel
  locks := by decide +kernel
  strandings := by decide +kernel
  waiters := by decide +kernel
  live := by decide +kernel
  surveyors := by decide +kernel
  reservations := test_witness_coherent.reservations
  loads := by decide +kernel
  buried := by decide +kernel

/-- The survey of a stranded lift: found in its place, and found gone. -/
theorem test_witness_SurveyJudged_lift :
    Coherent (calling 20 .regular surveyed) ∧ (surveyed.stackTags 13).reverse = [0x7C50] ∧
      ((surveyed.named ⟨40, 0⟩).map fun r => (r.strandedFrom, r.collector)) = some (some .lifting, some 44) ∧
      (surveyed.slot 44).robotId = (surveyed.col 13).strandingId ∧
      ((after (.survey (status 0 0) 13 []) (calling 20 .regular surveyed)).slot 20).verdict = some .matched :=
  ⟨coherent_calling coherent_surveyed (by decide +kernel), by decide +kernel⟩

theorem test_witness_QuietAndWaitingSlots :
    let s := calling 17 .regular (yard.setSlot 17 { liveSlot 17 with mode := .quiet })
    Hears s 17 .regular ∧ ((status 0 0).cond = 0 ∨ (status 0 0).cond = 1) ∧ (s.slot 17).mode = .quiet ∧
      requestOf (.claim (status 0 0) 1) = some (status 0 0, .claim 1) ∧ (Request.claim 1).wellFormed = true ∧
      ((called 41).slot 41).mode ≠ .quiet ∧ (∃ c, ∃ e ∈ (called 41).waitsOf c, e.slot = 41) ∧
      (List.replicate 6 (1 : Tag)).length ≤ 6 ∧ 6 < (List.replicate 7 (1 : Tag)).length :=
  ⟨⟨_, rfl, rfl, rfl, rfl⟩, .inl rfl, by decide +kernel⟩

/-- A FAULT that ends nothing, on a slot without a position; an answer whose request cannot be read, received whole. -/
theorem test_witness_QuietAndWaitingSlots_answers :
    let body : List Byte := [3, 12, 30, 2, 21, 2, 0, 0, 0, 0, 0x0A]
    let bytes := body ++ [crc8 body]
    Hears (called 3) 3 .regular ∧ Sound (called 3) 3 (status 2 0) ∧ ¬ Spoiled 3 bytes false ∧ Unreadable bytes ∧
      statusIn bytes = status 2 0 ∧ Hears (calling 3 .probe yard) 3 .probe := by
  refine ⟨hears_calling _ _ _, .inr (.inr (by decide +kernel)), by decide +kernel, ?_, by decide +kernel,
    hears_calling _ _ _⟩
  unfold Unreadable
  decide +kernel

/-- A holder, a waiter, an expired mark without a position and no mark; a lease and a period at the ends of a 100 ms; a tag
with and without an entry; a column that is eligible and one that is not. -/
theorem test_witness_DerivedFiguresAreSpelledOut :
    let s := yard.setMark 3 (some 2)
    OnePosition s ∧ (∃ l ∈ s.lockOf 2, l.holder = 12) ∧ (s.waitsOf 2)[0]? = some ⟨41, .lift, ⟨30, 1⟩⟩ ∧
      (3 ∉ positions s ∧ 33 ∉ positions s) ∧
      (s.standing 3, s.standing 33, s.standing 41) = (.expired 2, .none, .waiting 2 1) ∧
      ((0 + 100000 * 59 ≤ 5999999 ∧ 5999999 < 0 + 100000 * 60 ∧ 59 < 60) ∧ 0 + 100000 * 60 ≤ 6000000) ∧
      [5999999, 6000000].map (⟨12, .survey, 60, 0⟩ : Lock).remaining = [1, 1] ∧
      warm.age.run = .running 0 ∧ [399999, 400000].map warm.age.remaining = [some 2, some 1] ∧
      (merging.manifest.find 0x5F10).isSome ∧ merging.manifest.find 0xBEEF = none ∧
      (s.eligible .frozen 9 ∧ ¬ s.eligible .frozen 13) ∧ (s.live 20).bind (·.level) = some 0 := by decide +kernel

/-- Columns with a reference deadline and without one. -/
theorem test_witness_ScoresFollowTheTerms :
    let s := chapter3 .chilled
    s.placement.wd ≤ 15 ∧ s.placement.wh ≤ 15 ∧ s.placement.wb ≤ 15 ∧ s.placement.wc ≤ 255 ∧ (s.col 9).x ≤ 127 ∧
      (s.col 9).capacity ≤ 6 ∧ s.eligible .chilled 9 ∧ s.top 9 = some ⟨6, 0⟩ ∧ s.top 5 = none ∧
      (∀ i, ∀ r ∈ s.live i, ¬ (r.state = .reserved ∨ r.state = .placing)) := by decide +kernel

/-- The laws that stand beside those of the relay table: the yard meets them too (`test_witness_coherent` has the rest). -/
theorem test_witness_laws :
    AttnFollowsNotices yard ∧ MapInForm yard ∧ PagesInForm yard ∧ BudgetsBounded yard ∧ ClockBounded yard ∧
      SlotRanges yard := by decide +kernel

/-- A step of the yard with a command at the front. -/
theorem test_witness_laws_step : ∃ t, step (yard.setPending [.linkStart]) = .next t := ⟨_, rfl⟩

end Sys2Proof.Tests
end

section
/-! The host commands of the column table (chapter 1), and the state after reset. -/

namespace Sys2Proof.Machine

open Sys2Proof Sys2Proof.Safety

/-! ### COLUMN_DEFINE (R4) -/

section
variable {s : State} {c : Col} {col x y k set state : Byte}

/-- R4's reasons for RANGE. -/
abbrev defineOutOfRange (col x y k set : Byte) : Prop :=
  15 < col.toNat ∨ 127 < x.toNat ∨ 127 < y.toNat ∨ k.toNat = 0 ∨ 6 < k.toNat ∨ set.toNat = 0 ∨ 8 ≤ set.toNat

/-- The definition that COLUMN_DEFINE writes over a column (R4). -/
def Column.defined (x y k set : Byte) (r : Column) : Column :=
  { r with
    x := x.toNat, y := y.toNat, capacity := k.toNat
    allowed := ⟨set.getLsbD 0, set.getLsbD 1, set.getLsbD 2⟩
    service := .out, prior := .opened }

theorem ownColumnDefine_range (h : defineOutOfRange col x y k set) :
    ownColumnDefine col x y k set s = answer .range s := by
  unfold ownColumnDefine
  split
  · next c a hc ha =>
    have hcol := readCol_some hc
    have hset : ¬ (set.toNat = 0 ∨ 8 ≤ set.toNat) := fun hs => by rw [readClassSet_none hs] at ha; cases ha
    rw [if_pos (by omega)]
  · rfl

/-- With its operands in range, COLUMN_DEFINE goes by the service state of the column. -/
theorem ownColumnDefine_inRange (h : ¬ defineOutOfRange col x y k set) (hc : col.toNat = c.val) :
    ((s.col c).service ∈ [Service.opened, .draining, .suspect, .fault] →
        ownColumnDefine col x y k set s = answer .wrongState s) ∧
      ((s.col c).service ∈ [Service.undefined, .out] →
        ownColumnDefine col x y k set s = answer .ok (s.setCol c ((s.col c).defined x y k set))) := by
  obtain ⟨-, hx, hy, hk, hk', hs, hs'⟩ :
      ¬ 15 < col.toNat ∧ ¬ 127 < x.toNat ∧ ¬ 127 < y.toNat ∧ k.toNat ≠ 0 ∧ ¬ 6 < k.toNat ∧ set.toNat ≠ 0 ∧
        set.toNat < 8 := by omega
  have hop : ¬ (127 < x.toNat ∨ 127 < y.toNat ∨ k.toNat = 0 ∨ 6 < k.toNat) := by omega
  unfold ownColumnDefine
  rw [readCol_eq hc, readClassSet_eq hs hs']
  dsimp only
  rw [if_neg hop]
  cases (s.col c).service <;> simp [Column.defined]

/-- Settles O8: a free port hands the frame to the owner, which checks the operands and then the service state. -/
theorem columnDefineJudged : Obligations.ColumnDefineJudged := by
  intro s col x y k set hp bad
  refine ⟨fun h => ?_, fun h c hc => ⟨fun hs => ?_, fun hs => ?_⟩⟩
  · exact next_taken hp (by decide) (ownColumnDefine_blind col x y k set) (ownColumnDefine_range h)
  · exact next_taken hp (by decide) (ownColumnDefine_blind col x y k set) ((ownColumnDefine_inRange h hc).1 hs)
  · exact next_taken hp (by decide) (ownColumnDefine_blind col x y k set) ((ownColumnDefine_inRange h hc).2 hs)

/-! ### COLUMN_SERVICE (R7) -/

/-- R7's reasons for RANGE. -/
abbrev serviceOutOfRange (col state : Byte) : Prop := 15 < col.toNat ∨ (state ≠ 1 ∧ state ≠ 2 ∧ state ≠ 5)

/-- The service state that an operand of COLUMN_SERVICE asks for. -/
abbrev askedService (state : Byte) : Service := if state = 1 then .opened else if state = 2 then .draining else .out

theorem ownColumnService_range (h : serviceOutOfRange col state) :
    ownColumnService col state s = answer .range s := by
  unfold ownColumnService
  rcases h with h | h
  · rw [readCol_none h]
  · rw [readAskedService_none h]
    cases readCol col <;> rfl

/-- R7: the order of checks of COLUMN_SERVICE behind its ranges. -/
def serviceJudged (c : Col) (asked : Service) (s : State) : State × Response :=
  if (s.col c).service ∈ [Service.undefined, .suspect, .fault] then answer .wrongState s
  else if asked = (s.col c).service then answer .ok s
  else if asked = .out ∧ (0 < s.load c ∨ (s.lockOf c).isSome) then answer .busy s
  else answer .ok (s.setCol c { s.col c with service := asked })

theorem ownColumnService_inRange (h : ¬ serviceOutOfRange col state) (hc : col.toNat = c.val) :
    ownColumnService col state s = serviceJudged c (askedService state) s := by
  have hs : state = 1 ∨ state = 2 ∨ state = 5 := by tauto
  have ha : readAskedService state = some (askedService state) := readAskedService_eq hs
  unfold ownColumnService
  rw [readCol_eq hc, ha]
  generalize askedService state = asked
  dsimp only
  split <;> rename_i hv <;> simp [serviceJudged, hv]

/-- Settles O9: a free port hands the frame to the owner, which checks in R7's order. -/
theorem columnServiceJudged : Obligations.ColumnServiceJudged := by
  intro s col state hp bad asked
  have taken : ∀ {u r}, ownColumnService col state s = (u, r) →
      exec (.columnService col state) s = .next (commandTaken s u 2 r) :=
    next_taken hp (by decide) (ownColumnService_blind col state)
  refine ⟨fun h => taken (ownColumnService_range h), fun h c hc => ?_⟩
  have own := ownColumnService_inRange (s := s) h hc
  refine ⟨fun hs => taken ?_, fun hs => ?_⟩
  · rw [own, serviceJudged, if_pos hs]; rfl
  have hin : (s.col c).service ∉ [Service.undefined, .suspect, .fault] := by
    revert hs; generalize (s.col c).service = v; revert v; decide
  rw [serviceJudged, if_neg hin] at own
  refine ⟨fun ha => taken ?_, fun ha ho hb => taken ?_, fun ha hb => taken ?_⟩
  · rw [own, if_pos ha]; rfl
  · rw [own, if_neg ha, if_pos ⟨ho, hb⟩]; rfl
  · rw [own, if_neg ha, if_neg hb]; rfl

/-! ### READ_COLUMN (R18, R170) -/

@[simp] theorem optHandleBytes_length (o : Option Handle) : (optHandleBytes o).length = 2 := by cases o <;> rfl
@[simp] theorem waitEntryBytes_length (o : Option WaitEntry) : (waitEntryBytes o).length = 3 := by cases o <;> rfl

/-- Fields of one width, one after the other: the field at each place. -/
theorem flatMap_range_slice {f : Nat → List Byte} {w : Nat} (hf : ∀ n, (f n).length = w) {m n : Nat} (hn : n < m) :
    (((List.range m).flatMap f).drop (w * n)).take w = f n := by
  induction m generalizing n f with
  | zero => omega
  | succ m ih =>
    rw [List.range_succ_eq_map, List.flatMap_cons, List.flatMap_map]
    cases n with
    | zero => simp [hf 0]
    | succ n =>
      have hdrop : w * (n + 1) = (f 0).length + w * n := by rw [hf]; ring
      rw [hdrop, List.drop_length_add_append]
      exact ih (f := fun i => f (i + 1)) (fun i => hf (i + 1)) (Nat.lt_of_succ_lt_succ hn)

theorem flatMap_range_length {f : Nat → List Byte} {w : Nat} (hf : ∀ n, (f n).length = w) (m : Nat) :
    ((List.range m).flatMap f).length = w * m := by
  simp [List.length_flatMap, hf, mul_comm]

/-- What stands behind a field of known width. -/
theorem drop_field {a b : List Byte} {m : Nat} (ha : a.length = m) (n : Nat) : (a ++ b).drop (m + n) = b.drop n := by
  rw [← ha, List.drop_length_add_append]

/-- A slice that ends within a field. -/
theorem slice_field {a b : List Byte} {m n : Nat} (h : m + n ≤ a.length) :
    ((a ++ b).drop m).take n = (a.drop m).take n := by
  rw [List.drop_append_of_le_length (by omega), List.take_append_of_le_length (by simp; omega)]

/-- The bytes that name the holder of a lock, its record and its lease remaining. -/
def lockBytes (now : Nat) : Option Lock → List Byte
  | some l => [BitVec.ofNat 8 (l.holder.val + 64 * l.hold.code)] ++ optHandleBytes l.hold.handle ++
      [BitVec.ofNat 8 (l.remaining now)]
  | none => [0xFF, 0xFF, 0xFF, 0x00]

@[simp] theorem lockBytes_length (now : Nat) (o : Option Lock) : (lockBytes now o).length = 4 := by
  cases o <;> simp [lockBytes]

/-- The first seven bytes: number, place, capacity, classes, service states and height of a column. -/
def columnHead (s : State) (c : Col) : List Byte :=
  u8 c.val ++ u8 (s.col c).x ++ u8 (s.col c).y ++ u8 (s.col c).capacity ++ u8 (s.col c).allowed.code
    ++ u8 ((s.col c).service.code + 16 * (s.col c).prior.toService.code) ++ u8 (s.col c).stack.length

/-- READ_COLUMN's bytes as a chain of fields. -/
theorem columnBytes_eq (s : State) (c : Col) : columnBytes s c = columnHead s c ++
    ((List.range 6).flatMap (fun n => optHandleBytes (s.col c).stack[n]?) ++
    (u8 (16 * s.reservations c + s.load c) ++ (optHandleBytes (s.col c).stranded ++
    (optByte ((s.strandedFrom c).map StrandedFrom.code) ++ (lockBytes s.now (s.lockOf c) ++
    (u8 (s.waitsOf c).length ++ ((List.range 4).flatMap (fun n => waitEntryBytes (s.waitsOf c)[n]?) ++
    optByte ((s.surveyor c).map (·.val))))))))) := by
  unfold columnBytes columnHead lockBytes
  cases s.lockOf c <;> simp [slotPurpose, u8, optHandleBytes]

/-- Settles O10: the answer is the chain of fields, and each place falls in one of them. -/
theorem readColumnLayout : Obligations.ReadColumnLayout := by
  intro s col hp
  have taken : ∀ {u r}, ownReadColumn col s = (u, r) → exec (.readColumn col) s = .next (commandTaken s u 1 r) :=
    next_taken hp (by decide) (ownReadColumn_blind col)
  refine ⟨fun h => taken ?_, fun c hc => ⟨columnBytes s c, taken ?_, ?_⟩⟩
  · rw [ownReadColumn, readCol_none h]; rfl
  · rw [ownReadColumn, readCol_eq hc]
  rw [columnBytes_eq]
  have hhead : (columnHead s c).length = 7 := rfl
  have hstack := flatMap_range_length (f := fun n => optHandleBytes (s.col c).stack[n]?) (fun _ => optHandleBytes_length _) 6
  have hwaits := flatMap_range_length (f := fun n => waitEntryBytes (s.waitsOf c)[n]?) (fun _ => waitEntryBytes_length _) 4
  have hlock : (lockBytes s.now (s.lockOf c)).length = 4 := lockBytes_length ..
  have hbyte : ∀ n, (u8 n).length = 1 := fun _ => rfl
  have hopt : ∀ o, (optByte o).length = 1 := fun _ => rfl
  have hword : ∀ o, (optHandleBytes o).length = 2 := optHandleBytes_length
  refine ⟨?_, ?_, fun n hn => ?_, ?_, ?_, ?_, ?_, ?_, fun n hn => ?_, ?_⟩
  · simp [hhead, hstack, hwaits, u8, optByte]
  · rw [List.take_append_of_le_length (by rw [hhead]), List.take_of_length_le (by rw [hhead])]
    cases h : (s.col c).prior <;> simp [columnHead, u8, ClassSet.code, h, Prior.toService, Service.code]
  · rw [drop_field hhead, slice_field (by rw [hstack]; omega), flatMap_range_slice (fun _ => hword _) hn]
    cases (s.col c).stack[n]? <;> rfl
  · rw [← List.getElem?_drop (i := 7 + (12 + 0)) (j := 0), drop_field hhead, drop_field hstack]; rfl
  · rw [show 20 = 7 + (12 + (1 + 0)) from rfl, drop_field hhead, drop_field hstack, drop_field (hbyte _), slice_field (by simp)]
    cases (s.col c).stranded <;> rfl
  · rw [show 22 = 7 + (12 + (1 + (2 + 0))) from rfl, drop_field hhead, drop_field hstack, drop_field (hbyte _),
      drop_field (hword _), slice_field (by simp [optByte, u8])]
    unfold State.strandedFrom
    rcases (((s.col c).stranded.bind s.named).bind (·.strandedFrom)) with _ | _ | _ <;> rfl
  · rw [show 23 = 7 + (12 + (1 + (2 + (1 + 0)))) from rfl, drop_field hhead, drop_field hstack, drop_field (hbyte _),
      drop_field (hword _), drop_field (hopt _), slice_field (by simp)]
    cases s.lockOf c with
    | none => rfl
    | some l => obtain ⟨k, w | w, _, _⟩ := l <;> rfl
  · rw [← List.getElem?_drop (i := 7 + (12 + (1 + (2 + (1 + (4 + 0)))))) (j := 0), drop_field hhead, drop_field hstack,
      drop_field (hbyte _), drop_field (hword _), drop_field (hopt _), drop_field hlock]
    rfl
  · rw [show 28 + 3 * n = 7 + (12 + (1 + (2 + (1 + (4 + (1 + 3 * n)))))) by omega, drop_field hhead, drop_field hstack,
      drop_field (hbyte _), drop_field (hword _), drop_field (hopt _), drop_field hlock, drop_field (hbyte _),
      slice_field (by rw [hwaits]; omega), flatMap_range_slice (fun _ => waitEntryBytes_length _) hn]
    cases (s.waitsOf c)[n]? with
    | none => rfl
    | some e => obtain ⟨k, w, h⟩ := e; cases w <;> rfl
  · rw [← List.getElem?_drop (i := 7 + (12 + (1 + (2 + (1 + (4 + (1 + (12 + 0)))))))) (j := 0), drop_field hhead,
      drop_field hstack, drop_field (hbyte _), drop_field (hword _), drop_field (hopt _), drop_field hlock, drop_field (hbyte _),
      drop_field hwaits]
    rfl
end

/-! ### Reset -/

/-- RESET leaves the power-on state, apart from the clock and the queue, which are none of the part's. -/
theorem exec_reset (s : State) : exec .reset s = .next { State.reset with now := s.now, pending := s.pending } := rfl

/-- Settles O3: the rows of the power-on tables are those of their replicated entries. -/
theorem resetRestoresPowerOnValues : Obligations.ResetRestoresPowerOnValues := by
  intro s
  refine ⟨_, exec_reset s, rfl, ⟨rfl, fun i => ?_⟩, fun c => ?_, fun k => ?_, ?_⟩
  · simp [State.live, State.entry, State.reset, Handoff.reset]
  · simp [State.col, State.lockOf, State.waitsOf, State.surveyor, State.reset, Column.reset, LockUnit.reset, SurveyUnit.reset]
  · simp [State.slot, State.mark, State.reset, Line.reset, SlotRec.reset, LockUnit.reset]
  · refine ⟨?_, rfl, ⟨rfl, rfl, rfl⟩, rfl, ⟨rfl, rfl, rfl, rfl, rfl, fun r hr => ?_⟩, rfl, rfl, rfl, rfl⟩
    · exact ⟨rfl, rfl, rfl, rfl, rfl, rfl, rfl, rfl, rfl, rfl, rfl, rfl, rfl, rfl⟩
    · exact (show r = Row.cleared by simpa [State.reset, Manifest.reset] using hr)

/-- The power-on state holds no record, no lock, no wait place and no robot, so each law of the relay table is about
nothing. -/
theorem coherent_reset : Coherent State.reset where
  tags := by decide +kernel
  count := by decide +kernel
  order := by decide +kernel
  slots := by decide +kernel
  calls := by decide +kernel
  positions := by decide +kernel
  fields := by decide +kernel
  stacked := by decide +kernel
  work := by decide +kernel
  locks := by decide +kernel
  strandings := by decide +kernel
  waiters := by decide +kernel
  live := by decide +kernel
  surveyors := by decide +kernel
  reservations := by decide +kernel
  loads := by decide +kernel
  buried := by decide +kernel

/-- Settles O60: the power-on tables are closed data. -/
theorem resetStateIsLawful : Obligations.ResetStateIsLawful :=
  ⟨coherent_reset, by decide +kernel, by decide +kernel, by decide +kernel, by decide +kernel, by decide +kernel,
    by decide +kernel⟩

end Sys2Proof.Machine
end

section
/-! The laws of the relay table, column by column: what they read of one column, and how each change of a column keeps
them. -/
namespace Sys2Proof.Machine

open Sys2Proof.Safety Function

/-! ### The laws of one column -/

/-- What the laws of one column read of the tables beside its records. -/
structure Bay where
  column : Column
  lock : Option Lock
  waits : List WaitEntry
  surveyor : Option Slot

/-- The records of a column, by handle. -/
abbrev Records := Handle → Option Record

namespace Bay

/-- The column takes LOCKs for PLACE and LIFT (R5). -/
abbrev inService (b : Bay) : Prop := b.column.service = .opened ∨ b.column.service = .draining

/-- The handle at the top of the stack (R11). -/
abbrev top (b : Bay) : Option Handle := b.column.stack.getLast?

/-- The record of a handle stands in the stack at its level (R11). -/
abbrev Stands (b : Bay) (h : Handle) (r : Record) : Prop := ∃ n, r.level = some n ∧ b.column.stack[n]? = some h

/-- The lock is held for this work on this handle, by this slot (R60). -/
abbrev WorkedOn (b : Bay) (w : Work) (h : Handle) (o : Option Slot) : Prop :=
  ∃ l, b.lock = some l ∧ l.hold = .work w h ∧ o = some l.holder

/-- R71: while the lock is free, each entry of the wait list is that of a lifter whose bin is not on top. -/
def Scanned (b : Bay) : Prop := b.lock = none → ∀ e ∈ b.waits, e.work = .lift ∧ b.top ≠ some e.handle

end Bay

section
variable (L : Slot → Bool) (R : Records) (b : Bay)

/-- R11, R26, R31, R60, R147: what each state of a record asks of its fields and of its column. -/
def RecordFits (h : Handle) (r : Record) : Prop :=
  match r.state with
  | .reserved => r.level = none ∧ r.collector = none ∧ r.strandedFrom = none ∧ ∃ k, r.releaser = some k ∧ L k
  | .placing => r.level = none ∧ r.collector = none ∧ r.strandedFrom = none ∧ b.WorkedOn .place h r.releaser
  | .parked => b.Stands h r ∧ r.collector = none ∧ r.strandedFrom = none
  | .promised => b.Stands h r ∧ r.strandedFrom = none ∧ ∃ k, r.collector = some k ∧ L k
  | .lifting => b.Stands h r ∧ r.strandedFrom = none ∧ b.top = some h ∧ b.WorkedOn .lift h r.collector
  | .stranded => b.column.stranded = some h ∧ match r.strandedFrom with
    | some .placing => r.level = none ∧ r.collector = none ∧ r.releaser.isSome
    | some .lifting => b.Stands h r ∧ b.top = some h ∧ r.collector.isSome
    | none => False

/-- The state of a record that is being worked on. -/
def busyState : Work → RecState
  | .place => .placing
  | .lift => .lifting

/-- R5, R60, R65: what a held lock asks of its column. -/
def LockFits (l : Lock) : Prop :=
  L l.holder ∧ match l.hold with
    | .work w h => b.inService ∧ ∃ r, R h = some r ∧ r.state = busyState w
    | .survey => b.column.service = .suspect ∧ b.surveyor = some l.holder

/-- R61, R63: a record for which a slot may wait. -/
def Awaits (k : Slot) (w : Work) (r : Record) : Prop :=
  match w with
  | .place => r.state = .reserved ∧ r.releaser = some k
  | .lift => r.state = .promised ∧ r.collector = some k

/-- R61, R63: what a wait list entry asks of its column. -/
def WaitFits (e : WaitEntry) : Prop :=
  L e.slot ∧ b.inService ∧ ∃ r, R e.handle = some r ∧ Awaits e.slot e.work r

/-- R147: what the stranded handle of a column asks of it. -/
def StrandedFits : Prop :=
  (b.column.stranded.isSome ↔ b.column.service = .suspect ∨ b.column.service = .fault) ∧
    (b.column.strandingId.isSome ↔ b.column.stranded.isSome) ∧
    ∀ h, b.column.stranded = some h → ∃ r, R h = some r ∧ r.state = .stranded

/-- The laws of one column and its records, but for its load, the buried flags and the scan of its wait list. -/
structure BayFits : Prop where
  records : ∀ h r, R h = some r → RecordFits L b h r
  stack : ∀ n h, b.column.stack[n]? = some h → ∃ r, R h = some r ∧ r.level = some n
  lock : ∀ l, b.lock = some l → LockFits L R b l
  stranded : StrandedFits R b
  waits : ∀ e ∈ b.waits, WaitFits L R b e
  surveyor : ∀ k, b.surveyor = some k → L k ∧ b.column.service = .suspect
end

/-! ### What the laws say of records, locks and wait places -/

section
variable {L : Slot → Bool} {R R' : Records} {b b' : Bay} {h g : Handle} {r q : Record} {l : Lock} {w : Work}

theorem RecordFits.working (hf : RecordFits L b h r) (hs : r.state = busyState w) : ∃ o, b.WorkedOn w h o := by
  cases w <;> simp only [RecordFits, busyState] at hf hs <;> rw [hs] at hf
  · exact ⟨_, hf.2.2.2⟩
  · exact ⟨_, hf.2.2.2⟩

theorem RecordFits.strandedHere (hf : RecordFits L b h r) (hs : r.state = .stranded) : b.column.stranded = some h := by
  simp only [RecordFits, hs] at hf
  exact hf.1

/-- A record's laws hold in a changed column if its stack entry, its lock, its stranding and its place on top stay. -/
theorem RecordFits.transfer (hf : RecordFits L b h r)
    (hstack : ∀ n : Nat, b.column.stack[n]? = some h → b'.column.stack[n]? = some h)
    (hwork : ∀ w o, r.state = busyState w → b.WorkedOn w h o → b'.WorkedOn w h o)
    (hstr : r.state = .stranded → b'.column.stranded = some h)
    (htop : r.state = .lifting ∨ r.state = .stranded → b.top = some h → b'.top = some h) : RecordFits L b' h r := by
  have hst : b.Stands h r → b'.Stands h r := fun ⟨n, hn, hg⟩ => ⟨n, hn, hstack n hg⟩
  unfold RecordFits at hf ⊢
  split at hf
  · exact hf
  · next hs => exact ⟨hf.1, hf.2.1, hf.2.2.1, hwork .place _ hs hf.2.2.2⟩
  · exact ⟨hst hf.1, hf.2⟩
  · exact ⟨hst hf.1, hf.2⟩
  · next hs => exact ⟨hst hf.1, hf.2.1, htop (.inl hs) hf.2.2.1, hwork .lift _ hs hf.2.2.2⟩
  · next hs =>
    refine ⟨hstr hs, ?_⟩
    have hf := hf.2
    split at hf
    · exact hf
    · exact ⟨hst hf.1, htop (.inr hs) hf.2.1, hf.2.2⟩
    · exact hf

/-- Only the record that the lock names is worked on. -/
theorem BayFits.working_iff (hf : BayFits L R b) (hl : b.lock = some l) (hr : R g = some r) :
    r.state = busyState w → l.hold = .work w g := by
  intro hs
  obtain ⟨o, l', hl', hw, -⟩ := (hf.records g r hr).working hs
  rw [hl] at hl'; cases hl'; exact hw

theorem BayFits.not_working (hf : BayFits L R b) (hl : b.lock = none) (hr : R g = some r) : r.state ≠ busyState w := by
  intro hs
  obtain ⟨o, l', hl', -⟩ := (hf.records g r hr).working hs
  rw [hl] at hl'; cases hl'

/-- A record that is neither RESERVED nor PROMISED is waited for by nobody. -/
theorem BayFits.not_awaited (hf : BayFits L R b) (hr : R h = some r) (h1 : r.state ≠ .reserved) (h2 : r.state ≠ .promised) :
    ∀ e ∈ b.waits, e.handle ≠ h := by
  rintro e he rfl
  obtain ⟨-, -, q, hq, ha⟩ := hf.waits e he
  rw [hr] at hq; cases hq
  revert ha
  unfold Awaits
  split <;> simp_all

/-- The one record of a column may change, with anything of the column but its stack: what remains to be shown. -/
theorem BayFits.of_update {o : Option Record} (hf : BayFits L R b) (hstack : b'.column.stack = b.column.stack)
    (hlevel : o.bind (·.level) = (R h).bind (·.level)) (hself : ∀ q, o = some q → RecordFits L b' h q)
    (hothers : ∀ g r, g ≠ h → R g = some r → RecordFits L b g r → RecordFits L b' g r)
    (hlock : ∀ l, b'.lock = some l → LockFits L (update R h o) b' l) (hstr : StrandedFits (update R h o) b')
    (hwaits : ∀ e ∈ b'.waits, WaitFits L (update R h o) b' e)
    (hsurv : ∀ k, b'.surveyor = some k → L k ∧ b'.column.service = .suspect) : BayFits L (update R h o) b' where
  records g r hg := by
    by_cases e : g = h
    · subst e; exact hself r (by simpa using hg)
    · rw [update_of_ne e] at hg
      exact hothers g r e hg (hf.records g r hg)
  stack n g hg := by
    rw [hstack] at hg
    obtain ⟨r, hr, hn⟩ := hf.stack n g hg
    by_cases e : g = h
    · subst e
      rw [hr, Option.bind_some, hn] at hlevel
      obtain ⟨q, rfl, hq⟩ := Option.bind_eq_some_iff.1 hlevel
      exact ⟨q, by simp, hq⟩
    · exact ⟨r, by rw [update_of_ne e]; exact hr, hn⟩
  lock := hlock
  stranded := hstr
  waits := hwaits
  surveyor := hsurv

/-- Outside service a column has no wait list, and a lock there is one for SURVEY. -/
theorem BayFits.idle (hf : BayFits L R b) (hs : ¬ b.inService) :
    b.waits = [] ∧ ∀ l, b.lock = some l → l.hold = .survey := by
  refine ⟨List.eq_nil_iff_forall_not_mem.2 fun e he => hs (hf.waits e he).2.1, fun l hl => ?_⟩
  have := (hf.lock l hl).2
  split at this
  · exact absurd this.1 hs
  · assumption

/-- In service there is no stranded record. -/
theorem BayFits.not_stranded (hf : BayFits L R b) (hs : ¬ (b.column.service = .suspect ∨ b.column.service = .fault)) :
    b.column.stranded = none ∧ ∀ g r, R g = some r → r.state ≠ .stranded := by
  have hn : b.column.stranded = none := by
    rw [← Option.not_isSome_iff_eq_none, hf.stranded.1]; exact hs
  refine ⟨hn, fun g r hr hst => ?_⟩
  have := (hf.records g r hr).strandedHere hst
  rw [hn] at this; cases this

theorem Bay.inService.quiet (hs : b.inService) : ¬ (b.column.service = .suspect ∨ b.column.service = .fault) := by
  rcases hs with h | h <;> simp [h]

theorem WaitFits.update_ne {e : WaitEntry} {o : Option Record} (hw : WaitFits L R b e) (hne : e.handle ≠ h)
    (hs : b.inService → b'.inService) : WaitFits L (update R h o) b' e := by
  obtain ⟨h1, h2, q, hq, ha⟩ := hw
  exact ⟨h1, hs h2, q, by rw [update_of_ne hne]; exact hq, ha⟩

theorem LockFits.update_ne {o : Option Record} (hl : LockFits L R b l) (hne : l.hold.handle ≠ some h)
    (hs : b'.column.service = b.column.service) (hv : b'.surveyor = b.surveyor) : LockFits L (update R h o) b' l := by
  refine ⟨hl.1, ?_⟩
  have h2 := hl.2
  split at h2
  · next w' g e =>
    obtain ⟨hin, q, hq, hqs⟩ := h2
    have hg : g ≠ h := fun e' => hne (by rw [e, e']; rfl)
    simp only [Bay.inService, hs]
    exact ⟨hin, q, by rw [update_of_ne hg]; exact hq, hqs⟩
  · rw [hs, hv]; exact h2

theorem StrandedFits.update_ne {o : Option Record} (hst : StrandedFits R b) (hne : b.column.stranded ≠ some h) :
    StrandedFits (update R h o) b := by
  refine ⟨hst.1, hst.2.1, fun g hg => ?_⟩
  have : g ≠ h := fun e => hne (e ▸ hg)
  rw [update_of_ne this]
  exact hst.2.2 g hg

/-! ### Changes of one record -/

/-- A record that neither the lock nor the wait list nor the stranding names may be made, changed or taken away, as long as
its level stays. -/
theorem BayFits.replace {o : Option Record} (hf : BayFits L R b) (hlock : ∀ l, b.lock = some l → l.hold.handle ≠ some h)
    (hstr : b.column.stranded ≠ some h) (hwaits : ∀ e ∈ b.waits, e.handle ≠ h)
    (hlevel : o.bind (·.level) = (R h).bind (·.level)) (hself : ∀ q, o = some q → RecordFits L b h q) :
    BayFits L (update R h o) b :=
  hf.of_update rfl hlevel hself (fun _ _ _ _ hr => hr) (fun l hl => (hf.lock l hl).update_ne (hlock l hl) rfl rfl)
    (hf.stranded.update_ne hstr) (fun e he => (hf.waits e he).update_ne (hwaits e he) id) hf.surveyor

/-- The work that the lock is held for ends, and the lock with it. -/
theorem BayFits.endWork {o : Option Record} (hf : BayFits L R b) (hl : b.lock = some l) (hw : l.hold = .work w h)
    (hlevel : o.bind (·.level) = (R h).bind (·.level))
    (hself : ∀ q, o = some q → RecordFits L { b with lock := none } h q) :
    BayFits L (update R h o) { b with lock := none } := by
  have hlf := (hf.lock l hl).2
  simp only [hw] at hlf
  obtain ⟨hin, r, hr, hrs⟩ := hlf
  have hbusy : r.state ≠ .reserved ∧ r.state ≠ .promised := by cases w <;> simp [hrs, busyState]
  refine hf.of_update rfl hlevel hself (fun g q hg hq hqf => ?_) nofun
    (hf.stranded.update_ne (by rw [(hf.not_stranded hin.quiet).1]; exact nofun))
    (fun e he => (hf.waits e he).update_ne (hf.not_awaited hr hbusy.1 hbusy.2 e he) id) hf.surveyor
  refine hqf.transfer (fun _ => id) (fun w' o hs _ => absurd ?_ hg) hqf.strandedHere (fun _ => id)
  have := hf.working_iff hl hq hs
  rw [hw] at this; cases this; rfl

/-- A slot takes the free lock of a column in service for a record that nobody waits for. -/
theorem BayFits.beginWork (hf : BayFits L R b) (hl : b.lock = none) (hin : b.inService) (hw : l.hold = .work w h)
    (hk : L l.holder) (hno : ∀ e ∈ b.waits, e.handle ≠ h) (hlevel : q.level = (R h).bind (·.level))
    (hq : q.state = busyState w) (hself : RecordFits L { b with lock := some l } h q) :
    BayFits L (update R h (some q)) { b with lock := some l } := by
  refine hf.of_update rfl hlevel (fun _ e => by cases e; exact hself) (fun g r hg hr hrf => ?_) (fun m hm => ?_)
    (hf.stranded.update_ne (by rw [(hf.not_stranded hin.quiet).1]; exact nofun))
    (fun e he => (hf.waits e he).update_ne (hno e he) id) hf.surveyor
  · exact hrf.transfer (fun _ => id) (fun w' o hs => absurd hs (hf.not_working hl hr)) hrf.strandedHere (fun _ => id)
  · cases hm
    refine ⟨hk, ?_⟩
    simp only [hw]
    exact ⟨hin, q, by simp, hq⟩

/-- The column as it is left by a stranding (R9, R147). -/
def Column.suspected (h : Handle) (id : Option RobotId) (r : Column) : Column :=
  { r with prior := r.presentAsPrior, service := .suspect, stranded := some h, strandingId := id }

/-- R147: the work that the lock is held for is stranded. -/
theorem BayFits.strand {rid : Option RobotId} (hf : BayFits L R b) (hl : b.lock = some l) (hw : l.hold = .work w h)
    (hid : rid.isSome) (hlevel : q.level = (R h).bind (·.level)) (hq : q.state = .stranded)
    (hself : RecordFits L ⟨b.column.suspected h rid, none, [], b.surveyor⟩ h q) :
    BayFits L (update R h (some q)) ⟨b.column.suspected h rid, none, [], b.surveyor⟩ := by
  have hlf := (hf.lock l hl).2
  simp only [hw] at hlf
  have hno := hf.not_stranded hlf.1.quiet
  refine hf.of_update rfl hlevel (fun _ e => by cases e; exact hself) (fun g r hg hr hrf => ?_) nofun
    ⟨by simp [Column.suspected], by simp [Column.suspected, hid], fun g hg => ?_⟩ (by simp)
    (fun k hk => ⟨(hf.surveyor k hk).1, rfl⟩)
  · refine hrf.transfer (fun _ => id) (fun w' o hs _ => absurd ?_ hg) (fun hs => absurd hs (hno.2 g r hr)) (fun _ => id)
    have := hf.working_iff hl hr hs
    rw [hw] at this; cases this; rfl
  · cases hg
    exact ⟨q, by simp, hq⟩

/-- The column as it is left when its stranded record is settled (R10). -/
def Column.settled (r : Column) : Column :=
  { r with service := r.prior.toService, stranded := none, strandingId := none }

theorem toService_inService (p : Prior) : p.toService = .opened ∨ p.toService = .draining := by cases p <;> simp [Prior.toService]

/-- R10, R32: the stranded record of a column is resolved without a change of the stack, and the column settled. -/
theorem BayFits.settle {o : Option Record} (hf : BayFits L R b) (hstr : b.column.stranded = some h)
    (hlevel : o.bind (·.level) = (R h).bind (·.level))
    (hself : ∀ q, o = some q → RecordFits L ⟨b.column.settled, none, [], none⟩ h q) :
    BayFits L (update R h o) ⟨b.column.settled, none, [], none⟩ := by
  have hsus : b.column.service = .suspect ∨ b.column.service = .fault := hf.stranded.1.1 (by rw [hstr]; rfl)
  have hin : ¬ b.inService := fun hs => hs.quiet hsus
  have hquiet : ¬ (b.column.settled.service = .suspect ∨ b.column.settled.service = .fault) := by
    unfold Column.settled; cases b.column.prior <;> simp [Prior.toService]
  refine hf.of_update rfl hlevel hself (fun g r hg hr hrf => ?_) nofun
    ⟨by simp only [hquiet, iff_false]; simp [Column.settled], by simp [Column.settled], nofun⟩ (by simp) nofun
  refine hrf.transfer (fun _ => id) (fun w' o hs => ?_) (fun hs => absurd ?_ hg) (fun _ => id)
  · rintro ⟨m, hm, hmw, -⟩
    rw [(hf.idle hin).2 m hm] at hmw; cases hmw
  · have := hrf.strandedHere hs
    rw [hstr] at this; cases this; rfl

/-! ### Changes of the stack -/

/-- R11: a record is pushed on the stack of a column whose lock is free. -/
theorem BayFits.push (hf : BayFits L R b) (hl : b.lock = none) (hns : b.column.stranded = none) (hh : R h = none)
    (hq : q.state = .parked) (hlev : q.level = some b.column.stack.length) (hc : q.collector = none)
    (hsf : q.strandedFrom = none) :
    BayFits L (update R h (some q)) { b with column := { b.column with stack := b.column.stack ++ [h] } } where
  records g r hg := by
    by_cases e : g = h
    · subst e
      rw [update_self] at hg; cases hg
      simp only [RecordFits, hq]
      exact ⟨⟨_, hlev, by simp⟩, hc, hsf⟩
    · rw [update_of_ne e] at hg
      have hrf := hf.records g r hg
      have hnst : r.state ≠ .stranded := fun hs => by have := hrf.strandedHere hs; rw [hns] at this; cases this
      refine hrf.transfer (fun n hn => ?_) (fun w o hs => absurd hs (hf.not_working hl hg)) hrf.strandedHere fun hs => ?_
      · exact List.getElem?_append_left (List.getElem?_eq_some_iff.1 hn).1 ▸ hn
      · rcases hs with hs | hs
        · exact absurd hs (hf.not_working (w := .lift) hl hg)
        · exact absurd hs hnst
  stack n g hn := by
    rw [List.getElem?_append] at hn
    split at hn
    · obtain ⟨r, hr, hrl⟩ := hf.stack n g hn
      exact ⟨r, by rw [update_of_ne (fun e => by rw [e, hh] at hr; cases hr)]; exact hr, hrl⟩
    · obtain ⟨h0, rfl⟩ : n - b.column.stack.length = 0 ∧ h = g := by
        rw [List.getElem?_singleton] at hn
        split at hn <;> simp_all
      exact ⟨q, by simp, by rw [hlev]; congr 1; omega⟩
  lock l hl' := by rw [hl] at hl'; cases hl'
  stranded := hf.stranded.update_ne (b := { b with column := _ }) (by rw [hns]; exact nofun)
  waits e he := (hf.waits e he).update_ne (fun e' => by
    obtain ⟨-, -, r, hr, -⟩ := hf.waits e he
    rw [e', hh] at hr; cases hr) id
  surveyor := hf.surveyor

/-- R11: the top of the stack of a column whose lock is free is popped, its record PARKED. -/
theorem BayFits.pop (hf : BayFits L R b) (hl : b.lock = none) (hns : b.column.stranded = none) (htop : b.top = some h)
    (hh : R h = some r) (hr : r.state = .parked) :
    BayFits L (update R h none) { b with column := { b.column with stack := b.column.stack.dropLast } } where
  records g q hg := by
    have e : g ≠ h := by rintro rfl; simp at hg
    rw [update_of_ne e] at hg
    have hrf := hf.records g q hg
    have hnst : q.state ≠ .stranded := fun hs => by have := hrf.strandedHere hs; rw [hns] at this; cases this
    refine hrf.transfer (fun n hn => ?_) (fun w o hs => absurd hs (hf.not_working hl hg)) hrf.strandedHere fun hs => ?_
    · obtain ⟨hlt, hn'⟩ := List.getElem?_eq_some_iff.1 hn
      rw [List.getElem?_dropLast, if_pos, hn]
      refine Nat.lt_of_le_of_ne (Nat.le_sub_one_of_lt hlt) fun hne => e ?_
      rw [Bay.top, List.getLast?_eq_getElem?, ← hne, hn] at htop
      cases htop; rfl
    · rcases hs with hs | hs
      · exact absurd hs (hf.not_working (w := .lift) hl hg)
      · exact absurd hs hnst
  stack n g hn := by
    rw [List.getElem?_dropLast] at hn
    split at hn
    · next hlt =>
      obtain ⟨q, hq, hql⟩ := hf.stack n g hn
      refine ⟨q, ?_, hql⟩
      rw [update_of_ne]; · exact hq
      rintro rfl
      rw [Bay.top, List.getLast?_eq_getElem?] at htop
      obtain ⟨q', hq', hql'⟩ := hf.stack _ _ htop
      rw [hq] at hq'; cases hq'
      rw [hql] at hql'; cases hql'
      omega
    · cases hn
  lock l hl' := by rw [hl] at hl'; cases hl'
  stranded := hf.stranded.update_ne (b := { b with column := _ }) (by rw [hns]; exact nofun)
  waits e he := (hf.waits e he).update_ne (hf.not_awaited hh (by simp [hr]) (by simp [hr]) e he) id
  surveyor := hf.surveyor

/-! ### Changes of the lock, the wait list, the surveyor and the service state -/

/-- A lock that is free or held for SURVEY leaves the records as they are. -/
theorem BayFits.relock {o : Option Lock} (hf : BayFits L R b) (hl : ∀ l, b.lock = some l → l.hold = .survey)
    (ho : ∀ l, o = some l → LockFits L R b l) : BayFits L R { b with lock := o } where
  records g r hg := (hf.records g r hg).transfer (fun _ => id) (fun w o' _ hw => by
    obtain ⟨l, hl', hw', -⟩ := hw
    rw [hl l hl'] at hw'; cases hw') (hf.records g r hg).strandedHere fun _ => id
  stack := hf.stack
  lock := ho
  stranded := hf.stranded
  waits := hf.waits
  surveyor := hf.surveyor

/-- A wait list that holds none but old and fitting entries. -/
theorem BayFits.rewait {ws : List WaitEntry} (hf : BayFits L R b) (hw : ∀ e ∈ ws, e ∈ b.waits ∨ WaitFits L R b e) :
    BayFits L R { b with waits := ws } where
  records g r hg := (hf.records g r hg).transfer (fun _ => id) (fun _ _ _ => id) (hf.records g r hg).strandedHere fun _ => id
  stack := hf.stack
  lock := hf.lock
  stranded := hf.stranded
  waits e he := (hw e he).elim (hf.waits e) id
  surveyor := hf.surveyor

/-- R150: another LIVE slot, or none, is surveyor of a SUSPECT column, whose lock is free. -/
theorem BayFits.designate {o : Option Slot} (hf : BayFits L R b) (hs : b.column.service = .suspect)
    (hl : ∀ l, b.lock = some l → some l.holder = o) (ho : ∀ k, o = some k → L k) : BayFits L R { b with surveyor := o } where
  records g r hg := (hf.records g r hg).transfer (fun _ => id) (fun _ _ _ => id) (hf.records g r hg).strandedHere fun _ => id
  stack := hf.stack
  lock l hl' := by
    have hsv := (hf.idle (fun h => h.quiet (.inl hs))).2 l hl'
    refine ⟨(hf.lock l hl').1, ?_⟩
    rw [hsv]
    exact ⟨hs, (hl l hl').symm⟩
  stranded := hf.stranded
  waits := hf.waits
  surveyor k hk := ⟨ho k hk, hs⟩

/-- The column's definition and its service state change, but for its stack and its stranding, and neither before nor
after is it SUSPECT or FAULT. A column that leaves service has a free lock and no wait list. -/
theorem BayFits.redefine {x : Column} (hf : BayFits L R b) (hstack : x.stack = b.column.stack)
    (hstr : x.stranded = b.column.stranded) (hid : x.strandingId = b.column.strandingId)
    (hb : ¬ (b.column.service = .suspect ∨ b.column.service = .fault)) (hx : ¬ (x.service = .suspect ∨ x.service = .fault))
    (hout : ¬ (x.service = .opened ∨ x.service = .draining) → b.lock = none ∧ b.waits = []) :
    BayFits L R { b with column := x } where
  records g r hg := (hf.records g r hg).transfer (fun n => by rw [hstack]; exact id) (fun _ _ _ => id)
    (fun hs => by rw [hstr]; exact (hf.records g r hg).strandedHere hs) fun _ => by simp only [Bay.top, hstack]; exact id
  stack n g := by rw [hstack]; exact hf.stack n g
  lock l hl := by
    have hin : x.service = .opened ∨ x.service = .draining := by
      by_contra hc
      rw [(hout hc).1] at hl; cases hl
    obtain ⟨h1, h2⟩ := hf.lock l hl
    refine ⟨h1, ?_⟩
    split at h2
    · exact ⟨hin, h2.2⟩
    · exact absurd (.inl h2.1) hb
  stranded := by
    refine ⟨?_, by rw [hstr, hid]; exact hf.stranded.2.1, by rw [hstr]; exact hf.stranded.2.2⟩
    rw [hstr, (hf.not_stranded hb).1]
    simpa using hx
  waits e he := by
    obtain ⟨h1, -, h3⟩ := hf.waits e he
    refine ⟨h1, ?_, h3⟩
    by_contra hc
    rw [(hout hc).2] at he; cases he
  surveyor k hk := absurd (.inl (hf.surveyor k hk).2) hb

/-- R154: a SUSPECT column goes to FAULT. -/
theorem BayFits.blame (hf : BayFits L R b) (hs : b.column.service = .suspect) :
    BayFits L R ⟨{ b.column with service := .fault }, none, b.waits, none⟩ := by
  have hidle := hf.idle (fun h => h.quiet (.inl hs))
  exact {
    records := fun g r hg => (hf.records g r hg).transfer (fun _ => id) (fun w o' _ hw => by
      obtain ⟨l, hl', hw', -⟩ := hw
      rw [hidle.2 l hl'] at hw'; cases hw') (hf.records g r hg).strandedHere fun _ => id
    stack := hf.stack
    lock := nofun
    stranded := ⟨by simpa [hs] using hf.stranded.1, hf.stranded.2⟩
    waits := fun e he => by rw [hidle.1] at he; cases he
    surveyor := nofun }

/-- A column has a use for a slot as holder, waiter, surveyor, releaser or collector. -/
def Bay.Uses (R : Records) (b : Bay) (k : Slot) : Prop :=
  (∃ l, b.lock = some l ∧ l.holder = k) ∨ (∃ e ∈ b.waits, e.slot = k) ∨ b.surveyor = some k ∨
    ∃ g r, R g = some r ∧ (r.state = .reserved ∧ r.releaser = some k ∨ r.state = .promised ∧ r.collector = some k)

/-- The laws of a column ask that a slot is LIVE only of those it has a use for. -/
theorem BayFits.relive {L' : Slot → Bool} (hf : BayFits L R b) (h : ∀ k, b.Uses R k → L k → L' k) : BayFits L' R b where
  records g r hg := by
    have hrf := hf.records g r hg
    unfold RecordFits at hrf ⊢
    split at hrf
    · next hs =>
      obtain ⟨h1, h2, h3, k, hk, hl⟩ := hrf
      exact ⟨h1, h2, h3, k, hk, h k (.inr (.inr (.inr ⟨g, r, hg, .inl ⟨hs, hk⟩⟩))) hl⟩
    · exact hrf
    · exact hrf
    · next hs =>
      obtain ⟨h1, h2, k, hk, hl⟩ := hrf
      exact ⟨h1, h2, k, hk, h k (.inr (.inr (.inr ⟨g, r, hg, .inr ⟨hs, hk⟩⟩))) hl⟩
    · exact hrf
    · exact hrf
  stack := hf.stack
  lock l hl := ⟨h _ (.inl ⟨l, hl, rfl⟩) (hf.lock l hl).1, (hf.lock l hl).2⟩
  stranded := hf.stranded
  waits e he := ⟨h _ (.inr (.inl ⟨e, he, rfl⟩)) (hf.waits e he).1, (hf.waits e he).2⟩
  surveyor k hk := ⟨h k (.inr (.inr (.inl hk))) (hf.surveyor k hk).1, (hf.surveyor k hk).2⟩
end

end Sys2Proof.Machine
end

section
namespace Sys2Proof.Machine

open Sys2Proof.Safety Function

/-! ### The columns of a state -/

/-- One column of a state. -/
def State.bay (s : State) (c : Col) : Bay := ⟨s.col c, s.lockOf c, s.waitsOf c, s.surveyor c⟩

/-- The record of a column that a handle names. -/
def State.recIn (s : State) (c : Col) : Records := fun h => (s.named h).filter fun r => r.column = c

/-- The number of live records that name a column. -/
def State.binsOf (s : State) (c : Col) : Nat := (s.recordsWhere fun r => r.column = c).length

/-- R5, R14: a column has no more records than places. -/
def LoadFits (s : State) (c : Col) : Prop :=
  s.binsOf c ≤ (s.col c).capacity ∧ (s.col c).capacity ≤ 6 ∧
    ((s.col c).service = .undefined ∨ (s.col c).service = .out → s.binsOf c = 0)

/-- R24, R25, R157: the laws of the handoff table as a whole. -/
structure TableFits (s : State) : Prop where
  tags : TagsUnique s
  count : FreeCounted s
  order : OrderFits s

/-- The laws of the relay table but for the line's, the loads, the buried flags and the scans of the wait lists. -/
structure Consistent (s : State) : Prop where
  table : TableFits s
  slots : SlotsInForm s
  positions : OnePosition s
  marks : ∀ k, (s.mark k).isSome → s.isLive k
  reservations : OneReservation s
  bays : ∀ c, BayFits s.isLive (s.recIn c) (s.bay c)

section
variable {s t : State} {c : Col} {h : Handle} {r q : Record} {i j : RecIdx} {k : Slot}

theorem recIn_eq_some : s.recIn c h = some r ↔ s.named h = some r ∧ r.column = c := by
  simp [State.recIn, Option.filter_eq_some_iff]

theorem recIn_of_live (hr : s.live i = some r) (hc : r.column = c) : s.recIn c (s.handleAt i) = some r :=
  recIn_eq_some.2 ⟨(named_handleAt i).trans hr, hc⟩

theorem recIn_live (hr : s.recIn c h = some r) : s.live h.idx = some r ∧ s.handleAt h.idx = h ∧ r.column = c := by
  obtain ⟨hn, hc⟩ := recIn_eq_some.1 hr
  exact ⟨live_of_named hn, handleAt_of_named hn, hc⟩

/-- A list without repetition has at most one entry exactly when any two entries are equal. -/
theorem nodup_length_le_one {α : Type} {l : List α} (hn : l.Nodup) : l.length ≤ 1 ↔ ∀ a ∈ l, ∀ b ∈ l, a = b := by
  match l, hn with
  | [], _ => simp
  | [a], _ => simp
  | a :: b :: l, hn =>
    simp only [List.nodup_cons, List.mem_cons, not_or] at hn
    simp [hn.1.1]

theorem oneReservation_iff : OneReservation s ↔ ∀ k i j r q, s.live i = some r → s.live j = some q →
    r.reservedBy k → q.reservedBy k → i = j := by
  refine forall_congr' fun k => ?_
  rw [nodup_length_le_one (recordsWhere_nodup _)]
  simp only [mem_recordsWhere]
  exact ⟨fun h1 i j r q hr hq hrk hqk => h1 i ⟨r, hr, hrk⟩ j ⟨q, hq, hqk⟩,
    fun h1 i ⟨r, hr, hrk⟩ j ⟨q, hq, hqk⟩ => h1 i j r q hr hq hrk hqk⟩

/-! ### The load of a column counts its records (R14) -/

/-- The record was stranded while it was being placed. -/
def Record.strandedPlacing (r : Record) : Bool := r.state = .stranded && r.strandedFrom = some .placing

/-- A lawful record stands in the stack, or is a reservation, or is the stranded placement of its column. -/
theorem RecordFits.counted {L : Slot → Bool} {b : Bay} (hf : RecordFits L b h r) :
    (r.level.isSome = true ∧ r.reserves = false ∧ r.strandedPlacing = false) ∨
      (r.level = none ∧ r.reserves = true ∧ r.strandedPlacing = false) ∨
      (r.level = none ∧ r.reserves = false ∧ r.strandedPlacing = true) := by
  unfold Record.reserves Record.strandedPlacing
  cases hs : r.state <;> simp only [RecordFits, hs] at hf
  case stranded =>
    rcases hsf : r.strandedFrom with _ | _ | _ <;> simp only [hsf] at hf
    · exact hf.2.elim
    · simp [hf]
    · obtain ⟨-, ⟨n, hn, -⟩, -⟩ := hf; simp [hn]
  case reserved | placing => simp [hf]
  all_goals obtain ⟨⟨n, hn, -⟩, -⟩ := hf; simp [hn]

/-- A lawful record that has a level stands there. -/
theorem RecordFits.stands_of_level {L : Slot → Bool} {b : Bay} (hf : RecordFits L b h r) (hl : r.level.isSome) :
    b.Stands h r := by
  cases hs : r.state <;> simp only [RecordFits, hs] at hf
  case stranded =>
    rcases hsf : r.strandedFrom with _ | _ | _ <;> simp only [hsf] at hf
    · exact hf.2.elim
    · simp [hf] at hl
    · exact hf.2.1
  case reserved | placing => simp [hf] at hl
  all_goals exact hf.1

/-- R26: the optional fields of a lawful record follow its state. -/
theorem RecordFits.fields {L : Slot → Bool} {b : Bay} (hf : RecordFits L b h r) :
    (r.strandedFrom.isSome ↔ r.state = .stranded) ∧ (r.level.isSome ↔ stands r) ∧ (isPlacement r → r.releaser.isSome) ∧
      (r.collector.isSome ↔
        r.state = .promised ∨ r.state = .lifting ∨ (r.state = .stranded ∧ r.strandedFrom = some .lifting)) := by
  cases hs : r.state <;> simp only [RecordFits, hs] at hf
  case stranded =>
    rcases hsf : r.strandedFrom with _ | _ | _ <;> simp only [hsf] at hf
    · exact hf.2.elim
    · simp [stands, isPlacement, hs, hsf, hf]
    · obtain ⟨-, ⟨n, hn, -⟩, -, hc⟩ := hf
      simp [stands, isPlacement, hs, hsf, hn, hc]
  case reserved => obtain ⟨hl, hc, hsf, k, hk, -⟩ := hf; simp [stands, isPlacement, hs, hl, hc, hsf, hk]
  case placing => obtain ⟨hl, hc, hsf, l, -, -, hk⟩ := hf; simp [stands, isPlacement, hs, hl, hc, hsf, hk]
  case parked => obtain ⟨⟨n, hn, -⟩, hc, hsf⟩ := hf; simp [stands, isPlacement, hs, hn, hc, hsf]
  case promised => obtain ⟨⟨n, hn, -⟩, hsf, k, hk, -⟩ := hf; simp [stands, isPlacement, hs, hn, hk, hsf]
  case lifting => obtain ⟨⟨n, hn, -⟩, hsf, -, l, -, -, hk⟩ := hf; simp [stands, isPlacement, hs, hn, hk, hsf]

section
variable {L : Slot → Bool} (hb : BayFits L (s.recIn c) (s.bay c))
include hb

theorem mem_stack_idx : i ∈ (s.col c).stack.map (·.idx) ↔
    i ∈ s.recordsWhere fun r => r.column = c && r.level.isSome := by
  simp only [List.mem_map, mem_recordsWhere, Bool.and_eq_true, decide_eq_true_eq]
  constructor
  · rintro ⟨g, hg, rfl⟩
    obtain ⟨n, hn⟩ := List.mem_iff_getElem?.1 hg
    obtain ⟨r, hr, hl⟩ := hb.stack n g hn
    obtain ⟨hlive, -, hc⟩ := recIn_live hr
    exact ⟨r, hlive, hc, by simp [hl]⟩
  · rintro ⟨r, hr, hc, hl⟩
    have hf := hb.records _ r (recIn_of_live hr hc)
    obtain ⟨n, -, hn⟩ := hf.stands_of_level hl
    exact ⟨_, List.mem_of_getElem? hn, rfl⟩

theorem stack_idx_nodup : ((s.col c).stack.map (·.idx)).Nodup := by
  rw [List.nodup_iff_injective_getElem]
  rintro ⟨m, hm⟩ ⟨n, hn⟩ e
  simp only [List.length_map] at hm hn
  simp only [List.getElem_map] at e
  obtain ⟨r, hr, hrl⟩ := hb.stack m _ (List.getElem?_eq_getElem hm)
  obtain ⟨q, hq, hql⟩ := hb.stack n _ (List.getElem?_eq_getElem hn)
  have h1 := (recIn_live hr).1
  have h2 := (recIn_live hq).1
  change s.live ((s.col c).stack[m]).idx = _ at h1
  change s.live ((s.col c).stack[n]).idx = _ at h2
  rw [e, h2] at h1
  cases h1
  rw [hrl] at hql
  simpa using hql

theorem strandedPlacement_count :
    (s.recordsWhere fun r => r.column = c && r.strandedPlacing).length = if s.strandedPlacement c then 1 else 0 := by
  have hone : ∀ i, (i ∈ s.recordsWhere fun r => r.column = c && r.strandedPlacing) ↔
      ∃ h, (s.col c).stranded = some h ∧ h.idx = i ∧ s.strandedPlacement c = true := by
    intro i
    simp only [mem_recordsWhere, Bool.and_eq_true, decide_eq_true_eq, Record.strandedPlacing]
    constructor
    · rintro ⟨r, hr, hc, hs, hsf⟩
      have hst := (hb.records _ r (recIn_of_live hr hc)).strandedHere hs
      refine ⟨s.handleAt i, hst, rfl, ?_⟩
      change (s.col c).stranded = _ at hst
      simp [State.strandedPlacement, hst, named_handleAt, hr, hsf]
    · rintro ⟨h, hst, rfl, hp⟩
      obtain ⟨r, hr, hs⟩ := hb.stranded.2.2 h hst
      obtain ⟨hlive, -, hc⟩ := recIn_live hr
      refine ⟨r, hlive, hc, hs, ?_⟩
      simpa [State.strandedPlacement, hst, (recIn_eq_some.1 hr).1] using hp
  have hle : (s.recordsWhere fun r => r.column = c && r.strandedPlacing).length ≤ 1 := by
    rw [nodup_length_le_one (recordsWhere_nodup _)]
    intro i hi j hj
    obtain ⟨h, hh, rfl, -⟩ := (hone i).1 hi
    obtain ⟨g, hg, rfl, -⟩ := (hone j).1 hj
    rw [hh] at hg; cases hg; rfl
  split
  · next hp =>
    have hp' := hp
    simp only [State.strandedPlacement, Option.any_eq_true, Option.bind_eq_some_iff] at hp'
    obtain ⟨-, ⟨h, hh, -⟩, -⟩ := hp'
    have := List.length_pos_of_mem ((hone h.idx).2 ⟨h, hh, rfl, hp⟩)
    omega
  · next hp =>
    rw [List.length_eq_zero_iff, List.eq_nil_iff_forall_not_mem]
    intro i hi
    obtain ⟨-, -, -, h⟩ := (hone i).1 hi
    exact hp h

/-- R14: under the laws of a column its load is the number of its records. -/
theorem load_eq_binsOf : s.load c = s.binsOf c := by
  have hperm : ((s.col c).stack.map (·.idx) ++ ((s.recordsWhere fun r => r.reserves && r.column = c) ++
      s.recordsWhere fun r => r.column = c && r.strandedPlacing)).Perm (s.recordsWhere fun r => r.column = c) := by
    have hc : ∀ i r, s.live i = some r → r.column = c → _ := fun i r hr hc => (hb.records _ r (recIn_of_live hr hc)).counted
    refine (List.perm_ext_iff_of_nodup ?_ (recordsWhere_nodup _)).2 fun i => ?_
    · refine (stack_idx_nodup hb).append ((recordsWhere_nodup _).append (recordsWhere_nodup _) fun i h1 h2 => ?_)
        fun i h1 h2 => ?_
      · obtain ⟨r, hr, hp⟩ := mem_recordsWhere.1 h1
        obtain ⟨q, hq, hp'⟩ := mem_recordsWhere.1 h2
        grind
      · rw [mem_stack_idx hb] at h1
        simp only [List.mem_append, mem_recordsWhere] at h1 h2
        grind
    · rw [List.mem_append, List.mem_append, mem_stack_idx hb]
      simp only [mem_recordsWhere]
      grind
  rw [State.binsOf, ← hperm.length_eq]
  simp only [List.length_append, List.length_map, strandedPlacement_count hb, State.load, State.reservations]
  omega
end


/-! ### The laws of the relay table as laws of its columns -/

theorem fits_eq_some {w : Work} : r.fits k c = some w ↔ r.column = c ∧ Awaits k w r := by
  unfold Record.fits Awaits
  cases w <;> split <;> simp_all
  all_goals grind

end

end Sys2Proof.Machine

namespace Sys2Proof.Safety

open Sys2Proof.Machine

variable {s : State} {i : RecIdx} {r : Record}

/-- R11, R26, R31, R60, R147: the laws of one record, from those of the relay table. -/
theorem Coherent.recordFits (hc : Coherent s) (hr : s.live i = some r) :
    RecordFits s.isLive (s.bay r.column) (s.handleAt i) r := by
  obtain ⟨hsf, hlev, hrel, hcol⟩ := hc.fields i r hr
  obtain ⟨hplace, hlift⟩ := hc.work i r hr
  obtain ⟨hres, hprom⟩ := hc.live.2.2.2.2 i r hr
  have hstand : r.level.isSome → (s.bay r.column).Stands (s.handleAt i) r := fun hl => by
    obtain ⟨n, hn⟩ := Option.isSome_iff_exists.1 hl
    exact ⟨n, hn, hc.stacked.1 i r hr n hn⟩
  have hnone : ∀ {α : Type} {o : Option α}, ¬ o.isSome → o = none := fun h => Option.not_isSome_iff_eq_none.1 h
  unfold RecordFits
  cases hs : r.state <;> simp only [stands, isPlacement, hs] at hsf hlev hrel hcol hplace hlift hprom
  case reserved =>
    obtain ⟨k, hk⟩ := Option.isSome_iff_exists.1 (hrel (by simp))
    exact ⟨hnone (by simp [hlev]), hnone (by simp [hcol]), hnone (by simp [hsf]), k, hk,
      hres (by simp [Record.reserves, hs]) k hk⟩
  case placing => exact ⟨hnone (by simp [hlev]), hnone (by simp [hcol]), hnone (by simp [hsf]), hplace trivial⟩
  case parked => exact ⟨hstand (by simp [hlev]), hnone (by simp [hcol]), hnone (by simp [hsf])⟩
  case promised =>
    obtain ⟨k, hk⟩ := Option.isSome_iff_exists.1 (hcol.2 (by simp))
    exact ⟨hstand (by simp [hlev]), hnone (by simp [hsf]), k, hk, hprom (by simp) k hk⟩
  case lifting => exact ⟨hstand (by simp [hlev]), hnone (by simp [hsf]), (hlift trivial).2, (hlift trivial).1⟩
  case stranded =>
    obtain ⟨h1, h2⟩ := hc.strandings.1 i r hr hs
    refine ⟨h1, ?_⟩
    rcases hf : r.strandedFrom with _ | _ | _ <;> simp only [hf] at hsf hlev hrel hcol h2 ⊢
    · simp at hsf
    · exact ⟨hnone (by simp [hlev]), hnone (by simp [hcol]), hrel (by simp)⟩
    · exact ⟨hstand (by simp [hlev]), h2 trivial, by simp [hcol]⟩

/-- The laws of one column, from those of the relay table. -/
theorem Coherent.bayFits (hc : Coherent s) (c : Col) : BayFits s.isLive (s.recIn c) (s.bay c) where
  records h r hr := by
    obtain ⟨hl, hh, rfl⟩ := recIn_live hr
    rw [← hh]; exact hc.recordFits hl
  stack n h hn := by
    obtain ⟨r, hr, hrc, hl⟩ := hc.stacked.2 c (h, n) (by rw [List.mem_zipIdx_iff_getElem?]; exact hn)
    exact ⟨r, recIn_eq_some.2 ⟨hr, hrc⟩, hl⟩
  lock l hl := by
    obtain ⟨h1, h2⟩ := hc.locks c l hl
    refine ⟨hc.live.1 c l hl, ?_⟩
    split
    · next w h e =>
      obtain ⟨hin, r, hr, hrc, hs⟩ := h1 h (by rw [e]; rfl)
      refine ⟨hin, r, recIn_eq_some.2 ⟨hr, hrc⟩, ?_⟩
      rw [e] at hs
      cases w <;> simpa [busyState] using hs
    · next e => exact h2 e
  stranded := by
    obtain ⟨h1, h2, h3⟩ := hc.strandings.2 c
    refine ⟨h1, h2, fun h hh => ?_⟩
    obtain ⟨r, hr, hs, hrc⟩ := h3 h hh
    exact ⟨r, recIn_eq_some.2 ⟨hr, hrc⟩, hs⟩
  waits e he := by
    obtain ⟨hin, ⟨r, hr, hf⟩, -⟩ := hc.waiters c e he
    obtain ⟨hrc, ha⟩ := fits_eq_some.1 hf
    exact ⟨hc.live.2.1 c e he, hin, r, recIn_eq_some.2 ⟨hr, hrc⟩, ha⟩
  surveyor k hk := ⟨hc.live.2.2.2.1 c k hk, hc.surveyors c (by rw [show s.surveyor c = some k from hk]; rfl)⟩

theorem Coherent.consistent (hc : Coherent s) : Consistent s :=
  ⟨⟨hc.tags, hc.count, hc.order⟩, hc.slots, hc.positions, hc.live.2.2.1, hc.reservations, hc.bayFits⟩

theorem Coherent.scanned (hc : Coherent s) (c : Col) : (s.bay c).Scanned := fun hl e he =>
  (hc.waiters c e he).2.2 hl

theorem Coherent.loadFits (hc : Coherent s) (c : Col) : LoadFits s c := by
  obtain ⟨h1, h2, h3⟩ := hc.loads c
  rw [load_eq_binsOf (hc.bayFits c)] at h1 h3
  exact ⟨h1, h2, fun h => (h3 h).1⟩

end Sys2Proof.Safety

namespace Sys2Proof.Machine

open Sys2Proof.Safety

/-- The laws of the relay table, from those of its columns. -/
theorem Consistent.coherent {s : State} (hs : Consistent s) (hscan : ∀ c, (s.bay c).Scanned) (hload : ∀ c, LoadFits s c) (hbur : BuriedFit s)
    (hcalls : CallsFit s) : Coherent s := by
  have hrec : ∀ i r, s.live i = some r → RecordFits s.isLive (s.bay r.column) (s.handleAt i) r :=
    fun i r hr => (hs.bays r.column).records _ r (recIn_of_live hr rfl)
  refine ⟨hs.table.tags, hs.table.count, hs.table.order, hs.slots, hcalls, hs.positions, ?fields, ?stacked, ?work, ?locks, ?strandings,
    ?waiters, ?live, ?surveyors, hs.reservations, ?loads, hbur⟩
  case fields =>
    exact fun i r hr => (hrec i r hr).fields
  case stacked =>
    refine ⟨fun i r hr l hl => ?_, fun c p hp => ?_⟩
    · obtain ⟨n, hn, hst⟩ := (hrec i r hr).stands_of_level (by rw [Option.mem_def.1 hl]; rfl)
      rw [Option.mem_def.1 hl] at hn; cases hn
      exact hst
    · rw [List.mem_zipIdx_iff_getElem?] at hp
      obtain ⟨r, hr, hl⟩ := (hs.bays c).stack p.2 p.1 hp
      obtain ⟨hn, hc⟩ := recIn_eq_some.1 hr
      exact ⟨r, hn, hc, hl⟩
  case work =>
    intro i r hr
    have hf := hrec i r hr
    unfold RecordFits at hf
    constructor <;> intro hst <;> simp only [hst] at hf
    · exact hf.2.2.2
    · exact ⟨hf.2.2.2, hf.2.2.1⟩
  case locks =>
    intro c l hl
    obtain ⟨-, h2⟩ := (hs.bays c).lock l hl
    refine ⟨fun h hh => ?_, fun hsv => ?_⟩
    · cases hw : l.hold with
      | survey => rw [hw] at hh; cases hh
      | work w g =>
        rw [hw] at hh h2; cases hh
        obtain ⟨hin, r, hr, hst⟩ := h2
        obtain ⟨hn, hc⟩ := recIn_eq_some.1 hr
        refine ⟨hin, r, hn, hc, ?_⟩
        cases w <;> simp_all [busyState]
    · rw [hsv] at h2; exact h2
  case strandings =>
    refine ⟨fun i r hr hst => ?_, fun c => ?_⟩
    · have hf := hrec i r hr
      refine ⟨hf.strandedHere hst, fun hl => ?_⟩
      simp only [RecordFits, hst, hl] at hf
      exact hf.2.2.1
    · obtain ⟨h1, h2, h3⟩ := (hs.bays c).stranded
      refine ⟨h1, h2, fun h hh => ?_⟩
      obtain ⟨r, hr, hst⟩ := h3 h hh
      obtain ⟨hn, hc⟩ := recIn_eq_some.1 hr
      exact ⟨r, hn, hst, hc⟩
  case waiters =>
    intro c e he
    obtain ⟨-, hin, r, hr, ha⟩ := (hs.bays c).waits e he
    obtain ⟨hn, hc⟩ := recIn_eq_some.1 hr
    exact ⟨hin, ⟨r, hn, fits_eq_some.2 ⟨hc, ha⟩⟩, fun hl => hscan c hl e he⟩
  case live =>
    refine ⟨fun c l hl => ((hs.bays c).lock l hl).1, fun c e he => ((hs.bays c).waits e he).1, hs.marks,
      fun c k hk => ((hs.bays c).surveyor k hk).1, fun i r hr => ?_⟩
    have hf := hrec i r hr
    have hlock : ∀ w o, (s.bay r.column).WorkedOn w (s.handleAt i) o → ∀ k ∈ o, s.isLive k := by
      rintro w o ⟨l, hl, -, rfl⟩ k hk
      cases hk
      exact ((hs.bays r.column).lock l hl).1
    unfold RecordFits at hf
    cases hst : r.state <;> simp only [hst] at hf <;> simp [Record.reserves, hst]
    case reserved => grind
    case placing => exact hlock _ _ hf.2.2.2
    case promised => grind
    case lifting => exact hlock _ _ hf.2.2.2
  case surveyors =>
    intro c hk
    obtain ⟨k, hk⟩ := Option.isSome_iff_exists.1 hk
    exact ((hs.bays c).surveyor k hk).2
  case loads =>
    intro c
    rw [load_eq_binsOf (hs.bays c)]
    obtain ⟨h1, h2, h3⟩ := hload c
    refine ⟨h1, h2, fun hout => ⟨h3 hout, ?_⟩⟩
    by_contra hl
    obtain ⟨l, hl⟩ := Option.ne_none_iff_exists'.1 hl
    obtain ⟨-, h⟩ := (hs.bays c).lock l hl
    change (s.col c).service = _ ∨ (s.col c).service = _ at hout
    split at h
    · rcases h.1 with h | h <;> change (s.col c).service = _ at h <;> simp [h] at hout
    · have h := h.1
      change (s.col c).service = _ at h
      simp [h] at hout

end Sys2Proof.Machine
end

section
namespace Sys2Proof.Machine

open Sys2Proof.Safety Function

variable {s t : State} {c : Col} {h : Handle} {r q : Record} {i j : RecIdx} {k : Slot}

/-! ### The handoff table as a whole -/

/-- A test on the indices that changes at one index changes the count of those that meet it by that one. -/
theorem filter_length_update {p q : RecIdx → Bool} (i : RecIdx) (h : ∀ j, j ≠ i → p j = q j) :
    (allRecs.filter p).length + (q i).toNat = (allRecs.filter q).length + (p i).toNat := by
  have hperm : allRecs.Perm (i :: allRecs.erase i) := List.perm_cons_erase (mem_allRecs i)
  have hrest : (allRecs.erase i).filter p = (allRecs.erase i).filter q :=
    List.filter_congr fun j hj => h j ((List.Nodup.mem_erase_iff (List.nodup_finRange 64)).1 hj).1
  rw [(hperm.filter p).length_eq, (hperm.filter q).length_eq, List.filter_cons, List.filter_cons, hrest]
  cases p i <;> cases q i <;> simp

/-- Changes that keep every tag keep the laws of the table. -/
theorem TableFits.of_tags (h : TableFits s) (ht : ∀ i, (t.live i).map (·.tag) = (s.live i).map (·.tag))
    (hc : SameCounts s t) : TableFits t := by
  have back : ∀ i r, t.live i = some r → ∃ q, s.live i = some q ∧ q.tag = r.tag := fun i r hr => by
    have := ht i
    rw [hr, Option.map_some, eq_comm, Option.map_eq_some_iff] at this
    exact this
  have hsome : ∀ i, (t.live i).isSome = (s.live i).isSome := fun i => by
    have := congrArg Option.isSome (ht i); simpa using this
  refine ⟨⟨fun i r hr => ?_, fun i j r hr q hq e => ?_⟩, ?_, ?_⟩
  · obtain ⟨r', hr', e⟩ := back i r hr
    rw [← e]; exact h.tags.1 i r' hr'
  · obtain ⟨r', hr', er⟩ := back i r hr
    obtain ⟨q', hq', eq⟩ := back j q hq
    exact h.tags.2 i j r' hr' q' hq' (by rw [er, eq, e])
  · unfold FreeCounted
    rw [hc.1, h.count]
    congr 2
    funext i
    have := congrArg Option.isNone (ht i)
    simpa using this.symm
  · refine ⟨by rw [hc.2]; exact h.order.1, fun i => ?_⟩
    rw [hc.2, h.order.2, hsome]

/-- R34: a retirement keeps the laws of the table. -/
theorem TableFits.retire (h : TableFits s) (i : RecIdx) (o : Retirement) : TableFits (retire i o s) := by
  cases hr : s.live i with
  | none => rwa [retire_none s hr]
  | some r =>
    have hlive : ∀ j, (Machine.retire i o s).live j = if i = j then none else s.live j := fun j => by
      simp only [live_def, retire_entry s hr]; split <;> rfl
    obtain ⟨hf, ho⟩ := retire_counts s hr o
    refine ⟨⟨fun j q hq => ?_, fun j k q hq p hp e => ?_⟩, ?_, ?_⟩
    · rw [hlive] at hq
      split at hq
      · cases hq
      · exact h.tags.1 j q hq
    · rw [hlive] at hq hp
      split at hq
      · cases hq
      · split at hp
        · cases hp
        · exact h.tags.2 j k q hq p hp e
    · have := filter_length_update (p := fun j => ((Machine.retire i o s).live j).isNone) (q := fun j => (s.live j).isNone) i
        (fun j hj => by simp [hlive, hj.symm])
      simp only [hlive, hr, if_true, Option.isNone_none, Option.isNone_some, Bool.toNat_true, Bool.toNat_false] at this
      unfold FreeCounted
      simp only [hlive]
      rw [hf, h.count]
      omega
    · rw [OrderFits, ho]
      refine ⟨h.order.1.filter _, fun j => ?_⟩
      rw [List.mem_filter, h.order.2, hlive]
      by_cases hij : i = j
      · simp [hij]
      · simp [hij, Ne.symm hij]

/-- R23: a record made at a free index for a bin that none is live for keeps the laws of the table. -/
theorem TableFits.makeAt (h : TableFits s) (hi : s.live i = none) (h0 : r.tag ≠ 0)
    (hnew : ∀ j, ∀ q ∈ s.live j, q.tag ≠ r.tag) : TableFits (makeAt i r s) := by
  have hlive : ∀ j, (Machine.makeAt i r s).live j = if i = j then some r else s.live j := fun j => by
    simp only [live_def, makeAt_entry]; split <;> rfl
  obtain ⟨hf, ho⟩ := makeAt_counts s i r
  refine ⟨⟨fun j q hq => ?_, fun j k q hq p hp e => ?_⟩, ?_, ?_⟩
  · rw [hlive] at hq
    split at hq
    · cases hq; exact h0
    · exact h.tags.1 j q hq
  · rw [hlive] at hq hp
    split at hq
    · cases hq
      split at hp
      · next h1 h2 => exact h1.symm.trans h2
      · exact absurd e.symm (hnew k p hp)
    · split at hp
      · cases hp; exact absurd e (hnew j q hq)
      · exact h.tags.2 j k q hq p hp e
  · have := filter_length_update (p := fun j => ((Machine.makeAt i r s).live j).isNone) (q := fun j => (s.live j).isNone) i
      (fun j hj => by simp [hlive, hj.symm])
    simp only [hlive, hi, if_true, Option.isNone_none, Option.isNone_some, Bool.toNat_true, Bool.toNat_false] at this
    unfold FreeCounted
    simp only [hlive]
    rw [hf, h.count]
    omega
  · rw [OrderFits, ho]
    have hni : i ∉ s.handoff.order := by rw [h.order.2, hi]; simp
    refine ⟨h.order.1.append (List.nodup_singleton i) (by simpa using hni), fun j => ?_⟩
    rw [List.mem_append, h.order.2, hlive]
    by_cases hij : i = j
    · simp [hij]
    · simp [hij, Ne.symm hij]

/-! ### Reservations (R33) -/

theorem Record.reservedBy_iff : r.reservedBy k = true ↔ r.reserves = true ∧ r.releaser = some k := by
  simp [Record.reservedBy]

/-- A record that reserves nothing is reserved by nobody. -/
theorem Record.not_reservedBy {P : Prop} (h : r.reserves = false) (hk : r.reservedBy k = true) : P := by
  rw [Record.reservedBy_iff, h] at hk
  cases hk.1

/-- Where no slot comes to reserve a record, each still reserves at most one. -/
theorem reservations_mono (h : OneReservation s)
    (hm : ∀ i r k, t.live i = some r → r.reservedBy k → ∃ q, s.live i = some q ∧ q.reservedBy k) : OneReservation t := by
  rw [oneReservation_iff] at h ⊢
  intro k i j r q hr hq hrk hqk
  obtain ⟨r', hr', hrk'⟩ := hm i r k hr hrk
  obtain ⟨q', hq', hqk'⟩ := hm j q k hq hqk
  exact h k i j r' q' hr' hq' hrk' hqk'

/-! ### Positions (R61) -/

theorem onePosition_iff : OnePosition s ↔ (∀ c, (positionsIn s c).Nodup) ∧
    (∀ c d k, k ∈ positionsIn s c → k ∈ positionsIn s d → c = d) ∧ ∀ c, (s.waitsOf c).length ≤ 4 := by
  refine ⟨fun h => ⟨positionsIn_nodup h, fun c d k => positions_column h, h.2⟩, fun ⟨h1, h2, h3⟩ => ⟨?_, h3⟩⟩
  refine List.nodup_flatMap.2 ⟨fun c _ => h1 c, ?_⟩
  refine (List.nodup_finRange 16).imp fun {c d} hne => ?_
  exact fun k hc hd => hne (h2 c d k hc hd)

theorem mem_positionsIn : k ∈ positionsIn s c ↔ (∃ l, s.lockOf c = some l ∧ l.holder = k) ∨ ∃ e ∈ s.waitsOf c, e.slot = k := by
  simp [positionsIn]

/-- Where every column keeps some of its positions and gains none, each slot still has at most one. -/
theorem positions_sublist (h : OnePosition s) (hp : ∀ c, (positionsIn t c).Sublist (positionsIn s c))
    (hw : ∀ c, (t.waitsOf c).length ≤ (s.waitsOf c).length) : OnePosition t := by
  obtain ⟨h1, h2, h3⟩ := onePosition_iff.1 h
  exact onePosition_iff.2 ⟨fun c => (hp c).nodup (h1 c), fun c d k hc hd => h2 c d k ((hp c).subset hc) ((hp d).subset hd),
    fun c => (hw c).trans (h3 c)⟩

/-- One column's positions may change to others of its own and to slots that had none. -/
theorem positions_column_changed (h : OnePosition s) (hne : ∀ d, d ≠ c → positionsIn t d = positionsIn s d)
    (hwne : ∀ d, d ≠ c → t.waitsOf d = s.waitsOf d) (hn : (positionsIn t c).Nodup)
    (hm : ∀ k ∈ positionsIn t c, k ∈ positionsIn s c ∨ k ∉ positions s) (hw : (t.waitsOf c).length ≤ 4) : OnePosition t := by
  obtain ⟨h1, h2, h3⟩ := onePosition_iff.1 h
  have hpos : ∀ {d k}, k ∈ positionsIn s d → k ∈ positions s := fun {d k} hk => by
    rw [mem_positions]
    rcases mem_positionsIn.1 hk with ⟨l, hl, e⟩ | ⟨x, hx, e⟩
    · exact .inl ⟨d, l, hl, e⟩
    · exact .inr ⟨d, x, hx, e⟩
  have hcross : ∀ d k, d ≠ c → k ∈ positionsIn t c → k ∈ positionsIn t d → False := fun d k hd hkc hkd => by
    rw [hne d hd] at hkd
    rcases hm k hkc with hk | hk
    · exact hd (h2 d c k hkd hk)
    · exact hk (hpos hkd)
  refine onePosition_iff.2 ⟨fun d => ?_, fun d e k hd he => ?_, fun d => ?_⟩
  · by_cases e : d = c
    · rwa [e]
    · rw [hne d e]; exact h1 d
  · by_cases e1 : d = c <;> by_cases e2 : e = c
    · rw [e1, e2]
    · subst e1; exact (hcross e k e2 hd he).elim
    · subst e2; exact (hcross d k e1 he hd).elim
    · rw [hne d e1] at hd; rw [hne e e2] at he; exact h2 d e k hd he
  · by_cases e : d = c
    · rwa [e]
    · rw [hwne d e]; exact h3 d

end Sys2Proof.Machine
end

section
namespace Sys2Proof.Machine

open Sys2Proof.Safety Function

variable {s t u : State} {c d : Col} {h : Handle} {r q : Record} {i j : RecIdx} {k : Slot} {o : Option Record}

/-! ### Changes beside which the other columns stay -/

/-- Of what the laws read, the change from `s` to `t` touches one column, its lock unit rows and its records alone. -/
structure Beside (c : Col) (s t : State) : Prop where
  line : t.line = s.line
  marks : ∀ k, t.mark k = s.mark k
  bays : ∀ d, d ≠ c → t.bay d = s.bay d
  recs : ∀ d, d ≠ c → t.recIn d = s.recIn d

theorem Beside.refl (c : Col) (s : State) : Beside c s s := ⟨rfl, fun _ => rfl, fun _ _ => rfl, fun _ _ => rfl⟩

theorem Beside.trans (h : Beside c s t) (h' : Beside c t u) : Beside c s u :=
  ⟨h'.line.trans h.line, fun k => (h'.marks k).trans (h.marks k), fun d hd => (h'.bays d hd).trans (h.bays d hd),
    fun d hd => (h'.recs d hd).trans (h.recs d hd)⟩

theorem Beside.isLive (h : Beside c s t) : t.isLive = s.isLive := funext fun k => isLive_congr h.line k

/-- The tables behind the columns stay but for the rows of one column. -/
theorem bay_of_rows (hcol : t.col d = s.col d) (hlock : t.lockOf d = s.lockOf d) (hwaits : t.waitsOf d = s.waitsOf d)
    (hsurv : t.surveyor d = s.surveyor d) : t.bay d = s.bay d := by
  simp only [State.bay, hcol, hlock, hwaits, hsurv]

/-- The handoff table stays but for records of one column. -/
theorem recIn_beside (hrec : ∀ j, (t.live j = s.live j ∧ (t.entry j).gen = (s.entry j).gen) ∨
    (∀ r, s.live j = some r → r.column = c) ∧ ∀ r, t.live j = some r → r.column = c) (hd : d ≠ c) :
    t.recIn d = s.recIn d := by
  funext h
  apply Option.ext
  intro r
  simp only [recIn_eq_some, named_eq_some]
  rcases hrec h.idx with ⟨hl, hg⟩ | ⟨hs, ht⟩
  · rw [hl, hg]
  · constructor
    · rintro ⟨⟨-, hr⟩, rfl⟩; exact absurd (ht r hr) hd
    · rintro ⟨⟨-, hr⟩, rfl⟩; exact absurd (hs r hr) hd

/-! ### The laws without those of the line -/

/-- R16: the buried flags of the records of one column. -/
def BuriedIn (s : State) (c : Col) : Prop := ∀ h r, s.recIn c h = some r → r.buried = s.isBuried r

theorem buriedFit_iff : BuriedFit s ↔ ∀ c, BuriedIn s c := by
  refine ⟨fun hb c h r hr => ?_, fun hb i r hr => hb r.column _ r (recIn_of_live hr rfl)⟩
  obtain ⟨hl, -, -⟩ := recIn_live hr
  exact hb _ r hl

theorem isBuried_of_column (h : (t.col r.column).stack = (s.col r.column).stack) : t.isBuried r = s.isBuried r := by
  unfold State.isBuried State.depth
  rw [h]

/-- The laws of the relay table but for those of the line's phase and the scan of one wait list. -/
structure RelayBut (c : Col) (s : State) : Prop where
  consistent : Consistent s
  scanned : ∀ d, d ≠ c → (s.bay d).Scanned
  loads : ∀ d, LoadFits s d
  buried : BuriedFit s

/-- The laws of the relay table but for those of the line's phase. -/
structure Relay (s : State) : Prop where
  consistent : Consistent s
  scanned : ∀ d, (s.bay d).Scanned
  loads : ∀ d, LoadFits s d
  buried : BuriedFit s

theorem Relay.but (h : Relay s) (c : Col) : RelayBut c s := ⟨h.consistent, fun d _ => h.scanned d, h.loads, h.buried⟩

theorem RelayBut.relay (h : RelayBut c s) (hc : (s.bay c).Scanned) : Relay s :=
  ⟨h.consistent, fun d => if e : d = c then e ▸ hc else h.scanned d e, h.loads, h.buried⟩

theorem coherent_iff : Coherent s ↔ Relay s ∧ CallsFit s :=
  ⟨fun h => ⟨⟨h.consistent, h.scanned, h.loadFits, h.buried⟩, h.calls⟩,
    fun ⟨h, hc⟩ => h.consistent.coherent h.scanned h.loads h.buried hc⟩

theorem binsOf_le (hd : ∀ i r, t.live i = some r → r.column = c → ∃ q, s.live i = some q ∧ q.column = c) :
    t.binsOf c ≤ s.binsOf c := by
  have hsub : (t.recordsWhere fun r => r.column = c) ⊆ s.recordsWhere fun r => r.column = c := fun i hi => by
    obtain ⟨r, hr, hc⟩ := mem_recordsWhere.1 hi
    obtain ⟨q, hq, hqc⟩ := hd i r hr (by simpa using hc)
    exact mem_recordsWhere.2 ⟨q, hq, by simpa using hqc⟩
  exact ((recordsWhere_nodup _).subperm hsub).length_le

/-- The load of a column stays within bounds while it gains no records and goes neither out of service nor undefined. -/
theorem LoadFits.of_le (h : LoadFits s c) (hle : t.binsOf c ≤ s.binsOf c) (hcap : (t.col c).capacity = (s.col c).capacity)
    (hv : (t.col c).service = .undefined ∨ (t.col c).service = .out → (s.col c).service = .undefined ∨ (s.col c).service = .out) :
    LoadFits t c := by
  obtain ⟨h1, h2, h3⟩ := h
  exact ⟨by omega, by omega, fun ht => by have := h3 (hv ht); omega⟩

theorem mem_recIn_iff : (∃ r, s.live i = some r ∧ r.column = c) ↔ ∃ g r, s.recIn c ⟨i, g⟩ = some r := by
  constructor
  · rintro ⟨r, hr, hc⟩; exact ⟨_, r, recIn_of_live hr hc⟩
  · rintro ⟨g, r, hr⟩; obtain ⟨hl, -, hc⟩ := recIn_live hr; exact ⟨r, hl, hc⟩

/-- A change beside which the other columns stay: what remains to be shown. -/
theorem RelayBut.of_beside (h : RelayBut c s) (fr : Beside c s t) (htable : TableFits t) (hpos : OnePosition t)
    (hres : OneReservation t) (hbay : BayFits s.isLive (t.recIn c) (t.bay c)) (hload : LoadFits t c)
    (hbur : BuriedIn t c) : RelayBut c t where
  consistent :=
    { table := htable
      slots := by
        have := h.consistent.slots
        simpa only [SlotsInForm, slot_congr fr.line] using this
      positions := hpos
      marks := fun k hk => by
        rw [fr.marks] at hk; rw [isLive_congr fr.line]; exact h.consistent.marks k hk
      reservations := hres
      bays := fun d => by
        rw [fr.isLive]
        by_cases e : d = c
        · exact e ▸ hbay
        · rw [fr.bays d e, fr.recs d e]; exact h.consistent.bays d }
  scanned d hd := by rw [fr.bays d hd]; exact h.scanned d hd
  loads d := by
    by_cases e : d = c
    · exact e ▸ hload
    · have hcol : t.col d = s.col d := congrArg Bay.column (fr.bays d e)
      refine (h.loads d).of_le (binsOf_le fun i r hr hc => ?_) (by rw [hcol]) (by rw [hcol]; exact id)
      exact mem_recIn_iff.2 (fr.recs d e ▸ mem_recIn_iff.1 ⟨r, hr, hc⟩)
  buried := buriedFit_iff.2 fun d => by
    by_cases e : d = c
    · exact e ▸ hbur
    · intro g r hr
      have hcol : t.col d = s.col d := congrArg Bay.column (fr.bays d e)
      obtain ⟨-, -, hc⟩ := recIn_live hr
      rw [fr.recs d e] at hr
      rw [isBuried_of_column (s := s) (t := t) (by rw [hc, hcol])]
      exact buriedFit_iff.1 h.buried d g r hr

/-! ### One index written -/

theorem column_of_live (hr : s.live i = some r) (hrc : r.column = c) (p : Record) (hp : s.live i = some p) : p.column = c := by
  rw [hr] at hp
  cases hp
  exact hrc

/-- In the handoff table only one index is written, with this record or with none. -/
structure Sets (i : RecIdx) (o : Option Record) (s t : State) : Prop where
  live : ∀ j, t.live j = if i = j then o else s.live j
  gen : ∀ j, (i = j → o.isSome) → (t.entry j).gen = (s.entry j).gen

theorem Sets.of_entry {e : Entry} (h : ∀ j, t.entry j = if i = j then e else s.entry j)
    (hg : e.live.isSome → e.gen = (s.entry i).gen) : Sets i e.live s t where
  live j := by
    simp only [live_def, h]
    split <;> rfl
  gen j hj := by
    rw [h]
    split
    · next hij => subst hij; exact hg (hj rfl)
    · rfl

theorem Sets.recIn (hs : Sets i o s t) (hi : ∀ r, s.live i = some r → r.column = c) (ho : ∀ q, o = some q → q.column = c) :
    t.recIn c = update (s.recIn c) (s.handleAt i) o := by
  funext h
  apply Option.ext
  intro r
  by_cases hh : h = s.handleAt i
  · subst hh
    rw [update_self, recIn_eq_some, named_eq_some]
    have hl : t.live (s.handleAt i).idx = o := (hs.live _).trans (if_pos rfl)
    rw [hl]
    exact ⟨fun hr => hr.1.2, fun hr => ⟨⟨hs.gen i fun _ => by rw [hr]; rfl, hr⟩, ho r hr⟩⟩
  · rw [update_of_ne hh, recIn_eq_some, recIn_eq_some, named_eq_some, named_eq_some, hs.live]
    by_cases hi' : i = h.idx
    · subst hi'
      rw [if_pos rfl]
      have hgen : (s.entry h.idx).gen ≠ h.gen := fun e => hh (by unfold State.handleAt; rw [e])
      constructor
      · rintro ⟨⟨hg, hr⟩, -⟩
        rw [hs.gen _ fun _ => by rw [hr]; rfl] at hg
        exact absurd hg hgen
      · rintro ⟨⟨hg, -⟩, -⟩; exact absurd hg hgen
    · rw [if_neg hi', hs.gen _ fun e => absurd e hi']

theorem Sets.recIn_ne (hs : Sets i o s t) (hi : ∀ r, s.live i = some r → r.column = c) (ho : ∀ q, o = some q → q.column = c)
    (hd : d ≠ c) : t.recIn d = s.recIn d :=
  recIn_beside (fun j => by
    rw [hs.live]
    by_cases hij : i = j
    · subst hij; exact .inr ⟨hi, by simpa using ho⟩
    · exact .inl ⟨by rw [if_neg hij], hs.gen j fun e => absurd e hij⟩) hd

/-- A record stays in the table with its tag. -/
theorem TableFits.set (h : TableFits s) (hs : Sets i (some q) s t) (hr : s.live i = some r) (ht : q.tag = r.tag)
    (hc : SameCounts s t) : TableFits t :=
  h.of_tags (fun j => by
    rw [hs.live]
    split
    · next e => subst e; rw [hr, Option.map_some, Option.map_some, ht]
    · rfl) hc

/-- Where the record of an index comes to no new releaser, each slot still reserves at most one. -/
theorem Sets.reservations_kept (hs : Sets i o s t) (h : OneReservation s) (hr : s.live i = some r)
    (hm : ∀ q, o = some q → ∀ k, q.reservedBy k → r.reservedBy k) : OneReservation t :=
  reservations_mono h fun j p k hp hk => by
    rw [hs.live] at hp
    split at hp
    · next e => subst e; exact ⟨r, hr, hm p hp k hk⟩
    · exact ⟨p, hp, hk⟩

/-- A record reserved by a slot that reserves no other keeps each slot at one. -/
theorem Sets.reservations_new (hs : Sets i o s t) (h : OneReservation s)
    (hm : ∀ q, o = some q → ∀ k, q.reservedBy k → ∀ j p, s.live j = some p → p.reservedBy k → j = i) : OneReservation t := by
  rw [oneReservation_iff] at h ⊢
  intro k a b p q hp hq hpk hqk
  rw [hs.live] at hp hq
  split at hp <;> split at hq
  · next h1 h2 => exact h1.symm.trans h2
  · next h1 h2 => exact absurd (hm p hp k hpk b q hq hqk).symm h2
  · next h1 h2 => exact absurd (hm q hq k hqk a p hp hpk).symm h1
  · exact h k a b p q hp hq hpk hqk

/-- One record changes or goes, with rows of its column: what remains to be shown. The stack and the capacity stay. -/
theorem RelayBut.set (h : RelayBut c s) (fr : Beside c s t) (hs : Sets i o s t) (htable : TableFits t)
    (hr : s.live i = some r) (hrc : r.column = c) (hoc : ∀ q, o = some q → q.column = c) (hres : OneReservation t)
    (hpos : OnePosition t) (hbay : BayFits s.isLive (update (s.recIn c) (s.handleAt i) o) (t.bay c))
    (hstack : (t.col c).stack = (s.col c).stack) (hcap : (t.col c).capacity = (s.col c).capacity)
    (hv : (t.col c).service = .undefined ∨ (t.col c).service = .out → (s.col c).service = .undefined ∨ (s.col c).service = .out)
    (hbur : ∀ q, o = some q → q.buried = s.isBuried q) : RelayBut c t := by
  have hrec := hs.recIn (c := c) (column_of_live hr hrc) hoc
  refine h.of_beside fr htable hpos hres (hrec ▸ hbay) ((h.loads c).of_le (binsOf_le fun j p hp hc => ?_) hcap hv)
    fun g p hp => ?_
  · rw [hs.live] at hp
    split at hp
    · next e => subst e; exact ⟨r, hr, hrc⟩
    · exact ⟨p, hp, hc⟩
  · obtain ⟨-, -, hpc⟩ := recIn_live hp
    rw [isBuried_of_column (s := s) (t := t) (by rw [hpc, hstack])]
    rw [hrec] at hp
    by_cases e : g = s.handleAt i
    · subst e; rw [update_self] at hp; exact hbur p hp
    · rw [update_of_ne e] at hp; exact buriedFit_iff.1 h.buried c g p hp

end Sys2Proof.Machine
end

section
namespace Sys2Proof.Machine

open Sys2Proof.Safety Function

variable {s t u : State} {c d : Col} {h : Handle} {r q : Record} {i j : RecIdx} {k : Slot} {o : Option Record} {w : Work}
  {l : Lock}

/-! ### Fields that the laws of a column do not read -/

/-- A record without the fields that the laws of the relay table do not read, and without its buried flag. -/
def Record.core (r : Record) : Record :=
  { r with
    cls := .ambient, deadline := 0, budget := 0, overdue := false, spent := false, unlisted := false, buried := false
    found := false, orderRef := 0 }

theorem RecordFits.of_core {L : Slot → Bool} {b : Bay} (hf : RecordFits L b h r) (e : q.core = r.core) :
    RecordFits L b h q := by
  change RecordFits L b h q.core
  rw [e]; exact hf

theorem Awaits.of_core (ha : Awaits k w r) (e : q.core = r.core) : Awaits k w q := by
  change Awaits k w q.core
  rw [e]; exact ha

theorem core_of_map {o o' : Option Record} (h : o'.map Record.core = o.map Record.core) (hr : o = some r) :
    ∃ q, o' = some q ∧ q.core = r.core := by
  subst hr
  exact Option.map_eq_some_iff.1 h

theorem BayFits.of_cores {L : Slot → Bool} {R R' : Records} {b : Bay} (hf : BayFits L R b)
    (hR : ∀ h, (R' h).map Record.core = (R h).map Record.core) : BayFits L R' b where
  records g q hq := by
    obtain ⟨r, hr, e⟩ := core_of_map (hR g).symm hq
    exact (hf.records g r hr).of_core e.symm
  stack n g hn := by
    obtain ⟨r, hr, hl⟩ := hf.stack n g hn
    obtain ⟨q, hq, e⟩ := core_of_map (hR g) hr
    exact ⟨q, hq, (congrArg Record.level e).trans hl⟩
  lock l hl := by
    obtain ⟨h1, h2⟩ := hf.lock l hl
    refine ⟨h1, ?_⟩
    split at h2
    · obtain ⟨hin, r, hr, hs⟩ := h2
      obtain ⟨q, hq, e⟩ := core_of_map (hR _) hr
      exact ⟨hin, q, hq, (congrArg Record.state e).trans hs⟩
    · exact h2
  stranded := ⟨hf.stranded.1, hf.stranded.2.1, fun g hg => by
    obtain ⟨r, hr, hs⟩ := hf.stranded.2.2 g hg
    obtain ⟨q, hq, e⟩ := core_of_map (hR _) hr
    exact ⟨q, hq, (congrArg Record.state e).trans hs⟩⟩
  waits e he := by
    obtain ⟨h1, h2, r, hr, ha⟩ := hf.waits e he
    obtain ⟨q, hq, e'⟩ := core_of_map (hR _) hr
    exact ⟨h1, h2, q, hq, ha.of_core e'⟩
  surveyor := hf.surveyor

/-- The records of a column under a change of fields that keeps the column of each. -/
theorem recIn_cores (hl : ∀ i, (t.live i).map Record.core = (s.live i).map Record.core)
    (hg : ∀ i, (t.entry i).gen = (s.entry i).gen) (c : Col) (h : Handle) :
    (t.recIn c h).map Record.core = (s.recIn c h).map Record.core := by
  have key : ∀ {u v : State}, (∀ i, (u.live i).map Record.core = (v.live i).map Record.core) →
      (∀ i, (u.entry i).gen = (v.entry i).gen) → ∀ r, u.recIn c h = some r → ∃ q, v.recIn c h = some q ∧ q.core = r.core := by
    intro u v hl hg r hr
    obtain ⟨hn, hc⟩ := recIn_eq_some.1 hr
    obtain ⟨hgen, hlive⟩ := named_eq_some.1 hn
    obtain ⟨q, hq, e⟩ := core_of_map (hl h.idx).symm hlive
    exact ⟨q, recIn_eq_some.2 ⟨named_eq_some.2 ⟨(hg _).symm.trans hgen, hq⟩, (congrArg Record.column e).trans hc⟩, e⟩
  apply Option.ext
  intro p
  simp only [Option.map_eq_some_iff]
  constructor
  · rintro ⟨r, hr, rfl⟩; exact key hl hg r hr
  · rintro ⟨r, hr, rfl⟩; exact key (fun i => (hl i).symm) (fun i => (hg i).symm) r hr

/-- The tables stay but for fields that the laws do not read. -/
theorem Relay.of_cores (h : Relay s) (ho : OnlyChanges [.age, .handoff, .notice, .manifest, .port, .placement, .power] s t)
    (hl : ∀ i, (t.live i).map Record.core = (s.live i).map Record.core) (hg : ∀ i, (t.entry i).gen = (s.entry i).gen)
    (hc : SameCounts s t) (hbur : BuriedFit t) : Relay t := by
  have hline := ho.line (by decide)
  have hcol := col_congr (ho.columns (by decide))
  have hlock := ho.lock (by decide)
  have hbay : ∀ c, t.bay c = s.bay c := fun c =>
    bay_of_rows (hcol c) (lockOf_congr hlock c) (waitsOf_congr hlock c) (surveyor_congr (ho.survey (by decide)) c)
  have back : ∀ i r, t.live i = some r → ∃ q, s.live i = some q ∧ q.core = r.core := fun i r hr => core_of_map (hl i).symm hr
  have hcons := h.consistent
  refine ⟨⟨?_, ?_, ?_, ?_, ?_, ?_⟩, fun c => by rw [hbay]; exact h.scanned c, fun c => ?_, hbur⟩
  · refine hcons.table.of_tags (fun i => ?_) hc
    have := congrArg (Option.map Record.tag) (hl i)
    rw [Option.map_map, Option.map_map] at this
    exact this
  · simpa only [SlotsInForm, slot_congr hline] using hcons.slots
  · simpa only [OnePosition, positions, lockOf_congr hlock, waitsOf_congr hlock] using hcons.positions
  · simpa only [mark_congr hlock, isLive_congr hline] using hcons.marks
  · refine reservations_mono hcons.reservations fun i r k hr hk => ?_
    obtain ⟨q, hq, e⟩ := back i r hr
    refine ⟨q, hq, ?_⟩
    change q.core.reservedBy k
    rw [e]; exact hk
  · intro c
    rw [hbay, show t.isLive = s.isLive from funext (isLive_congr hline)]
    exact (hcons.bays c).of_cores (recIn_cores hl hg c)
  · refine (h.loads c).of_le (binsOf_le fun i r hr hrc => ?_) (by rw [hcol]) (by rw [hcol]; exact id)
    obtain ⟨q, hq, e⟩ := back i r hr
    exact ⟨q, hq, (congrArg Record.column e).trans hrc⟩

/-! ### Wait lists -/

/-- Wait lists that lose entries. -/
theorem RelayBut.fewerWaits (h : RelayBut c s) (ho : OnlyChanges [.lock] s t) (hl : ∀ d, t.lockOf d = s.lockOf d)
    (hm : ∀ k, t.mark k = s.mark k) (hw : ∀ d, (t.waitsOf d).Sublist (s.waitsOf d)) : RelayBut c t := by
  have hline := ho.line (by decide)
  have hhand := ho.handoff (by decide)
  have hcol := col_congr (ho.columns (by decide))
  have hsurv := surveyor_congr (ho.survey (by decide))
  have hlive := live_congr hhand
  have hrec : t.recIn = s.recIn := by funext d g; simp only [State.recIn, named_congr hhand]
  have hbay : ∀ d, t.bay d = { s.bay d with waits := t.waitsOf d } := fun d => by
    simp only [State.bay, hcol, hl, hsurv]
  have hcons := h.consistent
  refine ⟨⟨?_, ?_, ?_, ?_, ?_, ?_⟩, fun d hd => ?_, fun d => ?_, ?_⟩
  · exact hcons.table.of_tags (fun i => by rw [hlive]) ⟨by rw [hhand], by rw [hhand]⟩
  · simpa only [SlotsInForm, slot_congr hline] using hcons.slots
  · exact positions_sublist hcons.positions (fun d => by
      unfold positionsIn; rw [hl]; exact ((hw d).map _).append_left _) fun d => (hw d).length_le
  · simpa only [hm, isLive_congr hline] using hcons.marks
  · exact reservations_mono hcons.reservations fun i r k hr hk => ⟨r, by rw [← hlive]; exact hr, hk⟩
  · intro d
    rw [hbay, hrec, show t.isLive = s.isLive from funext (isLive_congr hline)]
    exact (hcons.bays d).rewait fun e he => .inl ((hw d).subset he)
  · rw [hbay]
    exact fun hn e he => h.scanned d hd hn e ((hw d).subset he)
  · exact (h.loads d).of_le (binsOf_le fun i r hr hrc => ⟨r, by rw [← hlive]; exact hr, hrc⟩) (by rw [hcol]) (by rw [hcol]; exact id)
  · intro i r hr
    rw [hlive] at hr
    rw [isBuried_of_column (s := s) (t := t) (by rw [hcol])]
    exact h.buried i r hr

theorem Relay.fewerWaits (h : Relay s) (ho : OnlyChanges [.lock] s t) (hl : ∀ d, t.lockOf d = s.lockOf d)
    (hm : ∀ k, t.mark k = s.mark k) (hw : ∀ d, (t.waitsOf d).Sublist (s.waitsOf d)) : Relay t := by
  have hcol := col_congr (ho.columns (by decide))
  refine ((h.but 0).fewerWaits ho hl hm hw).relay fun hn e he => ?_
  change t.lockOf 0 = none at hn
  rw [hl] at hn
  change _ ∧ (t.col 0).stack.getLast? ≠ _
  rw [hcol]
  exact h.scanned 0 hn e ((hw 0).subset he)

/-- R72: the wait place of a slot is removed. -/
theorem Relay.dropWaiter (h : Relay s) (k : Slot) : Relay (s.dropWaiter k) :=
  h.fewerWaits (State.dropWaiter_only k s) (fun _ => rfl) (fun _ => rfl) fun d => by
    rw [dropWaiter_waitsOf]; exact List.filter_sublist

/-- R39, R40: the wait place of a record's collector is removed. -/
theorem Relay.dropCollectorWait (h : Relay s) (r : Record) (g : Handle) : Relay (dropCollectorWait r g s) := by
  unfold Machine.dropCollectorWait
  cases r.collector with
  | none => exact h
  | some k =>
    refine h.fewerWaits (dropLiftWait_only k r.column g s) (fun _ => rfl) (fun _ => rfl) fun d => ?_
    unfold dropLiftWait
    rw [setWaitsOf_waitsOf_if]
    split
    · next e => subst e; exact List.filter_sublist
    · exact List.Sublist.refl _

/-! ### A record that stands is promised or parked (R29, R30) -/

theorem Sets.of_map {f : Record → Record} (he : ∀ j, t.entry j =
    if i = j then { s.entry j with live := (s.live j).map f } else s.entry j) (hr : s.live i = some r) :
    Sets i (some (f r)) s t := by
  refine Sets.of_entry (e := { s.entry i with live := some (f r) }) (fun j => ?_) fun _ => rfl
  rw [he]
  split
  · next hij => subst hij; rw [hr]; rfl
  · rfl

/-- One record of the column changes in the handoff table. -/
theorem Sets.beside (hs : Sets i o s t) (ho : OnlyChanges [.handoff, .notice] s t) (hr : s.live i = some r) (hrc : r.column = c)
    (hoc : ∀ q, o = some q → q.column = c) : Beside c s t := by
  have hlock := ho.lock (by decide)
  exact ⟨ho.line (by decide), mark_congr hlock, fun d _ => bay_of_rows (col_congr (ho.columns (by decide)) d)
    (lockOf_congr hlock d) (waitsOf_congr hlock d) (surveyor_congr (ho.survey (by decide)) d),
    fun d hd => hs.recIn_ne (column_of_live hr hrc) hoc hd⟩

/-- A standing record that nobody waits for and nobody lifts changes in place. -/
theorem Relay.restand (h : Relay s) (ho : OnlyChanges [.handoff, .notice] s t) (hs : Sets i (some q) s t)
    (hc : SameCounts s t) (hr : s.live i = some r) (hrs : r.state = .parked ∨ r.state = .promised)
    (hno : ∀ e ∈ s.waitsOf r.column, e.handle ≠ s.handleAt i) (hqc : q.column = r.column) (hqt : q.tag = r.tag)
    (hql : q.level = r.level) (hqr : q.reserves = false)
    (hq : RecordFits s.isLive (s.bay r.column) (s.handleAt i) r → RecordFits s.isLive (s.bay r.column) (s.handleAt i) q)
    (hbur : q.buried = s.isBuried q) : Relay t := by
  have hcol := col_congr (ho.columns (by decide))
  have hlock := ho.lock (by decide)
  have hbay : ∀ c, t.bay c = s.bay c := fun c =>
    bay_of_rows (hcol c) (lockOf_congr hlock c) (waitsOf_congr hlock c) (surveyor_congr (ho.survey (by decide)) c)
  have hrin := recIn_of_live hr rfl
  have hb := h.consistent.bays r.column
  have fr : Beside r.column s t := hs.beside ho hr rfl fun p hp => by cases hp; exact hqc
  refine ((h.but r.column).set fr hs (h.consistent.table.set hs hr hqt hc) hr rfl (fun p e => by cases e; exact hqc)
    (hs.reservations_kept h.consistent.reservations hr fun p e k hk => ?_) ?_ ?_ (by rw [hcol]) (by rw [hcol])
    (by rw [hcol]; exact id) fun p e => by cases e; exact hbur).relay (by rw [hbay]; exact h.scanned _)
  · cases e; exact Record.not_reservedBy hqr hk
  · simpa only [OnePosition, positions, lockOf_congr hlock, waitsOf_congr hlock] using h.consistent.positions
  · rw [hbay]
    refine hb.replace (fun l hl e => ?_) (fun e => ?_) hno (by rw [hrin]; exact hql) fun p hp => ?_
    · have h2 := (hb.lock l hl).2
      split at h2
      · next w g hw =>
        rw [hw] at e; cases e
        obtain ⟨-, p, hp, hps⟩ := h2
        rw [hrin] at hp; cases hp
        cases w <;> simp [busyState] at hps <;> simp [hps] at hrs
      · next hw => rw [hw] at e; cases e
    · obtain ⟨p, hp, hps⟩ := hb.stranded.2.2 _ e
      rw [hrin] at hp; cases hp
      simp [hps] at hrs
    · cases hp; exact hq (hb.records _ r hrin)

theorem RecordFits.stands_of_standing {L : Slot → Bool} {b : Bay} (hf : RecordFits L b h r)
    (hrs : r.state = .parked ∨ r.state = .promised) : b.Stands h r := by
  rcases hrs with hs | hs <;> simp only [RecordFits, hs] at hf <;> exact hf.1

/-- R30, R40, R121, R142, R145: a PROMISED record that nobody waits for becomes PARKED. -/
theorem Relay.park (h : Relay s) (hr : s.live i = some r) (hrs : r.state = .parked ∨ r.state = .promised)
    (hno : ∀ e ∈ s.waitsOf r.column, e.handle ≠ s.handleAt i) : Relay (parkRecord i s) := by
  refine h.restand ((parkRecord_only i s).mono (by decide)) (Sets.of_map (parkRecord_entry s i) hr)
    (parkRecord_counts s i) hr hrs hno rfl rfl rfl rfl (fun hf => ?_) rfl
  exact ⟨hf.stands_of_standing hrs, rfl, rfl⟩

/-- R30, R39, R140: a standing record that nobody waits for is promised to a LIVE slot. -/
theorem Relay.promise (h : Relay s) (hr : s.live i = some r) (hrs : r.state = .parked ∨ r.state = .promised)
    (hno : ∀ e ∈ s.waitsOf r.column, e.handle ≠ s.handleAt i) (hk : s.isLive k) : Relay (promiseRecord i k s) := by
  refine h.restand (promiseRecord_only i k s) (Sets.of_map (fun j => promiseRecord_entry s i j k) hr)
    (promiseRecord_counts s i k) hr hrs hno rfl rfl rfl rfl (fun hf => ?_) ?_
  · exact ⟨hf.stands_of_standing hrs, rfl, k, rfl, hk⟩
  · simp [State.isBuried, State.depth]

/-- Nobody waits for a PARKED record. -/
theorem Relay.not_awaited (h : Relay s) (hr : s.live i = some r) (h1 : r.state ≠ .reserved) (h2 : r.state ≠ .promised) :
    ∀ e ∈ s.waitsOf r.column, e.handle ≠ s.handleAt i :=
  (h.consistent.bays r.column).not_awaited (recIn_of_live hr rfl) h1 h2

/-- Who waits for a PROMISED record is its collector, for LIFT. -/
theorem Relay.awaits_promised (h : Relay s) (hr : s.live i = some r) (hs : r.state = .promised) {e : WaitEntry}
    (he : e ∈ s.waitsOf r.column) (hh : e.handle = s.handleAt i) : e.work = .lift ∧ r.collector = some e.slot := by
  obtain ⟨-, -, p, hp, ha⟩ := (h.consistent.bays r.column).waits e he
  rw [hh, recIn_of_live hr rfl] at hp; cases hp
  unfold Awaits at ha
  split at ha
  · rw [hs] at ha; cases ha.1
  · next hw => exact ⟨hw, ha.2⟩

end Sys2Proof.Machine
end

section
namespace Sys2Proof.Machine

open Sys2Proof.Safety Function

variable {s t u : State} {c d : Col} {g h : Handle} {r q : Record} {i j : RecIdx} {k : Slot} {o : Option Record} {w : Work}
  {l : Lock}

/-! ### Changes that the laws do not read -/

/-- The two states differ in nothing that the laws of the relay table read, but for those of the line's phase. -/
structure SameRows (s t : State) : Prop where
  link : ∀ k, (t.slot k).link = (s.slot k).link
  robot : ∀ k, (t.slot k).robotId = (s.slot k).robotId
  miss : ∀ k, (s.slot k).link = .vacant → (t.slot k).miss = (s.slot k).miss
  col : ∀ c, t.col c = s.col c
  lock : ∀ c, t.lockOf c = s.lockOf c
  waits : ∀ c, t.waitsOf c = s.waitsOf c
  mark : ∀ k, t.mark k = s.mark k
  surveyor : ∀ c, t.surveyor c = s.surveyor c
  handoff : t.handoff = s.handoff

/-- The line and the tables of the relay are as they were. -/
theorem SameRows.of_tables (hline : t.line = s.line) (hcols : t.columns = s.columns) (hrecs : t.handoff = s.handoff)
    (hlocks : t.lock = s.lock) (hsurvey : t.survey.surveyors = s.survey.surveyors) : SameRows s t := by
  have hslot := slot_congr hline
  exact ⟨fun k => by rw [hslot], fun k => by rw [hslot], fun k _ => by rw [hslot], col_congr hcols, lockOf_congr hlocks,
    waitsOf_congr hlocks, mark_congr hlocks, fun c => congrArg (·[c]) hsurvey, hrecs⟩

theorem SameRows.of_only (ho : OnlyChanges [.power, .port, .notice, .placement, .age, .manifest] s t) : SameRows s t :=
  .of_tables (ho.line (by decide)) (ho.columns (by decide)) (ho.handoff (by decide)) (ho.lock (by decide))
    (congrArg SurveyUnit.surveyors (ho.survey (by decide)))

/-- A change of the slots that leaves link, robot id and the miss counts of VACANT slots. -/
theorem SameRows.of_line (ho : OnlyChanges [.line, .notice] s t) (hl : ∀ k, (t.slot k).link = (s.slot k).link)
    (hr : ∀ k, (t.slot k).robotId = (s.slot k).robotId)
    (hm : ∀ k, (s.slot k).link = .vacant → (t.slot k).miss = (s.slot k).miss) : SameRows s t := by
  have hlock := ho.lock (by decide)
  exact ⟨hl, hr, hm, col_congr (ho.columns (by decide)), lockOf_congr hlock, waitsOf_congr hlock, mark_congr hlock,
    surveyor_congr (ho.survey (by decide)), ho.handoff (by decide)⟩

theorem SameRows.bay (h : SameRows s t) (c : Col) : t.bay c = s.bay c :=
  bay_of_rows (h.col c) (h.lock c) (h.waits c) (h.surveyor c)

theorem SameRows.isLive (h : SameRows s t) : t.isLive = s.isLive := by
  funext k; simp only [State.isLive, h.link]

theorem SameRows.recIn (h : SameRows s t) : t.recIn = s.recIn := by
  funext d g; simp only [State.recIn, named_congr h.handoff]

theorem Relay.sameRows (h : Relay s) (hs : SameRows s t) : Relay t := by
  have hlive := live_congr hs.handoff
  have hcons := h.consistent
  refine ⟨⟨?_, ?_, ?_, ?_, ?_, fun d => ?_⟩, fun d => ?_, fun d => ?_, ?_⟩
  · exact hcons.table.of_tags (fun i => by rw [hlive]) ⟨by rw [hs.handoff], by rw [hs.handoff]⟩
  · obtain ⟨h1, h2, h3⟩ := hcons.slots
    refine ⟨fun k => by rw [hs.link, hs.robot]; exact h1 k, fun k hk => ?_, fun j k => by
      rw [hs.link, hs.link, hs.robot, hs.robot]; exact h3 j k⟩
    rw [hs.link] at hk
    rw [hs.miss k hk]; exact h2 k hk
  · simpa only [OnePosition, positions, hs.lock, hs.waits] using hcons.positions
  · simpa only [hs.mark, hs.isLive] using hcons.marks
  · exact reservations_mono hcons.reservations fun i r k hr hk => ⟨r, by rw [← hlive]; exact hr, hk⟩
  · rw [hs.bay, hs.recIn, hs.isLive]; exact hcons.bays d
  · rw [hs.bay]; exact h.scanned d
  · exact (h.loads d).of_le (binsOf_le fun i r hr hrc => ⟨r, by rw [← hlive]; exact hr, hrc⟩) (by rw [hs.col]) (by rw [hs.col]; exact id)
  · intro i r hr
    rw [hlive] at hr
    rw [isBuried_of_column (s := s) (t := t) (by rw [hs.col])]
    exact h.buried i r hr

/-! ### Expired marks -/

/-- R112: the expired mark of a LIVE slot is set, or one is cleared. -/
theorem Relay.setMark (h : Relay s) {m : Option Col} (hm : m = none ∨ s.isLive k) : Relay (s.setMark k m) := by
  have hcons := h.consistent
  refine ⟨⟨hcons.table.of_tags (fun _ => rfl) ⟨rfl, rfl⟩, hcons.slots, hcons.positions, fun j hj => ?_, hcons.reservations, hcons.bays⟩, h.scanned, h.loads, h.buried⟩
  rw [setMark_mark_if] at hj
  split at hj
  · next e =>
    subst e
    rcases hm with rfl | hm
    · cases hj
    · exact hm
  · exact hcons.marks j hj

/-! ### One column changed -/

theorem Beside.of_rows (ho : OnlyChanges [.power, .port, .notice, .placement, .age, .manifest, .columns, .lock, .survey, .handoff] s t)
    (hmark : ∀ k, t.mark k = s.mark k) (hcol : ∀ d, d ≠ c → t.col d = s.col d) (hlock : ∀ d, d ≠ c → t.lockOf d = s.lockOf d)
    (hwaits : ∀ d, d ≠ c → t.waitsOf d = s.waitsOf d) (hsurv : ∀ d, d ≠ c → t.surveyor d = s.surveyor d)
    (hrecs : ∀ d, d ≠ c → t.recIn d = s.recIn d) : Beside c s t :=
  ⟨ho.line (by decide), hmark, fun d hd => bay_of_rows (hcol d hd) (hlock d hd) (hwaits d hd) (hsurv d hd), hrecs⟩

/-! ### Grant (R66) -/

/-- A record as a grant leaves it. -/
def Record.granted (w : Work) (r : Record) : Record :=
  match w with
  | .place => { r with state := .placing }
  | .lift => { r with state := .lifting, buried := false }

theorem grant_sets (hr : s.live h.idx = some r) (c : Col) (k : Slot) :
    Sets h.idx (some (r.granted w)) s (grant c k (.work w h) s) :=
  Sets.of_map (f := Record.granted w) (fun j => grant_entry s c k w h j) hr

theorem grant_bay (c d : Col) (k : Slot) (w : Hold) : (grant c k w s).bay d =
    if c = d then { s.bay d with lock := some ⟨k, w, s.lock.limitOf w, s.now⟩ } else s.bay d := by
  have ho := grant_only c k w s
  simp only [State.bay, col_congr (ho.columns (by decide)), surveyor_congr (ho.survey (by decide)), grant_waitsOf, grant_lockOf]
  split <;> rfl

theorem Awaits.slot_eq {w' : Work} {k' : Slot} (h : Awaits k w r) (h' : Awaits k' w' r) : k = k' := by
  unfold Awaits at h h'
  split at h <;> split at h' <;> simp_all

/-- A slot that a record fits becomes holder of a free lock (R66); the other positions stay. -/
theorem grant_positions (hp : OnePosition s) (hl : s.lockOf c = none) (hk : k ∉ positions s) (w : Hold) :
    OnePosition (grant c k w s) := by
  have hin : ∀ d, positionsIn (grant c k w s) d = if c = d then k :: positionsIn s d else positionsIn s d := fun d => by
    simp only [positionsIn, grant_lockOf, grant_waitsOf]
    split
    · next e => subst e; simp [hl]
    · rfl
  have hkc : k ∉ positionsIn s c := fun hm => hk (by
    rw [mem_positions]
    rcases mem_positionsIn.1 hm with ⟨l, hl, e⟩ | ⟨x, hx, e⟩
    · exact .inl ⟨c, l, hl, e⟩
    · exact .inr ⟨c, x, hx, e⟩)
  refine positions_column_changed (c := c) hp (fun d hd => by rw [hin, if_neg (Ne.symm hd)]) (fun d _ => grant_waitsOf s c d k w)
    ?_ (fun j hj => ?_) (by rw [grant_waitsOf]; exact hp.2 c)
  · rw [hin, if_pos rfl]
    exact List.nodup_cons.2 ⟨hkc, positionsIn_nodup hp c⟩
  · rw [hin, if_pos rfl, List.mem_cons] at hj
    rcases hj with rfl | hj
    · exact .inr hk
    · exact .inl hj

theorem RelayBut.grant (hs : RelayBut c s) (hl : s.lockOf c = none) (hin : (s.bay c).inService) (hk : s.isLive k)
    (hnp : k ∉ positions s) (hr : s.recIn c h = some r) (ha : Awaits k w r) (htop : w = .lift → s.top c = some h) :
    Relay (grant c k (.work w h) s) := by
  obtain ⟨hlive, hh, hrc⟩ := recIn_live hr
  have ho := grant_only c k (.work w h) s
  have hsets := grant_sets (w := w) hlive c k
  have hcol := col_congr (ho.columns (by decide))
  have hb := hs.consistent.bays c
  have fr : Beside c s (Machine.grant c k (.work w h) s) := ⟨ho.line (by decide), fun j => grant_mark s c j k _,
    fun d hd => by rw [grant_bay, if_neg (Ne.symm hd)],
    fun d hd => hsets.recIn_ne (column_of_live hlive hrc) (fun p hp => by cases hp; cases w <;> exact hrc) hd⟩
  have hno : ∀ e ∈ s.waitsOf c, e.handle ≠ h := by
    rintro e he rfl
    obtain ⟨-, -, p, hp, hpa⟩ := hb.waits e he
    rw [hr] at hp; cases hp
    exact hnp (mem_positions.2 (.inr ⟨c, e, he, hpa.slot_eq ha⟩))
  have hrf := hb.records h r hr
  refine (hs.set fr hsets (hs.consistent.table.set hsets hlive (by cases w <;> rfl) (grant_counts s c k _)) hlive hrc
    (fun q e => ?_) (hsets.reservations_kept hs.consistent.reservations hlive fun q e j hj => ?_)
    (grant_positions hs.consistent.positions hl hnp _) ?_ (by rw [hcol]) (by rw [hcol]) (by rw [hcol]; exact id)
    fun q e => ?_).relay ?_
  · cases e; cases w <;> exact hrc
  · cases e
    cases w <;> simp only [Awaits] at ha <;> simp [Record.reservedBy, Record.reserves, Record.granted] at hj ⊢
    exact ⟨.inl ha.1, of_decide_eq_true hj⟩
  · rw [grant_bay, if_pos rfl, hh]
    refine hb.beginWork hl hin (w := w) rfl hk hno ?_ ?_ ?_
    · rw [hr]; cases w <;> rfl
    · cases w <;> rfl
    · cases w <;> simp only [Awaits] at ha <;> simp only [RecordFits, ha.1] at hrf <;> simp only [RecordFits, Record.granted]
      · exact ⟨hrf.1, hrf.2.1, hrf.2.2.1, _, rfl, rfl, ha.2⟩
      · exact ⟨hrf.1, hrf.2.1, htop rfl, _, rfl, rfl, ha.2⟩
  · cases e
    cases w
    · simp only [Awaits] at ha
      simp only [Record.granted, hs.buried _ r hlive, State.isBuried, ha.1]
      simp
    · simp [Record.granted, State.isBuried]
  · intro hn
    rw [grant_bay, if_pos rfl] at hn; cases hn

/-! ### Scan (R70) -/

theorem erased_not_mem {e : WaitEntry} {n : Nat} (hp : OnePosition s) (he : (s.waitsOf c)[n]? = some e) :
    e.slot ∉ positions (s.setWaitsOf c ((s.waitsOf c).eraseIdx n)) := by
  have hmem := List.mem_of_getElem? he
  obtain ⟨hlt, hn⟩ := List.getElem?_eq_some_iff.1 he
  intro hm
  rcases mem_positions.1 hm with ⟨d, l, hl, hk⟩ | ⟨d, x, hx, hk⟩
  · exact holding_eq_none.1 (holding_of_waiter hp hmem rfl) d l hl hk
  · have hxd : x ∈ s.waitsOf d := by
      rw [setWaitsOf_waitsOf_if] at hx
      split at hx
      · next e => subst e; exact List.mem_of_mem_eraseIdx hx
      · exact hx
    have := positions_column hp (waiter_mem hmem rfl) (waiter_mem hxd hk)
    subst this
    rw [setWaitsOf_waitsOf_if, if_pos rfl] at hx
    have hnd : ((s.waitsOf c).map (·.slot)).Nodup := (List.nodup_append.1 (positionsIn_nodup hp c)).2.1
    have hperm := (List.getElem_cons_eraseIdx_perm hlt).map (·.slot)
    rw [← hperm.nodup_iff, List.map_cons, List.nodup_cons, hn] at hnd
    exact hnd.1 (List.mem_map.2 ⟨x, hx, hk⟩)

/-- R70, R71: after the scan of its wait list, with its lock free, a column has no waiter that is possible. -/
theorem RelayBut.scan (hs : RelayBut c s) (hl : s.lockOf c = none) : Relay (scan c s) := by
  cases hf : (s.waitsOf c).find? (s.possible c) with
  | none =>
    rw [scan_none s hf]
    refine hs.relay fun _ e he => ?_
    have := List.find?_eq_none.1 hf e he
    simp only [State.possible, Bool.or_eq_true, decide_eq_true_eq, not_or] at this
    obtain ⟨hw, ht⟩ := this
    refine ⟨?_, ht⟩
    cases hwk : e.work with
    | place => exact absurd hwk hw
    | lift => rfl
  | some e =>
    rw [scan_some s hf]
    have hmem := List.mem_of_find?_eq_some hf
    have hget : (s.waitsOf c)[(s.waitsOf c).findIdx (s.possible c)]? = some e := by
      rw [← List.find?_eq_getElem?_findIdx]; exact hf
    obtain ⟨hk, hin, r, hr, ha⟩ := (hs.consistent.bays c).waits e hmem
    have hposs := List.find?_some hf
    have hu := hs.fewerWaits (t := s.setWaitsOf c ((s.waitsOf c).eraseIdx ((s.waitsOf c).findIdx (s.possible c))))
      (setWaitsOf_only c _ s) (fun d => by simp) (fun j => by simp) fun d => by
        rw [setWaitsOf_waitsOf_if]
        split
        · next e => subst e; exact List.eraseIdx_sublist _ _
        · exact List.Sublist.refl _
    refine hu.grant (r := r) (by simpa using hl) (by simpa [State.bay, Bay.inService] using hin) hk
      (erased_not_mem hs.consistent.positions hget) hr ha fun hw => ?_
    have htop : s.top c = some e.handle := by simpa [State.possible, hw] using hposs
    simpa [State.top] using htop

end Sys2Proof.Machine
end

section
namespace Sys2Proof.Machine

open Sys2Proof.Safety Function

variable {s t u : State} {c d : Col} {g h : Handle} {r q : Record} {i j : RecIdx} {k : Slot} {o : Option Record} {w : Work}
  {l : Lock}

/-! ### The end of a lock -/

theorem positions_unlock (hp : OnePosition s) (hl : ∀ d, t.lockOf d = if c = d then none else s.lockOf d)
    (hw : ∀ d, (t.waitsOf d).Sublist (s.waitsOf d)) : OnePosition t := by
  refine positions_sublist hp (fun d => ?_) fun d => (hw d).length_le
  unfold positionsIn
  rw [hl]
  split
  · simp only [Option.map_none, Option.toList_none, List.nil_append]
    exact ((hw d).map _).trans (List.sublist_append_right _ _)
  · exact ((hw d).map _).append_left _

theorem endLock_beside (c : Col) (s : State) : Beside c s (endLock c s) :=
  ⟨rfl, fun _ => rfl, fun d hd => bay_of_rows rfl (by rw [endLock_lockOf, if_neg (Ne.symm hd)]) rfl rfl, fun _ _ => rfl⟩

/-- The work that a lock is held for, with its record. -/
theorem RelayBut.worked (hs : RelayBut c s) (hl : s.lockOf c = some l) (hw : l.hold = .work w h) :
    (s.bay c).inService ∧ ∃ r, s.recIn c h = some r ∧ r.state = busyState w := by
  have := ((hs.consistent.bays c).lock l hl).2
  simpa only [hw] using this

/-- What a record that is being worked on keeps while its lock is held. -/
theorem RelayBut.workedFits (hs : RelayBut c s) (hl : s.lockOf c = some l) (hr : s.recIn c h = some r)
    (hst : r.state = busyState w) : match w with
      | .place => r.level = none ∧ r.collector = none ∧ r.strandedFrom = none ∧ r.releaser = some l.holder
      | .lift => (s.bay c).Stands h r ∧ r.strandedFrom = none ∧ s.top c = some h ∧ r.collector = some l.holder := by
  have hrf := (hs.consistent.bays c).records h r hr
  cases w <;> simp only [busyState] at hst <;> simp only [RecordFits, hst] at hrf
  · obtain ⟨h1, h2, h3, l', hl', -, hk⟩ := hrf
    rw [show (s.bay c).lock = some l from hl] at hl'; cases hl'
    exact ⟨h1, h2, h3, hk⟩
  · obtain ⟨h1, h2, h3, l', hl', -, hk⟩ := hrf
    rw [show (s.bay c).lock = some l from hl] at hl'; cases hl'
    exact ⟨h1, h2, h3, hk⟩

/-- A lock's work ends with its record kept, in place or in hand. -/
theorem RelayBut.endWork (hs : RelayBut c s) (hl : s.lockOf c = some l) (hw : l.hold = .work w h)
    (hr : s.recIn c h = some r) (ho : OnlyChanges [.handoff, .notice, .lock] s t) (hsets : Sets h.idx (some q) s t)
    (hc : SameCounts s t) (htl : ∀ d, t.lockOf d = if c = d then none else s.lockOf d)
    (htw : ∀ d, t.waitsOf d = s.waitsOf d) (htm : ∀ k, t.mark k = s.mark k) (hqc : q.column = r.column) (hqt : q.tag = r.tag)
    (hql : q.level = r.level) (hres : ∀ k, q.reservedBy k → r.reservedBy k)
    (hq : RecordFits s.isLive { s.bay c with lock := none } h q) (hbur : q.buried = s.isBuried q) : RelayBut c t := by
  obtain ⟨hlive, hh, hrc⟩ := recIn_live hr
  have hcol := col_congr (ho.columns (by decide))
  have hsv := surveyor_congr (ho.survey (by decide))
  have fr : Beside c s t := Beside.of_rows (ho.mono (by decide)) htm (fun d _ => hcol d)
    (fun d hd => by rw [htl, if_neg (Ne.symm hd)]) (fun d _ => htw d) (fun d _ => hsv d)
    (fun d hd => hsets.recIn_ne (column_of_live hlive hrc) (fun p hp => by cases hp; exact hqc.trans hrc) hd)
  have hbay : t.bay c = { s.bay c with lock := none } := by
    simp only [State.bay, hcol, htl, htw, hsv, if_true]
  refine hs.set fr hsets (hs.consistent.table.set hsets hlive hqt hc) hlive hrc (fun p e => by cases e; exact hqc.trans hrc)
    (hsets.reservations_kept hs.consistent.reservations hlive fun p e => by cases e; exact hres)
    (positions_unlock hs.consistent.positions htl fun d => by rw [htw d]) ?_ (by rw [hcol]) (by rw [hcol])
    (by rw [hcol]; exact id) fun p e => by cases e; exact hbur
  rw [hbay, hh]
  exact (hs.consistent.bays c).endWork hl hw (by rw [hr]; exact hql) fun p hp => by cases hp; exact hq

/-! ### YIELD of a held lock (R142 case 3) -/

/-- A record as the release of its lock leaves it. -/
def Record.returned (s : State) (w : Work) (r : Record) : Record :=
  match w with
  | .place => { r with state := .reserved, level := none, strandedFrom := none }
  | .lift => { r with state := .promised, buried := (s.depth r).any (0 < ·) }

theorem returnWork_entry (w : Work) (i j : RecIdx) : (returnWork w i s).entry j =
    if i = j then { s.entry j with live := (s.live j).map (Record.returned s w) } else s.entry j := by
  cases w with
  | place => exact reserveRecord_entry s i j
  | lift =>
    simp only [returnWork]
    rw [refreshBuried_entry, updRec_entry, updRec_live]
    by_cases hij : i = j
    · simp only [hij, if_true, Option.map_map]
      congr 2
      funext r
      simp [Record.returned, State.isBuried, State.depth]
    · simp [hij]

theorem returnWork_counts (w : Work) (i : RecIdx) : SameCounts s (returnWork w i s) := by
  cases w with
  | place => exact reserveRecord_counts s i
  | lift =>
    exact ⟨(refreshBuried_counts _ i).1.trans (updRec_counts s i _).1, (refreshBuried_counts _ i).2.trans (updRec_counts s i _).2⟩

/-- R142 case 3: the record of a released lock waits again, for placement or for its collector. -/
theorem RelayBut.release (hs : RelayBut c s) (hl : s.lockOf c = some l) (hw : l.hold = .work w h) :
    RelayBut c (endLock c (returnWork w h.idx s)) := by
  obtain ⟨hin, r, hr, hst⟩ := hs.worked hl hw
  obtain ⟨hlive, hh, hrc⟩ := recIn_live hr
  have hk : s.isLive l.holder := ((hs.consistent.bays c).lock l hl).1
  have hf := hs.workedFits hl hr hst
  have how := returnWork_only w h.idx s
  have ho : OnlyChanges [.handoff, .notice, .lock] s (endLock c (returnWork w h.idx s)) :=
    (how.mono (by decide)).trans ((endLock_only c _).mono (by decide))
  have hlock := how.lock (by decide)
  refine hs.endWork (q := r.returned s w) hl hw hr ho (Sets.of_map (f := Record.returned s w) (fun j => returnWork_entry w h.idx j) hlive)
    (returnWork_counts w h.idx) (fun d => by rw [endLock_lockOf, lockOf_congr hlock]) (fun d => waitsOf_congr hlock d)
    (fun j => mark_congr hlock j) ?_ ?_ ?_ (fun j hj => ?_) ?_ ?_
  · cases w <;> rfl
  · cases w <;> rfl
  · cases w <;> simp only at hf
    · exact hf.1.symm
    · rfl
  · cases w
    · simp only [Record.reservedBy, Record.reserves, Record.returned, busyState] at hj hst ⊢
      simp only [hst] at hj ⊢
      exact hj
    · exact Record.not_reservedBy rfl hj
  · cases w <;> simp only at hf
    · exact ⟨rfl, hf.2.1, rfl, _, hf.2.2.2, hk⟩
    · exact ⟨hf.1, hf.2.1, _, hf.2.2.2, hk⟩
  · cases w <;> simp only at hf
    · simp [Record.returned, State.isBuried, hs.buried _ r hlive, hst, busyState]
    · simp [Record.returned, State.isBuried, State.depth]

/-! ### Stranding (R147) -/

theorem robotId_of_live (hs : SlotsInForm s) (hk : s.isLive k) : (s.slot k).robotId.isSome := by
  rw [Option.isSome_iff_ne_none]
  intro hn
  rw [← hs.1 k] at hn
  simp [State.isLive, hn] at hk

theorem strand_bay (c d : Col) (k : Slot) (w : Work) (h : Handle) : (strand c k w h s).bay d =
    if c = d then ⟨(s.col d).suspected h (s.slot k).robotId, none, [], s.surveyor d⟩ else s.bay d := by
  have ho := strand_only c k w h s
  simp only [State.bay, strand_col, surveyor_congr (ho.survey (by decide)), strand_lockOf, strand_waitsOf]
  split <;> rfl

/-- A record as its stranding leaves it. -/
def Record.beached (w : Work) (r : Record) : Record :=
  { r with state := .stranded, strandedFrom := some w.strandedFrom, buried := false }

theorem RelayBut.strand (hs : RelayBut c s) (hl : s.lockOf c = some l) (hw : l.hold = .work w h) :
    Relay (strand c l.holder w h s) := by
  obtain ⟨hin, r, hr, hst⟩ := hs.worked hl hw
  obtain ⟨hlive, hh, hrc⟩ := recIn_live hr
  have hk : s.isLive l.holder := ((hs.consistent.bays c).lock l hl).1
  have hf := hs.workedFits hl hr hst
  have hsets : Sets h.idx (some (r.beached w)) s (Machine.strand c l.holder w h s) :=
    Sets.of_map (f := Record.beached w) (fun j => strand_entry s c l.holder w h j) hlive
  have ho := strand_only c l.holder w h s
  have hcol := fun d => strand_col s c d l.holder w h
  have fr : Beside c s (Machine.strand c l.holder w h s) := ⟨ho.line (by decide), fun j => strand_mark s c j _ w h,
    fun d hd => by rw [strand_bay, if_neg (Ne.symm hd)],
    fun d hd => hsets.recIn_ne (column_of_live hlive hrc) (fun p hp => by cases hp; exact hrc) hd⟩
  refine (hs.set fr hsets (hs.consistent.table.set hsets hlive rfl (strand_counts s c _ w h)) hlive hrc
    (fun p e => by cases e; exact hrc) (hsets.reservations_kept hs.consistent.reservations hlive fun p e j hj => ?_)
    (positions_unlock hs.consistent.positions (fun d => strand_lockOf s c d _ w h) fun d => ?_) ?_ ?_ ?_ (fun hv => ?_)
    fun p e => ?_).relay ?_
  · cases e; exact Record.not_reservedBy rfl hj
  · rw [strand_waitsOf]; split
    · exact List.nil_sublist _
    · exact List.Sublist.refl _
  · rw [strand_bay, if_pos rfl, hh]
    refine (hs.consistent.bays c).strand hl hw (robotId_of_live hs.consistent.slots hk) (by rw [hr]; rfl) rfl ?_
    cases w <;> simp only at hf <;> simp only [RecordFits, Record.beached, Work.strandedFrom]
    · exact ⟨rfl, hf.1, hf.2.1, by rw [hf.2.2.2]; rfl⟩
    · exact ⟨rfl, hf.1, hf.2.2.1, by rw [hf.2.2.2]; rfl⟩
  · rw [hcol, if_pos rfl]
  · rw [hcol, if_pos rfl]
  · rw [hcol, if_pos rfl] at hv; simp at hv
  · cases e; simp [Record.beached, State.isBuried]
  · rw [strand_bay, if_pos rfl]; exact nofun

/-! ### The SURVEY lock (R65, R69, R143) -/

/-- A SURVEY lock ends, or one is taken where the lock is free. -/
theorem Relay.relock (hs : Relay s) (hl : ∀ l, s.lockOf c = some l → l.hold = .survey) {o : Option Lock}
    (ho : ∀ l, o = some l → LockFits s.isLive (s.recIn c) (s.bay c) l ∧ (s.lockOf c = none ∧ l.holder ∉ positions s))
    (hx : (s.bay c).column.service = .suspect) : Relay (s.setLockOf c o) := by
  have honly := setLockOf_only c o s
  have hb := hs.consistent.bays c
  have hwaits : s.waitsOf c = [] := (hb.idle fun h => h.quiet (.inl hx)).1
  have hrec : (s.setLockOf c o).recIn = s.recIn := by
    funext d g; simp only [State.recIn, named_congr (honly.handoff (by decide))]
  have hbay : (s.setLockOf c o).bay c = { s.bay c with lock := o } := by simp [State.bay]
  have fr : Beside c s (s.setLockOf c o) := Beside.of_rows (honly.mono (by decide)) (fun j => by simp) (fun d _ => by simp)
    (fun d hd => by rw [setLockOf_lockOf_if, if_neg (Ne.symm hd)]) (fun d _ => by simp) (fun d _ => by simp)
    (fun d _ => by rw [hrec])
  refine ((hs.but c).of_beside fr (hs.consistent.table.of_tags (fun _ => rfl) ⟨rfl, rfl⟩) ?_ hs.consistent.reservations ?_
    (hs.loads c) (buriedFit_iff.1 hs.buried c)).relay ?_
  · cases o with
    | none => exact positions_unlock hs.consistent.positions (fun d => setLockOf_lockOf_if ..) fun d => by simp
    | some l =>
      obtain ⟨-, hfree, hnp⟩ := ho l rfl
      have := grant_positions (k := l.holder) hs.consistent.positions hfree hnp l.hold
      simpa only [OnePosition, positions, grant_lockOf, grant_waitsOf, setLockOf_lockOf_if, setLockOf_waitsOf, apply_ite, Option.map_some,
        Option.map_none] using this
  · rw [hbay, hrec]
    exact hb.relock hl fun l e => (ho l e).1
  · rw [hbay]
    intro _ e he
    change e ∈ s.waitsOf c at he
    rw [hwaits] at he; cases he

/-- The lock of a column that is SUSPECT ends: it is one for SURVEY. -/
theorem Relay.endSurvey (hs : Relay s) (hl : s.lockOf c = some l) (hw : l.hold = .survey) : Relay (endLock c s) := by
  have h2 := ((hs.consistent.bays c).lock l hl).2
  rw [hw] at h2
  exact hs.relock (o := none) (fun l' hl' => by rw [hl] at hl'; cases hl'; exact hw) nofun h2.1

/-- R69, R147: a held lock ends without a completion report. -/
theorem Relay.breakLock (hs : Relay s) (c : Col) : Relay (breakLock c s) := by
  unfold Machine.breakLock
  split
  · exact hs
  · next l hl =>
    split
    · next w h hw => exact (hs.but c).strand hl hw
    · next hw => exact hs.endSurvey hl hw

/-- R74, R76: a lock expires. -/
theorem Relay.expireLock (hs : Relay s) (c : Col) : Relay (expireLock c s) := by
  unfold Machine.expireLock
  split
  · exact hs
  · next l hl =>
    refine (hs.breakLock c).setMark (.inr ?_)
    rw [breakLock_isLive]
    exact ((hs.consistent.bays c).lock l hl).1

/-- R65: the designated surveyor of a SUSPECT column, with no position, takes its lock. -/
theorem Relay.grantSurvey (hs : Relay s) (hx : (s.col c).service = .suspect) (hv : s.surveyor c = some k)
    (hk : k ∉ positions s) : Relay (Machine.grant c k .survey s) := by
  have hb := hs.consistent.bays c
  have hsurv := (hb.idle fun h => h.quiet (.inl hx)).2
  have hfree : s.lockOf c = none := by
    by_contra hne
    obtain ⟨l, hl⟩ := Option.ne_none_iff_exists'.1 hne
    have h2 := (hb.lock l hl).2
    rw [hsurv l hl] at h2
    have h3 : s.surveyor c = some l.holder := h2.2
    rw [hv] at h3; cases h3
    exact hk (mem_positions.2 (.inl ⟨c, l, hl, rfl⟩))
  rw [grant_survey_eq]
  exact hs.relock hsurv (fun l e => by cases e; exact ⟨⟨(hb.surveyor k hv).1, hx, hv⟩, hfree, hk⟩) hx

end Sys2Proof.Machine
end

section
namespace Sys2Proof.Machine

open Sys2Proof.Safety Function

variable {s t u : State} {c d : Col} {g h : Handle} {r q : Record} {i j : RecIdx} {k : Slot} {o : Option Record} {w : Work}
  {l : Lock}

/-! ### A wait place is taken (R67) -/

theorem Relay.enqueue (hs : Relay s) {e : WaitEntry} (hl : s.lockOf c = some l) (hlen : (s.waitsOf c).length < 4)
    (hk : e.slot ∉ positions s) (he : WaitFits s.isLive (s.recIn c) (s.bay c) e) :
    Relay (s.setWaitsOf c (s.waitsOf c ++ [e])) := by
  have honly := setWaitsOf_only c (s.waitsOf c ++ [e]) s
  have hrec : (s.setWaitsOf c (s.waitsOf c ++ [e])).recIn = s.recIn := by
    funext d g; simp only [State.recIn, named_congr (honly.handoff (by decide))]
  have hbay : (s.setWaitsOf c (s.waitsOf c ++ [e])).bay c = { s.bay c with waits := s.waitsOf c ++ [e] } := by simp [State.bay]
  have fr : Beside c s (s.setWaitsOf c (s.waitsOf c ++ [e])) := Beside.of_rows (honly.mono (by decide)) (fun j => by simp)
    (fun d _ => by simp) (fun d _ => by simp) (fun d hd => by rw [setWaitsOf_waitsOf_if, if_neg (Ne.symm hd)])
    (fun d _ => by simp) (fun d _ => by rw [hrec])
  have hpos : positionsIn (s.setWaitsOf c (s.waitsOf c ++ [e])) c = positionsIn s c ++ [e.slot] := by
    simp [positionsIn]
  have hkc : e.slot ∉ positionsIn s c := fun hm => hk (by
    rw [mem_positions]
    rcases mem_positionsIn.1 hm with ⟨l, hl, e⟩ | ⟨x, hx, e⟩
    · exact .inl ⟨c, l, hl, e⟩
    · exact .inr ⟨c, x, hx, e⟩)
  refine ((hs.but c).of_beside fr (hs.consistent.table.of_tags (fun _ => rfl) ⟨rfl, rfl⟩) ?_ hs.consistent.reservations ?_
    (hs.loads c) (buriedFit_iff.1 hs.buried c)).relay ?_
  · refine positions_column_changed (c := c) hs.consistent.positions (fun d hd => ?_)
      (fun d hd => by rw [setWaitsOf_waitsOf_if, if_neg (Ne.symm hd)]) ?_ (fun j hj => ?_) (by simp; omega)
    · simp [positionsIn, setWaitsOf_waitsOf_if, Ne.symm hd]
    · rw [hpos]
      exact (positionsIn_nodup hs.consistent.positions c).append (List.nodup_singleton _) (by simpa using hkc)
    · rw [hpos, List.mem_append, List.mem_singleton] at hj
      exact hj.imp_right fun e' => by rw [e']; exact hk
  · rw [hbay, hrec]
    exact (hs.consistent.bays c).rewait fun x hx => (List.mem_append.1 hx).imp_right fun hx => by
      rw [List.mem_singleton.1 hx]; exact he
  · rw [hbay]
    intro hn
    change s.lockOf c = none at hn
    rw [hl] at hn; cases hn

/-! ### Retirement of a reservation (R34) -/

theorem retire_sets (hr : s.live i = some r) (x : Retirement) : Sets i none s (retire i x s) :=
  Sets.of_entry (fun j => retire_entry s hr x j) nofun

theorem retire_bay (hr : s.live i = some r) (x : Retirement) (c : Col) : (retire i x s).bay c =
    { s.bay c with waits := if r.column = c then (s.waitsOf c).filter fun e => e.handle ≠ s.handleAt i else s.waitsOf c } := by
  have ho := retire_only i x s
  simp only [State.bay, col_congr (ho.columns (by decide)), surveyor_congr (ho.survey (by decide)), retire_waitsOf s hr,
    retire_lockOf]

theorem retire_waits_sublist (i : RecIdx) (x : Retirement) (c : Col) : ((retire i x s).waitsOf c).Sublist (s.waitsOf c) := by
  cases hr : s.live i with
  | none => rw [retire_none s hr]
  | some r =>
    rw [retire_waitsOf s hr]
    split
    · exact List.filter_sublist
    · exact List.Sublist.refl _

theorem retire_waits_nil (x : Retirement) (hw : s.waitsOf c = []) : (retire i x s).waitsOf c = [] :=
  List.sublist_nil.1 (hw ▸ retire_waits_sublist i x c)

theorem retire_beside (hr : s.live i = some r) (hrc : r.column = c) (x : Retirement) : Beside c s (retire i x s) :=
  ⟨(retire_only i x s).line (by decide), fun k => retire_mark s i x k,
    fun d hd => by rw [retire_bay hr, if_neg (by rw [hrc]; exact Ne.symm hd)]; rfl,
    fun d hd => (retire_sets hr x).recIn_ne (column_of_live hr hrc) (by simp) hd⟩

/-- A record that is RESERVED is named by no lock and no stranding. -/
theorem BayFits.waiting_unnamed {L : Slot → Bool} {R : Records} {b : Bay} (hb : BayFits L R b) (hr : R h = some r)
    (hst : r.state = .reserved ∨ r.state = .parked ∨ r.state = .promised) :
    (∀ l, b.lock = some l → l.hold.handle ≠ some h) ∧ b.column.stranded ≠ some h := by
  refine ⟨fun l hl e => ?_, fun e => ?_⟩
  · have h2 := (hb.lock l hl).2
    split at h2
    · next w g hw =>
      rw [hw] at e; cases e
      obtain ⟨-, p, hp, hps⟩ := h2
      rw [hr] at hp; cases hp
      cases w <;> simp [busyState] at hps <;> simp [hps] at hst
    · next hw => rw [hw] at e; cases e
  · obtain ⟨p, hp, hps⟩ := hb.stranded.2.2 _ e
    rw [hr] at hp; cases hp
    simp [hps] at hst

theorem Relay.retireReserved (hs : Relay s) (hr : s.live i = some r) (hst : r.state = .reserved) (x : Retirement) :
    Relay (retire i x s) := by
  have ho := retire_only i x s
  have hsets := retire_sets hr x
  have hcol := col_congr (ho.columns (by decide))
  have hbay := fun d => retire_bay hr x d
  have hb := hs.consistent.bays r.column
  have hrin := recIn_of_live hr rfl
  have hrf := hb.records _ r hrin
  simp only [RecordFits, hst] at hrf
  refine ((hs.but r.column).set (retire_beside hr rfl x) hsets (hs.consistent.table.retire i x) hr rfl (by simp)
    (hsets.reservations_kept hs.consistent.reservations hr (by simp))
    (positions_sublist hs.consistent.positions (fun d => ?_) fun d => (retire_waits_sublist i x d).length_le) ?_
    (by rw [hcol]) (by rw [hcol]) (by rw [hcol]; exact id) (by simp)).relay fun hn e he => ?_
  · unfold positionsIn
    rw [retire_lockOf]
    exact ((retire_waits_sublist i x d).map _).append_left _
  · rw [hbay, if_pos rfl]
    obtain ⟨hlock, hstr⟩ := hb.waiting_unnamed hrin (.inl hst)
    exact (hb.rewait fun e he => .inl (List.mem_filter.1 he).1).replace hlock hstr
      (fun e he => by simpa using (List.mem_filter.1 he).2) (by rw [hrin]; exact hrf.1.symm) (fun _ h => by cases h)
  · rw [hbay] at hn he ⊢
    rw [if_pos rfl] at he
    exact hs.scanned _ hn e (List.mem_filter.1 he).1

/-- Many reservations retired in turn. -/
theorem Relay.retireAll {l : List RecIdx} (hs : Relay s) (hl : ∀ i ∈ l, ∃ r, s.live i = some r ∧ r.state = .reserved)
    (hn : l.Nodup) (x : Retirement) : Relay (forEach l (fun i => retire i x) s) := by
  induction l generalizing s with
  | nil => exact hs
  | cons i l ih =>
    obtain ⟨r, hr, hst⟩ := hl i List.mem_cons_self
    obtain ⟨hi, hn'⟩ := List.nodup_cons.1 hn
    refine ih (hs.retireReserved hr hst x) (fun j hj => ?_) hn'
    obtain ⟨q, hq, hqs⟩ := hl j (List.mem_cons_of_mem i hj)
    refine ⟨q, ?_, hqs⟩
    rw [(retire_sets hr x).live, if_neg (fun e => hi (by rw [e]; exact hj))]
    exact hq

/-! ### The making of a reservation (R23, R56) -/

theorem makeAt_sets (i : RecIdx) (r : Record) : Sets i (some r) s (makeAt i r s) :=
  Sets.of_entry (e := { s.entry i with live := some r, last := none })
    (fun j => by rw [makeAt_entry]; split <;> simp_all) fun _ => rfl

theorem recIn_free (hi : s.live i = none) (c : Col) : s.recIn c (s.handleAt i) = none := by
  simp [State.recIn, named_handleAt, hi]

/-- A handle that names no record is named by no lock, no stranding and no wait list. -/
theorem BayFits.free_unnamed {L : Slot → Bool} {R : Records} {b : Bay} (hb : BayFits L R b) (hh : R h = none) :
    (∀ l, b.lock = some l → l.hold.handle ≠ some h) ∧ b.column.stranded ≠ some h ∧ ∀ e ∈ b.waits, e.handle ≠ h := by
  refine ⟨fun l hl e => ?_, fun e => ?_, fun e he e' => ?_⟩
  · have h2 := (hb.lock l hl).2
    split at h2
    · next w g hw =>
      rw [hw] at e; cases e
      obtain ⟨-, p, hp, -⟩ := h2
      rw [hh] at hp; cases hp
    · next hw => rw [hw] at e; cases e
  · obtain ⟨p, hp, -⟩ := hb.stranded.2.2 _ e
    rw [hh] at hp; cases hp
  · obtain ⟨-, -, p, hp, -⟩ := hb.waits e he
    rw [e', hh] at hp; cases hp

theorem binsOf_makeAt (hi : s.live i = none) (c : Col) :
    (makeAt i r s).binsOf c = s.binsOf c + if r.column = c then 1 else 0 := by
  have hl := (makeAt_sets (s := s) i r).live
  have := filter_length_update (p := fun j => ((makeAt i r s).live j).any fun r => decide (r.column = c))
    (q := fun j => (s.live j).any fun r => decide (r.column = c)) i fun j hj => by rw [hl, if_neg (Ne.symm hj)]
  simp only [hi, hl, if_true, Option.any_none, Option.any_some, Bool.toNat_false] at this
  simp only [State.binsOf, State.recordsWhere, hl]
  split <;> simp_all

/-- R56: a place is reserved for a LIVE slot that reserves none. -/
theorem Relay.reserve (hs : Relay s) (hi : s.live i = none) (hst : r.state = .reserved) (h0 : r.tag ≠ 0)
    (hnew : ∀ j, ∀ q ∈ s.live j, q.tag ≠ r.tag) (hk : s.isLive k) (hrel : r.releaser = some k)
    (hnone : ∀ j, ∀ q ∈ s.live j, q.reservedBy k = false) (hopen : (s.col r.column).service = .opened)
    (hroom : s.binsOf r.column < (s.col r.column).capacity)
    (hf : r.level = none ∧ r.collector = none ∧ r.strandedFrom = none ∧ r.buried = false) : Relay (makeAt i r s) := by
  have ho := makeAt_only i r s
  have hsets := makeAt_sets (s := s) i r
  have hcol := col_congr (ho.columns (by decide))
  have hlock := ho.lock (by decide)
  have hbay : ∀ d, (makeAt i r s).bay d = s.bay d := fun d =>
    bay_of_rows (hcol d) (lockOf_congr hlock d) (waitsOf_congr hlock d) (surveyor_congr (ho.survey (by decide)) d)
  have fr : Beside r.column s (makeAt i r s) := ⟨ho.line (by decide), mark_congr hlock, fun d _ => hbay d,
    fun d hd => hsets.recIn_ne (by simp [hi]) (fun q hq => by cases hq; rfl) hd⟩
  have hrec := hsets.recIn (c := r.column) (by simp [hi]) (fun q hq => by cases hq; rfl)
  have hb := hs.consistent.bays r.column
  have hfree := recIn_free hi r.column
  obtain ⟨hlocks, hstr, hwaits⟩ := hb.free_unnamed hfree
  obtain ⟨-, hcap, -⟩ := hs.loads r.column
  refine ((hs.but r.column).of_beside fr (hs.consistent.table.makeAt hi h0 hnew) ?_ ?_ ?_ ⟨?_, ?_, fun hv => ?_⟩
    fun g p hp => ?_).relay ?_
  · simpa only [OnePosition, positions, lockOf_congr hlock, waitsOf_congr hlock] using hs.consistent.positions
  · refine hsets.reservations_new hs.consistent.reservations fun q e k' hk' j p hp hpk => ?_
    cases e
    have hkk := (Record.reservedBy_iff.1 hk').2
    rw [hrel] at hkk; cases hkk
    rw [hnone j p hp] at hpk; cases hpk
  · rw [hrec, hbay]
    refine hb.replace hlocks hstr hwaits (by rw [hfree]; exact hf.1) fun q hq => ?_
    cases hq
    simp only [RecordFits, hst]
    exact ⟨hf.1, hf.2.1, hf.2.2.1, k, hrel, hk⟩
  · rw [binsOf_makeAt hi, if_pos rfl, hcol]; exact hroom
  · rw [hcol]; exact hcap
  · rw [hcol, hopen] at hv; simp at hv
  · rw [isBuried_of_column (s := s) (t := makeAt i r s) (by rw [hcol])]
    obtain ⟨hpl, -, -⟩ := recIn_live hp
    rw [hsets.live] at hpl
    split at hpl
    · cases hpl; rw [hf.2.2.2]; simp [State.isBuried, hst]
    · exact hs.buried _ p hpl
  · rw [hbay]; exact hs.scanned _

end Sys2Proof.Machine
end

section
namespace Sys2Proof.Machine

open Sys2Proof.Safety Function

variable {s t u : State} {c d : Col} {g h : Handle} {r q : Record} {i j : RecIdx} {k : Slot} {o : Option Record} {w : Work}
  {l : Lock}

/-! ### The flags of a stack (R16) -/

/-- A record with its buried flag as R16 asks. -/
def Record.flagged (s : State) (r : Record) : Record := { r with buried := s.isBuried r }

theorem Record.flagged_congr (h : t.columns = s.columns) : Record.flagged t = Record.flagged s := by
  funext r; simp only [Record.flagged, isBuried_congr h]

theorem refreshList_live (l : List Handle) (s : State) (j : RecIdx) :
    (l.foldl (fun s h => refreshBuried h.idx s) s).live j =
      if ∃ h ∈ l, h.idx = j then (s.live j).map (Record.flagged s) else s.live j := by
  induction l generalizing s with
  | nil => simp
  | cons a l ih =>
    have hcols := (refreshBuried_only a.idx s).columns (by decide)
    rw [List.foldl_cons, ih, Record.flagged_congr hcols, refreshBuried_live]
    by_cases ha : a.idx = j <;> by_cases hl : ∃ h ∈ l, h.idx = j
    · simp only [ha, if_true, hl, List.mem_cons, exists_eq_or_imp, true_or, Option.map_map]
      rfl
    · simp only [ha, if_true, hl, if_false, List.mem_cons, exists_eq_or_imp, true_or]
      rfl
    · simp [ha, hl]
    · simp [ha, hl]

theorem refreshStack_live (c : Col) (s : State) (j : RecIdx) : (refreshStack c s).live j =
    if ∃ h ∈ (s.col c).stack, h.idx = j then (s.live j).map (Record.flagged s) else s.live j := refreshList_live ..

theorem refreshStack_gen (c : Col) (s : State) (j : RecIdx) : ((refreshStack c s).entry j).gen = (s.entry j).gen := by
  unfold refreshStack
  induction (s.col c).stack generalizing s with
  | nil => rfl
  | cons a l ih => rw [List.foldl_cons, ih, refreshBuried_gen]

theorem refreshStack_counts (c : Col) (s : State) : SameCounts s (refreshStack c s) :=
  forEach_counts (f := fun (h : Handle) s => refreshBuried h.idx s) (fun h u => refreshBuried_counts u h.idx) _ s

/-- The second state is the first with the flags of a stack brought up to date. -/
structure Flagged (c : Col) (t t' : State) : Prop where
  line : t'.line = t.line
  marks : ∀ k, t'.mark k = t.mark k
  bays : ∀ d, t'.bay d = t.bay d
  live : ∀ j, t'.live j = if ∃ h ∈ (t.col c).stack, h.idx = j then (t.live j).map (Record.flagged t) else t.live j
  gen : ∀ j, (t'.entry j).gen = (t.entry j).gen
  counts : SameCounts t t'

theorem refreshStack_flagged (c : Col) (t : State) : Flagged c t (refreshStack c t) :=
  ⟨by simp, fun k => by simp, fun d => by simp [State.bay], refreshStack_live c t, refreshStack_gen c t,
    refreshStack_counts c t⟩

theorem Flagged.core (h : Flagged c s t) (j : RecIdx) : (t.live j).map Record.core = (s.live j).map Record.core := by
  rw [h.live]
  split
  · rw [Option.map_map]; rfl
  · rfl

theorem isBuried_of_level (hl : r.level = none) : s.isBuried r = false := by simp [State.isBuried, State.depth, hl]

section
variable {L : Slot → Bool} (hf : Flagged c t u)
include hf

theorem Flagged.col (d : Col) : u.col d = t.col d := congrArg Bay.column (hf.bays d)
theorem Flagged.lockOf (d : Col) : u.lockOf d = t.lockOf d := congrArg Bay.lock (hf.bays d)
theorem Flagged.waitsOf (d : Col) : u.waitsOf d = t.waitsOf d := congrArg Bay.waits (hf.bays d)

theorem Flagged.back (hr : u.live i = some r) : ∃ q, t.live i = some q ∧ q.core = r.core := core_of_map (hf.core i).symm hr

theorem Flagged.table (h : TableFits t) : TableFits u := by
  refine h.of_tags (fun i => ?_) hf.counts
  have := congrArg (Option.map Record.tag) (hf.core i)
  rw [Option.map_map, Option.map_map] at this
  exact this

theorem Flagged.positions (h : OnePosition t) : OnePosition u := by
  simpa only [OnePosition, Safety.positions, hf.lockOf, hf.waitsOf] using h

theorem Flagged.reservations (h : OneReservation t) : OneReservation u :=
  reservations_mono h fun i r k hr hk => by
    obtain ⟨q, hq, e⟩ := hf.back hr
    refine ⟨q, hq, ?_⟩
    change q.core.reservedBy k
    rw [e]; exact hk

theorem Flagged.load (h : LoadFits t c) : LoadFits u c := by
  refine h.of_le (binsOf_le fun i r hr hrc => ?_) (by rw [hf.col]) (by rw [hf.col]; exact id)
  obtain ⟨q, hq, e⟩ := hf.back hr
  exact ⟨q, hq, (congrArg Record.column e).trans hrc⟩

theorem Flagged.bayFits (h : BayFits L (t.recIn c) (t.bay c)) : BayFits L (u.recIn c) (u.bay c) := by
  rw [hf.bays]; exact h.of_cores (recIn_cores hf.core hf.gen c)

theorem Flagged.beside (h : BayFits L (t.recIn c) (t.bay c)) : Beside c t u := by
  have hstack : ∀ j, (∃ h ∈ (t.col c).stack, h.idx = j) → ∃ r, t.live j = some r ∧ r.column = c := by
    rintro _ ⟨x, hx, rfl⟩
    obtain ⟨n, hn⟩ := List.mem_iff_getElem?.1 hx
    obtain ⟨r, hr, -⟩ := h.stack n x hn
    obtain ⟨hl, -, hc⟩ := recIn_live hr
    exact ⟨r, hl, hc⟩
  refine ⟨hf.line, hf.marks, fun d _ => hf.bays d, fun d hd => recIn_beside (fun j => ?_) hd⟩
  by_cases hj : ∃ h ∈ (t.col c).stack, h.idx = j
  · obtain ⟨r, hr, hc⟩ := hstack j hj
    refine .inr ⟨fun q hq => by rw [hr] at hq; cases hq; exact hc, fun q hq => ?_⟩
    rw [hf.live, if_pos hj, hr] at hq
    cases hq; exact hc
  · exact .inl ⟨by rw [hf.live, if_neg hj], hf.gen j⟩

theorem Flagged.buriedIn (h : BayFits L (t.recIn c) (t.bay c))
    (hflag : ∀ g r, t.recIn c g = some r → r.level = none → r.buried = false) : BuriedIn u c := by
  intro g r hr
  obtain ⟨hl, hg, hc⟩ := recIn_live hr
  rw [isBuried_of_column (s := t) (t := u) (by rw [hf.col])]
  rw [hf.live] at hl
  split at hl
  · obtain ⟨q, hq, rfl⟩ := Option.map_eq_some_iff.1 hl
    rfl
  · next hn =>
    have hlev : r.level = none := by
      rw [← Option.not_isSome_iff_eq_none]
      intro hsome
      obtain ⟨n, -, hst⟩ := (h.records _ r (recIn_of_live hl hc)).stands_of_level hsome
      exact hn ⟨_, List.mem_of_getElem? hst, rfl⟩
    rw [hflag (t.handleAt g.idx) r (recIn_of_live hl hc) hlev, isBuried_of_level hlev]
end

/-- A change of one column and its stack, with the flags of its stack brought up to date: what remains to be shown. -/
theorem RelayBut.refreshed (h : RelayBut c s) (fr : Beside c s t) (hf : Flagged c t u) (htable : TableFits t)
    (hpos : OnePosition t) (hres : OneReservation t) (hbay : BayFits s.isLive (t.recIn c) (t.bay c)) (hload : LoadFits t c)
    (hflag : ∀ g r, t.recIn c g = some r → r.level = none → r.buried = false) : RelayBut c u :=
  h.of_beside (fr.trans (hf.beside hbay)) (hf.table htable) (hf.positions hpos) (hf.reservations hres) (hf.bayFits hbay)
    (hf.load hload) (hf.buriedIn hbay hflag)

/-- One record changes or goes, and the stack of its column with it. -/
theorem RelayBut.setRefreshed (h : RelayBut c s) (fr : Beside c s t) (hf : Flagged c t u) (hs : Sets i o s t) (htable : TableFits t)
    (hr : s.live i = some r) (hrc : r.column = c) (hoc : ∀ q, o = some q → q.column = c)
    (hob : ∀ q, o = some q → q.level = none → q.buried = false) (hor : ∀ q, o = some q → ∀ k, q.reservedBy k → r.reservedBy k)
    (hpos : OnePosition t) (hbay : BayFits s.isLive (update (s.recIn c) (s.handleAt i) o) (t.bay c))
    (hcap : (t.col c).capacity = (s.col c).capacity)
    (hv : (t.col c).service = .undefined ∨ (t.col c).service = .out → (s.col c).service = .undefined ∨ (s.col c).service = .out) :
    RelayBut c u := by
  have hrec := hs.recIn (c := c) (fun r' hr' => by rw [hr] at hr'; cases hr'; exact hrc) hoc
  refine h.refreshed fr hf htable hpos (hs.reservations_kept h.consistent.reservations hr hor) (hrec ▸ hbay)
    ((h.loads c).of_le (binsOf_le fun j p hp hc => ?_) hcap hv) fun g p hp hlev => ?_
  · rw [hs.live] at hp
    split at hp
    · next e => subst e; exact ⟨r, hr, hrc⟩
    · exact ⟨p, hp, hc⟩
  · rw [hrec] at hp
    by_cases e : g = s.handleAt i
    · subst e; rw [update_self] at hp; exact hob p hp hlev
    · rw [update_of_ne e] at hp
      obtain ⟨hl, -, -⟩ := recIn_live hp
      rw [h.buried _ p hl, isBuried_of_level hlev]

/-! ### SET_DOWN and PICK_UP (R135, R137) -/

/-- A record as its push leaves it. -/
def Record.pushed (n : Nat) (r : Record) : Record :=
  { r with state := .parked, collector := none, buried := false, level := some n, strandedFrom := none }

theorem pushRecord_sets (hr : s.live i = some r) (c : Col) :
    Sets i (some (r.pushed (s.col c).stack.length)) s (pushRecord i c s) :=
  Sets.of_map (f := Record.pushed (s.col c).stack.length) (fun j => pushRecord_entry s i j c) hr

theorem pushRecord_beside (hr : s.live i = some r) (hrc : r.column = c) : Beside c s (pushRecord i c s) := by
  have ho := pushRecord_only i c s
  have hlock := ho.lock (by decide)
  exact ⟨ho.line (by decide), mark_congr hlock, fun d hd => bay_of_rows (by rw [pushRecord_col, if_neg (Ne.symm hd)])
    (lockOf_congr hlock d) (waitsOf_congr hlock d) (surveyor_congr (ho.survey (by decide)) d),
    fun d hd => (pushRecord_sets hr c).recIn_ne (column_of_live hr hrc)
      (fun p hp => by cases hp; exact hrc) hd⟩

theorem popStack_beside (c : Col) (s : State) : Beside c s (popStack c s) :=
  ⟨rfl, fun _ => rfl, fun d hd => bay_of_rows (by rw [popStack_col, if_neg (Ne.symm hd)]) rfl rfl rfl, fun _ _ => rfl⟩

theorem pushRecord_counts (i : RecIdx) (c : Col) : SameCounts s (pushRecord i c s) := updRec_counts s i _

theorem Relay.setDown (hs : Relay s) (hl : s.lockOf c = some l) (hw : l.hold = .work .place h) :
    Relay (acceptSetDown h c s) := by
  obtain ⟨hin, r, hr, hst⟩ := (hs.but c).worked hl hw
  obtain ⟨hlive, hh, hrc⟩ := recIn_live hr
  obtain ⟨hlev, hcol, hsf, hrel⟩ := (hs.but c).workedFits (w := .place) hl hr hst
  have hp := pushRecord_only h.idx c s
  have hsets : Sets h.idx (some (r.pushed (s.col c).stack.length)) s (endLock c (pushRecord h.idx c s)) :=
    ⟨(pushRecord_sets hlive c).live, (pushRecord_sets hlive c).gen⟩
  have hlock := hp.lock (by decide)
  have hcols : ∀ d, (endLock c (pushRecord h.idx c s)).col d = if c = d then { s.col d with stack := (s.col d).stack ++ [h] } else s.col d :=
    fun d => by rw [endLock_col, pushRecord_col, hh]
  have hlocks : ∀ d, (endLock c (pushRecord h.idx c s)).lockOf d = if c = d then none else s.lockOf d := fun d => by
    rw [endLock_lockOf, lockOf_congr hlock]
  have hwaits : ∀ d, (endLock c (pushRecord h.idx c s)).waitsOf d = s.waitsOf d := fun d => waitsOf_congr hlock d
  have hsurv := surveyor_congr (hp.survey (by decide))
  have hb := hs.consistent.bays c
  have hbay : (endLock c (pushRecord h.idx c s)).bay c =
      { s.bay c with lock := none, column := { s.col c with stack := (s.col c).stack ++ [h] } } := by
    simp only [State.bay, hcols, hlocks, hwaits, if_true]
    rw [show (endLock c (pushRecord h.idx c s)).surveyor c = s.surveyor c from hsurv c]
  have hrel' := (hs.but c).setRefreshed (o := some (r.pushed (s.col c).stack.length))
    ((pushRecord_beside hlive hrc).trans (endLock_beside c _)) (refreshStack_flagged c _) hsets (hs.consistent.table.set hsets hlive rfl (pushRecord_counts h.idx c)) hlive hrc (fun q e => by cases e; exact hrc)
    (fun q e _ => by cases e; rfl) (fun q e k hk => by cases e; exact Record.not_reservedBy rfl hk)
    (positions_unlock hs.consistent.positions hlocks fun d => by rw [hwaits]) ?_ (by rw [hcols, if_pos rfl])
    (by rw [hcols, if_pos rfl]; exact id)
  · refine RelayBut.scan hrel' ?_
    rw [refreshStack_lockOf, hlocks, if_pos rfl]
  · have hend := hb.endWork (o := none) hl hw (by rw [hr]; exact hlev.symm) (fun q hq => by cases hq)
    have := hend.push (q := r.pushed (s.col c).stack.length) rfl (hb.not_stranded hin.quiet).1 (update_self ..) rfl rfl rfl rfl
    rw [hbay, hh]
    rwa [update_idem] at this

theorem Relay.pickUp (hs : Relay s) (hl : s.lockOf c = some l) (hw : l.hold = .work .lift h) :
    Relay (acceptPickUp h c s) := by
  obtain ⟨hin, r, hr, hst⟩ := (hs.but c).worked hl hw
  obtain ⟨hlive, hh, hrc⟩ := recIn_live hr
  obtain ⟨hstd, hsf, htop, hcol⟩ := (hs.but c).workedFits (w := .lift) hl hr hst
  have hlive' : (popStack c s).live h.idx = some r := hlive
  have hb := hs.consistent.bays c
  have hre := retire_only h.idx .delivered (popStack c s)
  have hpo := popStack_only c s
  have hsets : Sets h.idx none s (endLock c (retire h.idx .delivered (popStack c s))) :=
    ⟨(retire_sets hlive' .delivered).live, (retire_sets hlive' .delivered).gen⟩
  have hcols : ∀ d, (endLock c (retire h.idx .delivered (popStack c s))).col d =
      if c = d then { s.col d with stack := (s.col d).stack.dropLast } else s.col d := fun d => by
    rw [endLock_col, col_congr (hre.columns (by decide)), popStack_col]
  have hlocks : ∀ d, (endLock c (retire h.idx .delivered (popStack c s))).lockOf d = if c = d then none else s.lockOf d :=
    fun d => by rw [endLock_lockOf, retire_lockOf]; rfl
  have hno : (s.waitsOf c).filter (fun e => e.handle ≠ h) = s.waitsOf c := by
    rw [List.filter_eq_self]
    exact fun e he => by simpa using hb.not_awaited hr (by simp [hst, busyState]) (by simp [hst, busyState]) e he
  have hwaits : ∀ d, (endLock c (retire h.idx .delivered (popStack c s))).waitsOf d = s.waitsOf d := fun d => by
    rw [endLock_waitsOf, retire_waitsOf _ hlive']
    split
    · next e =>
      have e' : c = d := hrc.symm.trans e
      subst e'
      change (s.waitsOf c).filter (fun x => x.handle ≠ s.handleAt h.idx) = _
      rw [hh]; exact hno
    · rfl
  have hsurv := surveyor_congr (hre.survey (by decide))
  have fr : Beside c s (endLock c (retire h.idx .delivered (popStack c s))) :=
    ((popStack_beside c s).trans (retire_beside hlive' hrc _)).trans (endLock_beside c _)
  have hbay : (endLock c (retire h.idx .delivered (popStack c s))).bay c =
      { s.bay c with lock := none, column := { s.col c with stack := (s.col c).stack.dropLast } } := by
    simp only [State.bay, hcols, hlocks, hwaits, if_true]
    rw [show (endLock c (retire h.idx .delivered (popStack c s))).surveyor c = s.surveyor c from hsurv c]
  have htab : TableFits (endLock c (retire h.idx .delivered (popStack c s))) := by
    have h1 : TableFits (popStack c s) := hs.consistent.table.of_tags (fun _ => rfl) ⟨rfl, rfl⟩
    exact (h1.retire h.idx .delivered).of_tags (fun _ => rfl) ⟨rfl, rfl⟩
  have hrel' := (hs.but c).setRefreshed (o := none) fr (refreshStack_flagged c _) hsets htab hlive hrc (by simp) (by simp) (by simp)
    (positions_unlock hs.consistent.positions hlocks fun d => by rw [hwaits]) ?_ (by rw [hcols, if_pos rfl])
    (by rw [hcols, if_pos rfl]; exact id)
  · refine RelayBut.scan hrel' ?_
    rw [refreshStack_lockOf, hlocks, if_pos rfl]
  · have hend := hb.endWork (o := some { r with state := .parked, collector := none }) hl hw (by rw [hr]; rfl)
      (fun q hq => by cases hq; exact ⟨hstd, rfl, hsf⟩)
    have := hend.pop rfl (hb.not_stranded hin.quiet).1 htop (update_self ..) rfl
    rw [hbay, hh]
    rwa [update_idem] at this

end Sys2Proof.Machine
end

section
namespace Sys2Proof.Machine

open Sys2Proof.Safety Function

variable {s t u : State} {c d : Col} {g h : Handle} {r q : Record} {i j : RecIdx} {k : Slot} {o : Option Record} {w : Work}
  {l : Lock}

/-! ### The promises and designations of a slot (R121, R145, R150) -/

/-- The slot waits for nothing. -/
abbrev NotWaiting (s : State) (k : Slot) : Prop := ∀ c, ∀ e ∈ s.waitsOf c, e.slot ≠ k

theorem dropWaiter_notWaiting (s : State) (k : Slot) : NotWaiting (s.dropWaiter k) k := fun c e he => by
  rw [dropWaiter_waitsOf, List.mem_filter] at he
  simpa using he.2

theorem Relay.parkPromise (hs : Relay s) (hr : s.live i = some r) (hst : r.state = .promised) (hc : r.collector = some k)
    (hn : NotWaiting s k) : Relay (parkRecord i s) :=
  hs.park hr (.inr hst) fun e he hh => by
    obtain ⟨-, hk⟩ := hs.awaits_promised hr hst he hh
    rw [hc] at hk
    exact hn _ e he (Option.some.inj hk).symm

theorem Relay.parkAll {l : List RecIdx} (hs : Relay s)
    (hl : ∀ i ∈ l, ∃ r, s.live i = some r ∧ r.state = .promised ∧ r.collector = some k) (hd : l.Nodup)
    (hn : NotWaiting s k) : Relay (forEach l parkRecord s) := by
  induction l generalizing s with
  | nil => exact hs
  | cons i l ih =>
    obtain ⟨r, hr, hst, hc⟩ := hl i List.mem_cons_self
    obtain ⟨hi, hd'⟩ := List.nodup_cons.1 hd
    have ho := parkRecord_only i s
    refine ih (hs.parkPromise hr hst hc hn) (fun j hj => ?_) hd' fun c e he => ?_
    · obtain ⟨q, hq, hqs⟩ := hl j (List.mem_cons_of_mem i hj)
      refine ⟨q, ?_, hqs⟩
      rw [live_def, parkRecord_entry, if_neg (fun e => hi (by rw [e]; exact hj))]
      exact hq
    · rw [waitsOf_congr (ho.lock (by decide))] at he
      exact hn c e he

/-- R121, R145: the promises of a slot that waits for nothing go. -/
theorem Relay.dropPromises (hs : Relay s) (hn : NotWaiting s k) : Relay (dropPromises k s) :=
  hs.parkAll (k := k) (fun i hi => by
    obtain ⟨r, hr, hp⟩ := mem_recordsWhere.1 hi
    simp only [Bool.and_eq_true, decide_eq_true_eq] at hp
    exact ⟨r, hr, hp.1, hp.2⟩) (recordsWhere_nodup _) hn

/-- The designations of a slot that holds no lock go. -/
theorem Relay.dropDesignations (hs : Relay s) (hk : ∀ c l, s.lockOf c = some l → l.holder ≠ k) : Relay (dropDesignations k s) := by
  have ho := dropDesignations_only k s
  have hbay : ∀ d, (Machine.dropDesignations k s).bay d =
      { s.bay d with surveyor := if s.surveyor d = some k then none else s.surveyor d } := fun d => by
    simp only [State.bay, dropDesignations_surveyor]; rfl
  have hrec : (Machine.dropDesignations k s).recIn = s.recIn := by
    funext d g; simp only [State.recIn, named_congr (ho.handoff (by decide))]
  have hcons := hs.consistent
  refine ⟨⟨hcons.table.of_tags (fun _ => rfl) ⟨rfl, rfl⟩, hcons.slots, hcons.positions, hcons.marks, hcons.reservations,
    fun d => ?_⟩, fun d => ?_, hs.loads, hs.buried⟩
  · rw [hbay, hrec]
    change BayFits s.isLive _ _
    split
    · next hv =>
      have hb := hcons.bays d
      obtain ⟨-, hsus⟩ := hb.surveyor k hv
      refine hb.designate hsus (fun l hl => ?_) nofun
      have h2 := (hb.lock l hl).2
      rw [(hb.idle fun h => h.quiet (.inl hsus)).2 l hl] at h2
      have h3 : s.surveyor d = some l.holder := h2.2
      rw [hv] at h3
      exact absurd (Option.some.inj h3).symm (hk d l hl)
    · exact hcons.bays d
  · rw [hbay]; exact hs.scanned d

/-! ### A slot changes its link (R112) -/

/-- No column has a use for the slot, and its expired mark is clear. -/
structure Unused (s : State) (k : Slot) : Prop where
  mark : s.mark k = none
  holder : ∀ c l, s.lockOf c = some l → l.holder ≠ k
  waits : NotWaiting s k
  surveyor : ∀ c, s.surveyor c ≠ some k
  releaser : ∀ i r, s.live i = some r → r.state = .reserved → r.releaser ≠ some k
  collector : ∀ i r, s.live i = some r → r.state = .promised → r.collector ≠ some k

theorem Unused.not_uses (h : Unused s k) (c : Col) : ¬ (s.bay c).Uses (s.recIn c) k := by
  rintro (⟨l, hl, hk⟩ | ⟨e, he, hk⟩ | hv | ⟨g, r, hr, ⟨hst, hk⟩ | ⟨hst, hk⟩⟩)
  · exact h.holder c l hl hk
  · exact h.waits c e he hk
  · exact h.surveyor c hv
  · exact h.releaser _ r (recIn_live hr).1 hst hk
  · exact h.collector _ r (recIn_live hr).1 hst hk

/-- Slots change their links, and those that stop being LIVE are of no use. -/
theorem Relay.relink (hs : Relay s) (ho : OnlyChanges [.line, .notice] s t) (hslots : SlotsInForm t)
    (hl : ∀ k, s.isLive k → t.isLive k ∨ Unused s k) : Relay t := by
  have hlock := ho.lock (by decide)
  have hcol := col_congr (ho.columns (by decide))
  have hhand := ho.handoff (by decide)
  have hlive := live_congr hhand
  have hrec : t.recIn = s.recIn := by funext d g; simp only [State.recIn, named_congr hhand]
  have hbay : ∀ d, t.bay d = s.bay d := fun d => bay_of_rows (hcol d) (lockOf_congr hlock d) (waitsOf_congr hlock d)
    (surveyor_congr (ho.survey (by decide)) d)
  have hcons := hs.consistent
  refine ⟨⟨hcons.table.of_tags (fun i => by rw [hlive]) ⟨by rw [hhand], by rw [hhand]⟩, hslots, ?_, fun k hk => ?_, ?_,
    fun d => ?_⟩, fun d => by rw [hbay]; exact hs.scanned d, fun d => ?_, fun i r hr => ?_⟩
  · simpa only [OnePosition, positions, lockOf_congr hlock, waitsOf_congr hlock] using hcons.positions
  · rw [mark_congr hlock] at hk
    refine (hl k (hcons.marks k hk)).resolve_right fun hu => ?_
    rw [hu.mark] at hk; cases hk
  · exact reservations_mono hcons.reservations fun i r k hr hk => ⟨r, by rw [← hlive]; exact hr, hk⟩
  · rw [hbay, hrec]
    exact (hcons.bays d).relive fun k hu hk => (hl k hk).resolve_right fun h => h.not_uses d hu
  · exact (hs.loads d).of_le (binsOf_le fun i r hr hrc => ⟨r, by rw [← hlive]; exact hr, hrc⟩) (by rw [hcol]) (by rw [hcol]; exact id)
  · rw [hlive] at hr
    rw [isBuried_of_column (s := s) (t := t) (by rw [hcol])]
    exact hs.buried i r hr

/-- A slot that holds no lock, waits for nothing and reserves nothing gives up all that it has. -/
theorem Relay.forsaken (hs : Relay s) (hh : ∀ c l, s.lockOf c = some l → l.holder ≠ k) (hn : NotWaiting s k)
    (hr : ∀ i r, s.live i = some r → r.state = .reserved → r.releaser ≠ some k) :
    Relay ((Machine.dropDesignations k (Machine.dropPromises k s)).setMark k none) ∧
      Unused ((Machine.dropDesignations k (Machine.dropPromises k s)).setMark k none) k := by
  have hp := dropPromises_only k s
  have hlock := hp.lock (by decide)
  have hd := hs.dropPromises hn
  refine ⟨(hd.dropDesignations fun c l hl => hh c l (by rw [lockOf_congr hlock] at hl; exact hl)).setMark (.inl rfl), ?_⟩
  have hlive : ∀ i r, (Machine.dropPromises k s).live i = some r → ∃ q, s.live i = some q ∧
      (r = q ∧ ¬ (q.state = .promised ∧ q.collector = some k) ∨ r.state = .parked) := fun i r hr => by
    rw [live_def, dropPromises_entry] at hr
    split at hr
    · obtain ⟨q, hq, rfl⟩ := Option.map_eq_some_iff.1 hr
      exact ⟨q, hq, .inr rfl⟩
    · next hany =>
      have hr' : s.live i = some r := hr
      exact ⟨r, hr', .inl ⟨rfl, by simpa [hr'] using hany⟩⟩
  refine ⟨by simp, fun c l hl => hh c l ?_, fun c e he => hn c e ?_, fun c => ?_, fun i r hl hst => ?_, fun i r hl hst hk => ?_⟩
  · rw [← lockOf_congr hlock]; exact hl
  · rw [← waitsOf_congr hlock]; exact he
  · change (Machine.dropDesignations k (Machine.dropPromises k s)).surveyor c ≠ some k
    rw [dropDesignations_surveyor]
    split
    · exact nofun
    · assumption
  · obtain ⟨q, hq, ⟨rfl, -⟩ | hpk⟩ := hlive i r hl
    · exact hr i r hq hst
    · rw [hst] at hpk; cases hpk
  · obtain ⟨q, hq, ⟨rfl, hno⟩ | hpk⟩ := hlive i r hl
    · exact hno ⟨hst, hk⟩
    · rw [hst] at hpk; cases hpk

end Sys2Proof.Machine
end

section
namespace Sys2Proof.Machine

open Sys2Proof.Safety Function

variable {s t u u' : State} {c d : Col} {g h : Handle} {r q : Record} {i j : RecIdx} {k : Slot} {o : Option Record} {w : Work}
  {l : Lock}

/-! ### The settling of a column (R10, R153) -/

theorem settleColumn_bay (c d : Col) : (settleColumn c u).bay d =
    if c = d then ⟨(u.col d).settled, u.lockOf d, u.waitsOf d, none⟩ else u.bay d := by
  have hl : (settleColumn c u).lock = u.lock := (settleColumn_only c u).lock (by decide)
  simp only [State.bay, settleColumn_col, settleColumn_surveyor, waitsOf_congr hl, lockOf_congr hl]
  split <;> rfl

theorem settled_bay (c d : Col) : (endLock c (settleColumn c u)).bay d =
    if c = d then ⟨(u.col d).settled, none, u.waitsOf d, none⟩ else u.bay d := by
  have h : (endLock c (settleColumn c u)).bay d =
      { (settleColumn c u).bay d with lock := if c = d then none else (settleColumn c u).lockOf d } := by
    simp only [State.bay, endLock_col, endLock_lockOf, endLock_waitsOf]; rfl
  rw [h, settleColumn_bay]
  split <;> rfl

theorem Beside.settled (fr : Beside c s u) : Beside c s (endLock c (settleColumn c u)) :=
  ⟨fr.line, fr.marks, fun d hd => by rw [settled_bay, if_neg (Ne.symm hd)]; exact fr.bays d hd, fr.recs⟩

theorem Flagged.settle (hf : Flagged c u u') : Flagged c (settleColumn c u) (settleColumn c u') := by
  refine ⟨hf.line, hf.marks, fun d => ?_, fun j => ?_, hf.gen, hf.counts⟩
  · rw [settleColumn_bay, settleColumn_bay, hf.bays, hf.col, hf.lockOf, hf.waitsOf]
  · have hstack : ∀ d, ((settleColumn c u).col d).stack = (u.col d).stack := fun d => by
      rw [settleColumn_col]; split <;> rfl
    have hflag : Record.flagged (settleColumn c u) = Record.flagged u := by
      funext r; simp only [Record.flagged, State.isBuried, State.depth, hstack]
    rw [hstack, hflag]
    exact hf.live j

theorem Flagged.endLock (hf : Flagged c u u') : Flagged c (endLock c u) (endLock c u') :=
  ⟨hf.line, hf.marks, fun d => bay_of_rows (hf.col d) (by rw [endLock_lockOf, endLock_lockOf, hf.lockOf]) (hf.waitsOf d)
    (congrArg Bay.surveyor (hf.bays d)), hf.live, hf.gen, hf.counts⟩

theorem Flagged.settled (hf : Flagged c u u') :
    Flagged c (Machine.endLock c (settleColumn c u)) (Machine.endLock c (settleColumn c u')) := hf.settle.endLock

/-- The positions after the settling of a column that nobody waits for. -/
theorem Beside.settled_positions (fr : Beside c s u) (hp : OnePosition s) (hw : u.waitsOf c = []) :
    OnePosition (endLock c (settleColumn c u)) := by
  have hbay := fun d => settled_bay (u := u) c d
  refine positions_unlock (c := c) hp (fun d => ?_) fun d => ?_
  · have h := congrArg Bay.lock (hbay d)
    change (endLock c (settleColumn c u)).lockOf d = _ at h
    rw [h]
    split
    · rfl
    · next hd => exact congrArg Bay.lock (fr.bays d (Ne.symm hd))
  · have h := congrArg Bay.waits (hbay d)
    change (endLock c (settleColumn c u)).waitsOf d = _ at h
    rw [h]
    split
    · next e => subst e; rw [hw]; exact List.nil_sublist _
    · next hd => rw [fr.bays d (Ne.symm hd)]; exact List.Sublist.refl _

/-- The stranded record of a column is resolved with its stack unchanged, and the column settles. -/
theorem Relay.settle (hs : Relay s) (hstr : (s.col c).stranded = some h) (hr : s.recIn c h = some r) (fr : Beside c s u)
    (hsets : Sets h.idx o s u) (htab : TableFits u) (hw : u.waitsOf c = []) (hcol : u.col c = s.col c)
    (hoc : ∀ q, o = some q → q.column = c) (hres : OneReservation u) (hlevel : o.bind (·.level) = r.level)
    (hself : ∀ q, o = some q → RecordFits s.isLive ⟨(s.col c).settled, none, [], none⟩ h q)
    (hbur : ∀ q, o = some q → q.buried = s.isBuried q) : Relay (endLock c (settleColumn c u)) := by
  obtain ⟨hlive, hh, hrc⟩ := recIn_live hr
  have hsets' : Sets h.idx o s (endLock c (settleColumn c u)) := ⟨hsets.live, hsets.gen⟩
  have hc : (endLock c (settleColumn c u)).col c = (s.col c).settled := by
    rw [endLock_col, settleColumn_col, if_pos rfl, hcol]; rfl
  have hbay : (endLock c (settleColumn c u)).bay c = ⟨(s.col c).settled, none, [], none⟩ := by
    rw [settled_bay, if_pos rfl, hcol, hw]
  refine ((hs.but c).set fr.settled hsets' (htab.of_tags (fun _ => rfl) ⟨rfl, rfl⟩) hlive hrc hoc hres
    (fr.settled_positions hs.consistent.positions hw) ?_ (by rw [hc]; rfl) (by rw [hc]; rfl) (fun hv => ?_) hbur).relay ?_
  · rw [hbay, hh]
    exact (hs.consistent.bays c).settle hstr (by rw [hr]; exact hlevel) hself
  · rw [hc] at hv
    have : (s.col c).settled.service = .opened ∨ (s.col c).settled.service = .draining := toService_inService _
    rcases this with h | h <;> simp [h] at hv
  · rw [hbay]; exact nofun

/-- The stranded record of a column is resolved with a change of its stack, and the column settles. -/
theorem Relay.settleStack (hs : Relay s) (hr : s.recIn c h = some r) (fr : Beside c s u) (hf : Flagged c u u')
    (hsets : Sets h.idx o s u) (htab : TableFits u) (hw : u.waitsOf c = []) (hcap : (u.col c).capacity = (s.col c).capacity)
    (hoc : ∀ q, o = some q → q.column = c) (hob : ∀ q, o = some q → q.level = none → q.buried = false)
    (hor : ∀ q, o = some q → ∀ k, q.reservedBy k → r.reservedBy k)
    (hbay : BayFits s.isLive (update (s.recIn c) h o) ⟨(u.col c).settled, none, [], none⟩) :
    Relay (endLock c (settleColumn c u')) := by
  obtain ⟨hlive, hh, hrc⟩ := recIn_live hr
  have hsets' : Sets h.idx o s (endLock c (settleColumn c u)) := ⟨hsets.live, hsets.gen⟩
  have hc : (endLock c (settleColumn c u)).col c = (u.col c).settled := by
    rw [endLock_col, settleColumn_col, if_pos rfl]; rfl
  have hb : (endLock c (settleColumn c u)).bay c = ⟨(u.col c).settled, none, [], none⟩ := by
    rw [settled_bay, if_pos rfl, hw]
  refine ((hs.but c).setRefreshed fr.settled hf.settled hsets' (htab.of_tags (fun _ => rfl) ⟨rfl, rfl⟩) hlive hrc hoc hob hor
    (fr.settled_positions hs.consistent.positions hw) (by rw [hb, hh]; exact hbay) (by rw [hc]; exact hcap)
    (fun hv => ?_)).relay ?_
  · rw [hc] at hv
    have : (u.col c).settled.service = .opened ∨ (u.col c).settled.service = .draining := toService_inService _
    rcases this with h | h <;> simp [h] at hv
  · rw [hf.settled.bays, hb]; exact nofun

/-! ### The stranded record resolved (R32, R152) -/

/-- The stranded record of a column, which nobody waits for. -/
structure Stranding (s : State) (c : Col) (h : Handle) (r : Record) : Prop where
  stranded : (s.col c).stranded = some h
  record : s.recIn c h = some r
  state : r.state = .stranded
  waits : s.waitsOf c = []

theorem Relay.stranding (hs : Relay s) (hstr : (s.col c).stranded = some h) (hr : s.named h = some r) : Stranding s c h r := by
  have hb := hs.consistent.bays c
  obtain ⟨p, hp, hst⟩ := hb.stranded.2.2 h hstr
  have hpr := (recIn_eq_some.1 hp).1
  rw [hr] at hpr; cases hpr
  exact ⟨hstr, hp, hst, (hb.idle fun hin => hin.quiet (hb.stranded.1.1 (by
    rw [show (s.bay c).column.stranded = some h from hstr]; rfl))).1⟩

/-- What a stranded record keeps of its placement or its lift. -/
theorem Relay.strandedFits (hs : Relay s) (hx : Stranding s c h r) : match r.strandedFrom with
    | some .placing => r.level = none ∧ r.collector = none ∧ r.releaser.isSome
    | some .lifting => (s.bay c).Stands h r ∧ s.top c = some h ∧ r.collector.isSome
    | none => False := by
  have hrf := (hs.consistent.bays c).records h r hx.record
  simp only [RecordFits, hx.state] at hrf
  exact hrf.2

theorem concernedLive_some {x : Option Slot} (h : s.concernedLive c x = true) : ∃ k, x = some k ∧ s.isLive k := by
  simp only [State.concernedLive, Option.any_eq_true, Bool.and_eq_true] at h
  obtain ⟨k, hk, ⟨hl, -⟩, -⟩ := h
  exact ⟨k, hk, hl⟩

/-- R32, R33: an absent placement returns to RESERVED for a LIVE releaser that reserves no other record. -/
theorem placementReturns_true (h : s.placementReturns c i r = true) : (∃ k, r.releaser = some k ∧ s.isLive k) ∧
    ∀ k j p, r.releaser = some k → s.live j = some p → p.reservedBy k → j = i := by
  simp only [State.placementReturns, Bool.and_eq_true, Bool.not_eq_true'] at h
  obtain ⟨hcl, hoth⟩ := h
  refine ⟨concernedLive_some hcl, fun k j p hk hp hpk => ?_⟩
  by_contra hne
  have : s.reservesOther i r.releaser = true := by
    simp only [State.reservesOther, hk, Option.any_some, List.any_eq_true, mem_recordsWhere]
    exact ⟨j, ⟨p, hp, hpk⟩, by simpa using hne⟩
  rw [hoth] at this; cases this

theorem Relay.settleAbsent (hs : Relay s) (hx : Stranding s c h r) (hsf : r.strandedFrom = some .placing) :
    Relay (endLock c (settleColumn c (resolveAbsentPlacement h.idx (s.placementReturns c h.idx r) s))) := by
  obtain ⟨hlive, hh, hrc⟩ := recIn_live hx.record
  have hf := hs.strandedFits hx
  simp only [hsf] at hf
  obtain ⟨hlev, hcol, -⟩ := hf
  unfold resolveAbsentPlacement
  split
  · next hret =>
    obtain ⟨⟨k, hk, hkl⟩, hother⟩ := placementReturns_true hret
    have ho := reserveRecord_only h.idx s
    have hsets : Sets h.idx (some { r with state := .reserved, level := none, strandedFrom := none }) s (reserveRecord h.idx s) :=
      Sets.of_map (f := fun r => { r with state := .reserved, level := none, strandedFrom := none })
        (fun j => reserveRecord_entry s h.idx j) hlive
    refine hs.settle hx.stranded hx.record (hsets.beside (ho.mono (by decide)) hlive hrc fun q e => by cases e; exact hrc) hsets
      (hs.consistent.table.set hsets hlive rfl (reserveRecord_counts s h.idx))
      ((waitsOf_congr (ho.lock (by decide)) c).trans hx.waits) (col_congr (ho.columns (by decide)) c)
      (fun q e => by cases e; exact hrc) (hsets.reservations_new hs.consistent.reservations fun q e k' hk' j p hp hpk => ?_)
      hlev.symm (fun q e => ?_) fun q e => ?_
    · cases e
      exact hother k' j p (Record.reservedBy_iff.1 hk').2 hp hpk
    · cases e; exact ⟨rfl, hcol, rfl, k, hk, hkl⟩
    · cases e; simp [hs.buried _ r hlive, State.isBuried, hx.state]
  · refine hs.settle (o := none) hx.stranded hx.record (retire_beside hlive hrc _) (retire_sets hlive _)
      (hs.consistent.table.retire _ _) (retire_waits_nil _ hx.waits) (col_congr ((retire_only _ _ s).columns (by decide)) c)
      (by simp) ((retire_sets hlive _).reservations_kept hs.consistent.reservations hlive (by simp)) hlev.symm (by simp) (by simp)

theorem Relay.settlePlaced (hs : Relay s) (hx : Stranding s c h r) (hsf : r.strandedFrom = some .placing) :
    Relay (endLock c (settleColumn c (refreshStack c (pushRecord h.idx c s)))) := by
  obtain ⟨hlive, hh, hrc⟩ := recIn_live hx.record
  have hf := hs.strandedFits hx
  simp only [hsf] at hf
  have hsets := pushRecord_sets hlive c
  have hcol : (pushRecord h.idx c s).col c = { s.col c with stack := (s.col c).stack ++ [h] } := by
    rw [pushRecord_col, if_pos rfl, hh]
  refine hs.settleStack (o := some (r.pushed (s.col c).stack.length)) hx.record (pushRecord_beside hlive hrc)
    (refreshStack_flagged c _) hsets (hs.consistent.table.set hsets hlive rfl (pushRecord_counts _ _))
    ((waitsOf_congr ((pushRecord_only _ _ s).lock (by decide)) c).trans hx.waits) (by rw [hcol])
    (fun q e => by cases e; exact hrc) (fun q e _ => by cases e; rfl)
    (fun q e k hk => by cases e; exact Record.not_reservedBy rfl hk) ?_
  have hset := (hs.consistent.bays c).settle (o := none) hx.stranded (by rw [hx.record]; exact hf.1.symm) (fun q hq => by cases hq)
  have := hset.push (q := r.pushed (s.col c).stack.length) rfl rfl (update_self ..) rfl rfl rfl rfl
  rw [update_idem] at this
  rw [hcol]
  exact this

theorem Relay.settleInPlace (hs : Relay s) (hx : Stranding s c h r) (hsf : r.strandedFrom = some .lifting) :
    Relay (endLock c (settleColumn c (resolveLiftInPlace h.idx r.collector (s.concernedLive c r.collector) s))) := by
  obtain ⟨hlive, hh, hrc⟩ := recIn_live hx.record
  have hf := hs.strandedFits hx
  simp only [hsf] at hf
  obtain ⟨hstd, htop, -⟩ := hf
  have close : ∀ (f : Record → Record) (u : State), OnlyChanges [.handoff, .notice] s u → SameCounts s u →
      (∀ j, u.entry j = if h.idx = j then { s.entry j with live := (s.live j).map f } else s.entry j) →
      (f r).column = r.column → (f r).tag = r.tag → (f r).level = r.level → (f r).reserves = false →
      RecordFits s.isLive ⟨(s.col c).settled, none, [], none⟩ h (f r) → (f r).buried = s.isBuried (f r) →
      Relay (endLock c (settleColumn c u)) := by
    intro f u ho hc he hfc hft hfl hfr hself hbur
    have hsets := Sets.of_map (f := f) he hlive
    refine hs.settle hx.stranded hx.record (hsets.beside ho hlive hrc fun q e => by cases e; exact hfc.trans hrc) hsets
      (hs.consistent.table.set hsets hlive hft hc) ((waitsOf_congr (ho.lock (by decide)) c).trans hx.waits)
      (col_congr (ho.columns (by decide)) c) (fun q e => by cases e; exact hfc.trans hrc)
      (hsets.reservations_kept hs.consistent.reservations hlive fun q e k hk => ?_) hfl (fun q e => by cases e; exact hself)
      fun q e => by cases e; exact hbur
    cases e
    exact Record.not_reservedBy hfr hk
  unfold resolveLiftInPlace
  split
  · next k hk hcl =>
    obtain ⟨k', hk', hl⟩ := concernedLive_some hcl
    cases hk.symm.trans hk'
    refine close _ _ (promiseRecord_only h.idx k s) (promiseRecord_counts s h.idx k) (fun j => promiseRecord_entry s h.idx j k)
      rfl rfl rfl rfl ⟨hstd, rfl, k, rfl, hl⟩ ?_
    simp [State.isBuried, State.depth]
  · exact close _ _ ((parkRecord_only h.idx s).mono (by decide)) (parkRecord_counts s h.idx) (fun j => parkRecord_entry s h.idx j)
      rfl rfl rfl rfl ⟨hstd, rfl, rfl⟩ rfl

theorem Relay.settleGone (hs : Relay s) (hx : Stranding s c h r) (hsf : r.strandedFrom = some .lifting) (x : Retirement) :
    Relay (endLock c (settleColumn c (refreshStack c (retire h.idx x (popStack c s))))) := by
  obtain ⟨hlive, hh, hrc⟩ := recIn_live hx.record
  have hf := hs.strandedFits hx
  simp only [hsf] at hf
  obtain ⟨hstd, htop, -⟩ := hf
  have hlive' : (popStack c s).live h.idx = some r := hlive
  have hsets : Sets h.idx none s (retire h.idx x (popStack c s)) :=
    ⟨(retire_sets hlive' x).live, (retire_sets hlive' x).gen⟩
  have hcol : (retire h.idx x (popStack c s)).col c = { s.col c with stack := (s.col c).stack.dropLast } := by
    rw [col_congr ((retire_only _ _ _).columns (by decide)), popStack_col, if_pos rfl]
  have htab : TableFits (popStack c s) := hs.consistent.table.of_tags (fun _ => rfl) ⟨rfl, rfl⟩
  refine hs.settleStack (o := none) hx.record ((popStack_beside c s).trans (retire_beside hlive' hrc x))
    (refreshStack_flagged c _) hsets (htab.retire _ x) (retire_waits_nil x hx.waits) (by rw [hcol]) (by simp) (by simp) (by simp) ?_
  have hset := (hs.consistent.bays c).settle (o := some { r with state := .parked, collector := none, strandedFrom := none })
    hx.stranded (by rw [hx.record]; rfl) (fun q hq => by cases hq; exact ⟨hstd, rfl, rfl⟩)
  have := hset.pop rfl rfl htop (update_self ..) rfl
  rw [update_idem] at this
  rw [hcol]
  exact this

/-- R152, R153: a matched survey. -/
theorem Relay.matchSurvey (hs : Relay s) {tags : List Tag} {f : State → State} (hf : resolution c tags s = some f) :
    Relay (matchSurvey c f s) := by
  unfold resolution at hf
  split at hf
  · cases hf
  · next h hstr =>
    split at hf
    · cases hf
    · next r hr =>
      have hx := hs.stranding hstr hr
      dsimp only at hf
      split at hf
      · split at hf
        · next hsf =>
          split at hf
          · cases hf; exact hs.settleAbsent hx hsf
          · split at hf
            · cases hf; exact hs.settlePlaced hx hsf
            · cases hf
        · next hsf =>
          split at hf
          · cases hf; exact hs.settleInPlace hx hsf
          · split at hf
            · cases hf; exact hs.settleGone hx hsf _
            · cases hf
        · cases hf
      · cases hf

/-! ### A mismatched survey (R154) -/

theorem recordMismatch_bay (c d : Col) (k : Slot) (tags : List Tag) : (recordMismatch c k tags s).bay d =
    if c = d then ⟨{ s.col d with service := .fault }, none, s.waitsOf d, none⟩ else s.bay d := by
  simp only [State.bay, recordMismatch, raise_col, raise_lockOf, raise_waitsOf, raise_surveyor, endLock_lockOf, endLock_waitsOf,
    endLock_col, endLock_surveyor, setSurveyor_surveyor_if, setSurveyor_col, setCol_col_if]
  split
  · next e => subst e; rfl
  · rfl

theorem Relay.recordMismatch (hs : Relay s) (hx : (s.col c).service = .suspect) (k : Slot) (tags : List Tag) :
    Relay (recordMismatch c k tags s) := by
  have hbay := fun d => recordMismatch_bay (s := s) c d k tags
  have hb := hs.consistent.bays c
  have hwaits : s.waitsOf c = [] := (hb.idle fun h => h.quiet (.inl hx)).1
  have hcol : (Machine.recordMismatch c k tags s).col c = { s.col c with service := .fault } := by
    have := congrArg Bay.column (hbay c); rwa [if_pos rfl] at this
  have fr : Beside c s (Machine.recordMismatch c k tags s) :=
    ⟨rfl, fun _ => rfl, fun d hd => by rw [hbay, if_neg (Ne.symm hd)], fun _ _ => rfl⟩
  refine ((hs.but c).of_beside fr (hs.consistent.table.of_tags (fun _ => rfl) ⟨rfl, rfl⟩) ?_ hs.consistent.reservations ?_ ?_
    fun g r hr => ?_).relay ?_
  · exact positions_unlock (c := c) hs.consistent.positions (fun d => by
      have := congrArg Bay.lock (hbay d)
      split at this <;> simpa [State.bay, *] using this) fun d => by exact List.Sublist.refl _
  · rw [hbay, if_pos rfl]; exact hb.blame hx
  · obtain ⟨h1, h2, -⟩ := hs.loads c
    exact ⟨by rw [hcol]; exact h1, by rw [hcol]; exact h2, by rw [hcol]; simp⟩
  · obtain ⟨hl, -, hc⟩ := recIn_live hr
    rw [isBuried_of_column (s := s) (t := Machine.recordMismatch c k tags s) (by rw [hc, hcol])]
    exact hs.buried _ r hl
  · rw [hbay, if_pos rfl, hwaits]; exact nofun

/-! ### The judging of SURVEY (R151 to R154) -/

theorem Relay.judgeSurvey (hs : Relay s) (k : Slot) (col : Byte) (tags : List Tag) : Relay (judgeSurvey k col tags s).1 := by
  unfold Machine.judgeSurvey
  split
  · exact hs
  · next c hc =>
    split
    · exact hs
    · next hsv =>
      split
      · exact hs
      · next hlock =>
        split
        · next f hf => exact hs.matchSurvey hf
        · split
          · exact hs.recordMismatch (by simpa using (not_or.1 hsv).1) k tags
          · simp only [Bool.not_eq_false, Option.any_eq_true, Bool.and_eq_true, decide_eq_true_eq] at hlock
            obtain ⟨l, hl, -, hw⟩ := hlock
            exact hs.endSurvey hl hw

end Sys2Proof.Machine
end

section
namespace Sys2Proof.Machine

open Sys2Proof.Safety Function

variable {s t u : State} {c d : Col} {g h : Handle} {r q : Record} {i j : RecIdx} {k : Slot} {w : Work} {l : Lock}

/-! ### Requests for places and locks (R47, R62 to R67) -/

theorem not_mem_positions (hh : s.holding k = none) (hw : s.waiting k = none) : k ∉ positions s := by
  rw [mem_positions]
  rintro (⟨c, l, hl, e⟩ | ⟨c, x, hx, e⟩)
  · exact holding_eq_none.1 hh c l hl e
  · exact waiting_eq_none.1 hw c x hx e

/-- UNLISTED and other notices leave the laws of the relay table. -/
theorem Relay.noteUnlisted (hs : Relay s) (i : RecIdx) (b : Bool) : Relay (noteUnlisted i b s) :=
  hs.sameRows (.of_only ((noteUnlisted_only i b s).mono (by decide)))

theorem Relay.judgePark (hs : Relay s) (hk : s.isLive k) (tag : Tag) : Relay (judgePark k tag s).1 := by
  unfold Machine.judgePark
  split
  · exact hs
  · next h0 =>
    split
    · split <;> exact hs
    · next hnew =>
      split
      · exact hs
      · next hnone =>
        split
        · exact hs
        · split
          · exact hs
          · next i hi =>
            dsimp only
            split
            · exact hs
            · next c hc =>
              have hel := ((choose_eq_some s _ _ _).1 hc).1
              simp only [State.eligible, Bool.and_eq_true, decide_eq_true_eq] at hel
              obtain ⟨⟨⟨hopen, hroom⟩, -⟩, -⟩ := hel
              rw [load_eq_binsOf (hs.consistent.bays c)] at hroom
              refine Relay.noteUnlisted (hs.reserve (k := k) (firstFree_some_iff.1 hi).1 rfl h0 (fun j q hq => ?_) hk rfl
                (recordsWhere_eq_nil.1 hnone) hopen hroom ⟨rfl, rfl, rfl, rfl⟩) _ _
              exact ((tagged_eq_none.1 hnew).resolve_left h0) j q hq

/-- A record that stands at depth 0 is on top. -/
theorem top_of_depth (hb : (s.bay r.column).Stands h r) (hd : ¬ 0 < (s.depth r).getD 0) : s.top r.column = some h := by
  obtain ⟨n, hn, hst⟩ := hb
  obtain ⟨hlt, -⟩ := List.getElem?_eq_some_iff.1 hst
  change n < (s.col r.column).stack.length at hlt
  have hlast : n = (s.col r.column).stack.length - 1 := by
    simp only [State.depth, hn, Option.map_some, Option.getD_some] at hd
    omega
  rw [State.top, List.getLast?_eq_getElem?, ← hlast]
  exact hst

theorem Relay.judgeWorkLock (hs : Relay s) (hk : s.isLive k) (hnp : k ∉ positions s) (col : Byte) (h : Handle) :
    Relay (judgeWorkLock k col h s).1 := by
  unfold Machine.judgeWorkLock
  split
  · exact hs
  · next c hc =>
    split
    · exact hs
    · next hin =>
      have hserv : (s.bay c).inService := by
        simpa only [Bay.inService, State.bay, ne_eq, not_and_or, not_not] using hin
      split
      · exact hs
      · next r hr =>
        split
        · exact hs
        · next w hw =>
          obtain ⟨hrc, ha⟩ := fits_eq_some.1 hw
          have hrin := recIn_eq_some.2 ⟨hr, hrc⟩
          split
          · exact hs
          · next hdepth =>
            split
            · next hfree =>
              refine (hs.but c).grant hfree hserv hk hnp hrin ha fun hlift => ?_
              subst hlift
              have hrf := (hs.consistent.bays c).records h r hrin
              simp only [RecordFits, show r.state = .promised from ha.1] at hrf
              have hd : ¬ 0 < (s.depth r).getD 0 := fun hd => hdepth ⟨rfl, hd⟩
              subst hrc
              exact top_of_depth hrf.1 hd
            · next l hl =>
              split
              · next hlen => exact hs.enqueue hl hlen hnp ⟨hk, hserv, r, hrin, ha⟩
              · exact hs

theorem Relay.judgeSurveyLock (hs : Relay s) (hnp : k ∉ positions s) (col : Byte) : Relay (judgeSurveyLock k col s).1 := by
  unfold Machine.judgeSurveyLock
  split
  · exact hs
  · split
    · next hx => exact hs.grantSurvey hx.1 hx.2 hnp
    · exact hs

theorem Relay.judgeLock (hs : Relay s) (hk : s.isLive k) (col : Byte) (x : Option Handle) : Relay (judgeLock k col x s).1 := by
  unfold Machine.judgeLock
  split
  · split <;> exact hs
  · next hw =>
    split
    · split <;> exact hs
    · next hh =>
      have hnp := not_mem_positions hh hw
      split
      · exact hs.judgeSurveyLock hnp col
      · exact hs.judgeWorkLock hk hnp col _

/-! ### Reports and claims (R68, R135 to R143) -/

theorem holdsFor_iff : s.holdsFor k c w h = true ↔ ∃ l, s.lockOf c = some l ∧ l.holder = k ∧ l.hold = .work w h := by
  simp [State.holdsFor, Option.any_eq_true]

theorem Relay.judgeSetDown (hs : Relay s) (k : Slot) (h : Handle) : Relay (judgeSetDown k h s).1 := by
  unfold Machine.judgeSetDown
  split
  · exact hs
  · split
    · exact hs
    · split
      · next hh =>
        obtain ⟨l, hl, -, hw⟩ := holdsFor_iff.1 hh
        split
        · exact hs
        · exact hs.setDown hl hw
      · exact hs

theorem Relay.judgePickUp (hs : Relay s) (k : Slot) (h : Handle) : Relay (judgePickUp k h s).1 := by
  unfold Machine.judgePickUp
  split
  · exact hs
  · split
    · exact hs
    · split
      · next hh =>
        obtain ⟨l, hl, rfl, hw⟩ := holdsFor_iff.1 hh
        split
        · exact hs.pickUp hl hw
        · split
          · exact hs
          · exact (hs.but _).strand hl hw
      · exact hs

theorem Relay.judgeClaim (hs : Relay s) (hk : s.isLive k) (tag : Tag) : Relay (judgeClaim k tag s).1 := by
  unfold Machine.judgeClaim
  split
  · exact hs
  · next i r ht =>
    obtain ⟨-, hr, -⟩ := tagged_eq_some ht
    cases hst : r.state <;> dsimp only
    case parked =>
      exact hs.promise hr (.inl hst) (hs.not_awaited hr (by simp [hst]) (by simp [hst])) hk
    case promised => split <;> exact hs
    all_goals exact hs

theorem Relay.judgeYield (hs : Relay s) (k : Slot) (h : Handle) : Relay (judgeYield k h s).1 := by
  unfold Machine.judgeYield
  split
  · exact hs
  · next r hr =>
    have hlive := live_of_named hr
    split
    · exact hs
    · split
      · next _ c l hh =>
        obtain ⟨hl, -⟩ := holding_eq_some hh
        split
        · next w h' hw =>
          split
          · next e =>
            subst e
            exact ((hs.but c).release hl hw).scan (by rw [endLock_lockOf, if_pos rfl])
          · exact hs
        · exact hs
      · split
        · exact hs.dropWaiter k
        · exact hs
      · next hwait =>
        split
        · next hp => exact hs.parkPromise hlive hp.1 hp.2 (waiting_eq_none.1 hwait)
        · split
          · next hp => exact hs.retireReserved hlive hp.1 _
          · exact hs

theorem Relay.judgeYieldSurvey (hs : Relay s) (k : Slot) : Relay (judgeYieldSurvey k s).1 := by
  unfold Machine.judgeYieldSurvey
  split
  · next c l hh =>
    split
    · next hw => exact hs.endSurvey (holding_eq_some hh).1 hw
    · exact hs
  · exact hs

/-! ### LEAVE (R121) -/

/-- One slot record is written in form. -/
theorem SlotsInForm.setSlot (hs : SlotsInForm s) {x : SlotRec} (h1 : x.link = .vacant ↔ x.robotId = none)
    (h2 : x.link = .vacant → x.miss = 0)
    (h3 : x.link = .live → ∀ j, j ≠ k → (s.slot j).link = .live → (s.slot j).robotId ≠ x.robotId) :
    SlotsInForm (s.setSlot k x) := by
  obtain ⟨a1, a2, a3⟩ := hs
  have hslot := fun j => setSlot_slot_if s k j x
  refine ⟨fun j => ?_, fun j => ?_, fun i j hi hj e => ?_⟩
  · rw [hslot]; split
    · exact h1
    · exact a1 j
  · rw [hslot]; split
    · exact h2
    · exact a2 j
  · rw [hslot] at hi hj e
    rw [hslot] at e
    split at hi <;> split at hj
    · next e1 e2 => exact e1.symm.trans e2
    · next e1 e2 => rw [if_pos e1, if_neg e2] at e; exact absurd e.symm (h3 hi j (Ne.symm e2) hj)
    · next e1 e2 => rw [if_neg e1, if_pos e2] at e; exact absurd e (h3 hj i (Ne.symm e1) hi)
    · next e1 e2 => rw [if_neg e1, if_neg e2] at e; exact a3 i j hi hj e

theorem Relay.setUnused (hs : Relay s) (hu : Unused s k) {x : SlotRec} (hx : x.link ≠ .live)
    (h1 : x.link = .vacant ↔ x.robotId = none) (h2 : x.link = .vacant → x.miss = 0) : Relay (s.setSlot k x) := by
  refine hs.relink ((setSlot_only k x s).mono (by decide)) (SlotsInForm.setSlot hs.consistent.slots h1 h2 fun h => absurd h hx)
    fun j hj => ?_
  by_cases e : k = j
  · subst e; exact .inr hu
  · left; rwa [State.isLive, setSlot_slot_if, if_neg e]

/-- A LIVE slot that holds no lock and reserves nothing leaves. -/
theorem Relay.acceptLeave (hs : Relay s) (hh : s.holding k = none) (hr : s.recordsWhere (·.reservedBy k) = []) :
    Relay (acceptLeave k s) := by
  obtain ⟨hrel, hun⟩ := (hs.dropWaiter k).forsaken (k := k) (fun c l hl => holding_eq_none.1 hh c l hl)
    (dropWaiter_notWaiting s k) fun i r hl hst hk => by
      have := recordsWhere_eq_nil.1 hr i r hl
      simp [Record.reservedBy, Record.reserves, hst, hk] at this
  exact hrel.setUnused hun (by simp [SlotRec.vacated]) (by simp [SlotRec.vacated]) (by simp [SlotRec.vacated])

theorem Relay.judgeLeave (hs : Relay s) (k : Slot) : Relay (judgeLeave k s).1 := by
  unfold Machine.judgeLeave
  split
  · exact hs
  · next hh =>
    split
    · exact hs
    · next hr => exact hs.acceptLeave (by simpa using hh) (not_not.1 hr)

/-! ### The judging of a request (R131, R132) -/

theorem Relay.ownerJudges (hs : Relay s) (hk : s.isLive k) (x : Request) : Relay (ownerJudges k x s).1 := by
  cases x with
  | join id => unfold Machine.ownerJudges judgeJoin; dsimp only; split <;> exact hs
  | leave => exact hs.judgeLeave k
  | park tag => exact hs.judgePark hk tag
  | lock col x => exact hs.judgeLock hk col x
  | setDown x => exact hs.judgeSetDown k x
  | pickUp x => exact hs.judgePickUp k x
  | claim tag => exact hs.judgeClaim hk tag
  | yield x => exact hs.judgeYield k x
  | yieldSurvey => exact hs.judgeYieldSurvey k
  | survey col tags => exact hs.judgeSurvey k col tags
  | bad => exact hs

theorem Relay.judgeRequest (hs : Relay s) (hk : s.isLive k) (x : Request) : Relay (judgeRequest k x s).1 := by
  unfold Machine.judgeRequest
  split
  · exact hs
  · split
    · exact hs
    · split
      · exact hs
      · exact hs.ownerJudges hk x

end Sys2Proof.Machine
end

section
namespace Sys2Proof.Machine

open Sys2Proof.Safety Function

variable {s t u : State} {c d : Col} {g h : Handle} {r q : Record} {i j : RecIdx} {k : Slot} {w : Work} {l : Lock}

/-! ### A slot is lost (R118, R145) -/

theorem breakLock_unlocks (c d : Col) : (breakLock c s).lockOf d = if c = d then none else s.lockOf d := by
  unfold breakLock
  split
  · next hn => split
               · next e => rw [← e]; exact hn
               · rfl
  · split
    · exact strand_lockOf ..
    · exact endLock_lockOf ..

theorem retire_live (i j : RecIdx) (x : Retirement) : (retire i x s).live j = if i = j then none else s.live j := by
  cases hr : s.live i with
  | none =>
    rw [retire_none s hr]
    split
    · next e => rw [← e]; exact hr
    · rfl
  | some r => exact (retire_sets hr x).live j

theorem retireAll_live (l : List RecIdx) (j : RecIdx) (x : Retirement) :
    (forEach l (fun i => retire i x) s).live j = if j ∈ l then none else s.live j := by
  induction l generalizing s with
  | nil => rfl
  | cons i l ih =>
    rw [show forEach (i :: l) (fun i => retire i x) s = forEach l (fun i => retire i x) (retire i x s) from rfl, ih, retire_live]
    by_cases h1 : j ∈ l <;> by_cases h2 : i = j <;> simp [h1, h2, Ne.symm]

theorem retireAll_lockOf (l : List RecIdx) (c : Col) (x : Retirement) :
    (forEach l (fun i => retire i x) s).lockOf c = s.lockOf c := by
  induction l generalizing s with
  | nil => rfl
  | cons i l ih => exact ih.trans (retire_lockOf s i x c)

theorem retireAll_waits (l : List RecIdx) (c : Col) (x : Retirement) :
    ((forEach l (fun i => retire i x) s).waitsOf c).Sublist (s.waitsOf c) := by
  induction l generalizing s with
  | nil => exact List.Sublist.refl _
  | cons i l ih => exact ih.trans (retire_waits_sublist i x c)

/-- What a slot that holds no lock has is given up (R145). -/
def giveUp (k : Slot) (s : State) : State :=
  let u := forEach ((s.dropWaiter k).recordsWhere fun r => r.state = .reserved && r.releaser = some k)
    (fun i => retire i .unplaced) (s.dropWaiter k)
  (dropDesignations k (dropPromises k u)).setMark k none

theorem loseHoldings_of_holder {l : Lock} (hh : s.holding k = some (c, l)) : loseHoldings k s = giveUp k (breakLock c s) := by
  simp only [loseHoldings, hh, giveUp]

theorem loseHoldings_of_none (hh : s.holding k = none) : loseHoldings k s = giveUp k s := by
  simp only [loseHoldings, hh, giveUp]

theorem Relay.giveUp (hs : Relay s) (hhold : ∀ c l, s.lockOf c = some l → l.holder ≠ k) :
    Relay (giveUp k s) ∧ Unused (giveUp k s) k := by
  refine Relay.forsaken (Relay.retireAll (hs.dropWaiter k) (fun i hi => ?_) (recordsWhere_nodup _) _) (fun c l hl => ?_)
    (fun c e he => ?_) fun i r hr hst hk => ?_
  · obtain ⟨r, hr, hp⟩ := mem_recordsWhere.1 hi
    simp only [Bool.and_eq_true, decide_eq_true_eq] at hp
    exact ⟨r, hr, hp.1⟩
  · rw [retireAll_lockOf] at hl
    exact hhold c l hl
  · exact dropWaiter_notWaiting s k c e ((retireAll_waits _ c _).subset he)
  · rw [retireAll_live] at hr
    split at hr
    · cases hr
    · next hn => exact hn (mem_recordsWhere.2 ⟨r, hr, by simp [hst, hk]⟩)

/-- R145: a slot gives up all that it has. -/
theorem Relay.loseHoldings (hs : Relay s) (k : Slot) : Relay (loseHoldings k s) ∧ Unused (loseHoldings k s) k := by
  cases hh : s.holding k with
  | none =>
    rw [loseHoldings_of_none hh]
    exact hs.giveUp fun c l hl => holding_eq_none.1 hh c l hl
  | some p =>
    obtain ⟨c, m⟩ := p
    obtain ⟨hm, hk⟩ := holding_eq_some hh
    rw [loseHoldings_of_holder hh]
    refine (hs.breakLock c).giveUp fun d l hl hlk => ?_
    rw [breakLock_unlocks] at hl
    split at hl
    · cases hl
    · next hne => exact hne (positions_column hs.consistent.positions (holder_mem hm hk) (holder_mem hl hlk))

/-- Fields of a slot record change that the laws of the relay table do not read, or the miss count of a LIVE slot. -/
theorem Relay.setFields (hs : Relay s) {x : SlotRec} (hl : x.link = (s.slot k).link) (hr : x.robotId = (s.slot k).robotId)
    (hm : (s.slot k).link = .vacant → x.miss = (s.slot k).miss) : Relay (s.setSlot k x) := by
  have hslot := fun j => setSlot_slot_if s k j x
  refine hs.sameRows (.of_line ((setSlot_only k x s).mono (by decide)) (fun j => ?_) (fun j => ?_) fun j hv => ?_) <;> rw [hslot] <;>
    split
  · next e => rw [← e]; exact hl
  · rfl
  · next e => rw [← e]; exact hr
  · rfl
  · next e => subst e; exact hm hv
  · rfl

theorem Relay.missSlot (hs : Relay s) (hk : s.isLive k) : Relay (missSlot k s) := by
  have hlink : (s.slot k).link = .live := by simpa [State.isLive] using hk
  have hs' : Relay (s.setSlot k { s.slot k with miss := min 15 ((s.slot k).miss + 1) }) :=
    hs.setFields rfl rfl fun hv => by rw [hlink] at hv; cases hv
  unfold Machine.missSlot
  dsimp only
  split
  · generalize hu : s.setSlot k { s.slot k with miss := min 15 ((s.slot k).miss + 1) } = u at hs' ⊢
    have hku : (u.slot k).link = .live := by rw [← hu, setSlot_slot_if, if_pos rfl]; exact hlink
    obtain ⟨hrel, hun⟩ := hs'.loseHoldings k
    have hslot : (Machine.loseHoldings k u).slot k = u.slot k := slot_congr ((loseHoldings_only k u).line (by decide)) k
    have hid : (u.slot k).robotId ≠ none := fun e => by
      have := (hs'.consistent.slots.1 k).2 e
      rw [hku] at this; cases this
    unfold loseSlot
    dsimp only
    rw [hslot]
    refine (hrel.setUnused hun (x := { u.slot k with link := .lost, verdict := none }) (by simp) (by simpa using hid)
      (by simp)).sameRows (.of_only ((raise_only .lost _).mono (by decide)))
  · exact hs'

/-! ### Answers taken (R118, R119) -/

theorem Relay.takeCondition (hs : Relay s) (k : Slot) : Relay (takeCondition k s) := by
  unfold Machine.takeCondition
  split
  · split
    · exact hs.expireLock _
    · exact hs.dropWaiter k
  · exact hs

theorem Relay.setVerdict (hs : Relay s) (k : Slot) (v : Option Verdict) : Relay (setVerdict k v s) :=
  hs.setFields rfl rfl fun _ => rfl

theorem Relay.takeRequest (hs : Relay s) (hk : s.isLive k) (x : Request) (b : Bool) : Relay (takeRequest k x b s) := by
  unfold Machine.takeRequest
  have h := (hs.judgeRequest hk x).setVerdict k (some (Machine.judgeRequest k x s).2)
  dsimp only
  split
  · exact h
  · exact h.setMark (.inl rfl)

theorem Relay.takeRegular (hs : Relay s) (hk : s.isLive k) (st : Status) (x : Option Request) : Relay (takeRegular k st x s) := by
  have hlink : (s.slot k).link = .live := by simpa [State.isLive] using hk
  have h1 : Relay (takeStatus k st s) := hs.setFields rfl rfl fun hv => by rw [hlink] at hv; cases hv
  have h2 := (h1.takeCondition k).setVerdict k none
  unfold Machine.takeRegular
  dsimp only
  split
  · exact h2
  · refine h2.takeRequest ?_ _ _
    simp [State.isLive, Machine.setVerdict, takeStatus, SlotRec.withStatus, hlink]

theorem Relay.takeProbe (hs : Relay s) (k : Slot) (st : Status) (x : Option Request) :
    Relay (takeProbe k st x s) := by
  unfold Machine.takeProbe
  split
  · next id =>
    split
    · exact hs
    · split
      · exact hs.setVerdict k _
      · next hid =>
        have hfree : ∀ j, (s.slot j).link = .live → (s.slot j).robotId ≠ some id := fun j hj e => by
          refine hid ?_
          simp only [State.idLive, List.any_eq_true, Bool.and_eq_true, decide_eq_true_eq, State.isLive]
          exact ⟨j, List.mem_finRange j, hj, e⟩
        refine hs.relink ((setSlot_only k _ s).mono (by decide)) (SlotsInForm.setSlot hs.consistent.slots (by simp) (by simp)
          fun _ j _ hj => hfree j hj) fun j hj => .inl ?_
        rw [State.isLive, setSlot_slot_if]
        split
        · rfl
        · exact hj
  · exact hs

/-- R115: the CALL of an exchange went to a slot that may have it. -/
theorem Relay.takeAnswer (hs : Relay s) {x : Exchange} (hr : x.kind = .regular → (s.slot x.slot).link = .live) (st : Status) (q : Option Request) : Relay (takeAnswer x st q s) := by
  unfold Machine.takeAnswer
  split
  · next e => exact hs.takeRegular (by simpa [State.isLive] using hr e) st q
  · exact hs.takeProbe _ st q

theorem Relay.noAnswer (hs : Relay s) {x : Exchange} (hr : x.kind = .regular → (s.slot x.slot).link = .live) :
    Relay (noAnswer x s) := by
  unfold Machine.noAnswer
  split
  · next e => exact hs.missSlot (by simpa [State.isLive] using hr e)
  · exact hs

end Sys2Proof.Machine
end

section
namespace Sys2Proof.Machine

open Sys2Proof.Safety Function

variable {s t u : State} {c d : Col} {g h : Handle} {r q : Record} {i j : RecIdx} {k : Slot} {w : Work} {l : Lock}

/-! ### The run state of the link through an answer -/

@[simp] theorem setSlot_run (k : Slot) (x : SlotRec) : (s.setSlot k x).line.run = s.line.run := rfl

theorem resolveAbsentPlacement_line (i : RecIdx) (b : Bool) : (resolveAbsentPlacement i b s).line = s.line := by
  unfold resolveAbsentPlacement; split <;> simp

theorem resolveLiftInPlace_line (i : RecIdx) (x : Option Slot) (b : Bool) : (resolveLiftInPlace i x b s).line = s.line := by
  unfold resolveLiftInPlace; split <;> simp

theorem matchSurvey_line {tags : List Tag} {f : State → State} (hf : resolution c tags s = some f) :
    (matchSurvey c f s).line = s.line := by
  change (f s).line = s.line
  unfold resolution at hf
  split at hf
  · cases hf
  · split at hf
    · cases hf
    · dsimp only at hf
      split at hf
      · split at hf
        · split at hf
          · cases hf; exact resolveAbsentPlacement_line _ _
          · split at hf
            · cases hf; simp
            · cases hf
        · split at hf
          · cases hf; exact resolveLiftInPlace_line _ _ _
          · split at hf
            · cases hf; simp [resolveLiftGone]
            · cases hf
        · cases hf
      · cases hf

theorem judgeSurvey_line (k : Slot) (col : Byte) (tags : List Tag) : (judgeSurvey k col tags s).1.line = s.line := by
  unfold judgeSurvey
  split
  · rfl
  · split
    · rfl
    · split
      · rfl
      · split
        · next f hf => exact matchSurvey_line hf
        · split <;> rfl

theorem judgeSurveyLock_line (k : Slot) (col : Byte) : (judgeSurveyLock k col s).1.line = s.line := by
  unfold judgeSurveyLock
  split
  · rfl
  · split <;> simp

theorem judgeWorkLock_line (k : Slot) (col : Byte) (h : Handle) : (judgeWorkLock k col h s).1.line = s.line := by
  unfold judgeWorkLock
  split
  · rfl
  · split
    · rfl
    · split
      · rfl
      · split
        · rfl
        · split
          · rfl
          · split
            · simp
            · split <;> simp

theorem judgeLock_line (k : Slot) (col : Byte) (x : Option Handle) : (judgeLock k col x s).1.line = s.line := by
  unfold judgeLock
  split
  · split <;> rfl
  · split
    · split <;> rfl
    · split
      · exact judgeSurveyLock_line k col
      · exact judgeWorkLock_line k col _

theorem judgePark_line (k : Slot) (tag : Tag) : (judgePark k tag s).1.line = s.line := by
  unfold judgePark
  split
  · rfl
  · split
    · split <;> rfl
    · split
      · rfl
      · split
        · rfl
        · split
          · rfl
          · dsimp only
            split
            · rfl
            · dsimp only [reservePlace]
              simp

theorem judgeSetDown_line (k : Slot) (h : Handle) : (judgeSetDown k h s).1.line = s.line := by
  unfold judgeSetDown
  split
  · rfl
  · split
    · rfl
    · split
      · split
        · rfl
        · simp [acceptSetDown]
      · rfl

theorem judgePickUp_line (k : Slot) (h : Handle) : (judgePickUp k h s).1.line = s.line := by
  unfold judgePickUp
  split
  · rfl
  · split
    · rfl
    · split
      · split
        · simp [acceptPickUp]
        · split
          · rfl
          · simp
      · rfl

theorem judgeClaim_line (k : Slot) (tag : Tag) : (judgeClaim k tag s).1.line = s.line := by
  unfold judgeClaim
  split
  · rfl
  · split
    · split <;> rfl
    all_goals simp

theorem judgeYield_line (k : Slot) (h : Handle) : (judgeYield k h s).1.line = s.line := by
  unfold judgeYield
  split
  · rfl
  · split
    · rfl
    · split
      · split
        · split
          · simp
          · rfl
        · rfl
      · split
        · simp
        · rfl
      · split
        · simp
        · split
          · simp
          · rfl

theorem judgeYieldSurvey_line (k : Slot) : (judgeYieldSurvey k s).1.line = s.line := by
  unfold judgeYieldSurvey
  split
  · split
    · simp
    · rfl
  · rfl

theorem judgeLeave_run (k : Slot) : (judgeLeave k s).1.line.run = s.line.run := by
  unfold judgeLeave
  split
  · rfl
  · split
    · rfl
    · simp [acceptLeave]

theorem judgeJoin_line (k : Slot) (id : RobotId) : (judgeJoin k id s).1.line = s.line := by
  unfold judgeJoin
  split <;> rfl

/-- No judgment of a request changes the run state of the link. -/
theorem ownerJudges_run (k : Slot) (x : Request) : (ownerJudges k x s).1.line.run = s.line.run := by
  cases x with
  | join id => exact congrArg Line.run (judgeJoin_line k id)
  | leave => exact judgeLeave_run k
  | park tag => exact congrArg Line.run (judgePark_line k tag)
  | lock col x => exact congrArg Line.run (judgeLock_line k col x)
  | setDown x => exact congrArg Line.run (judgeSetDown_line k x)
  | pickUp x => exact congrArg Line.run (judgePickUp_line k x)
  | claim tag => exact congrArg Line.run (judgeClaim_line k tag)
  | yield x => exact congrArg Line.run (judgeYield_line k x)
  | yieldSurvey => exact congrArg Line.run (judgeYieldSurvey_line k)
  | survey col tags => exact congrArg Line.run (judgeSurvey_line k col tags)
  | bad => rfl

theorem judgeRequest_run (k : Slot) (x : Request) : (judgeRequest k x s).1.line.run = s.line.run := by
  unfold judgeRequest
  split
  · rfl
  · split
    · rfl
    · split
      · rfl
      · exact ownerJudges_run k x

theorem takeRequest_run (k : Slot) (x : Request) (b : Bool) : (takeRequest k x b s).line.run = s.line.run := by
  unfold takeRequest
  dsimp only
  split <;> exact judgeRequest_run k x

theorem takeRegular_run (k : Slot) (st : Status) (x : Option Request) : (takeRegular k st x s).line.run = s.line.run := by
  have hcond : (setVerdict k none (takeCondition k (takeStatus k st s))).line.run = s.line.run := by
    have h := congrArg Line.run ((takeCondition_only k (takeStatus k st s)).line (by decide))
    exact h
  unfold takeRegular
  dsimp only
  split
  · exact hcond
  · exact (takeRequest_run k _ _).trans hcond

theorem takeProbe_run (k : Slot) (st : Status) (x : Option Request) : (takeProbe k st x s).line.run = s.line.run := by
  unfold takeProbe
  split
  · split
    · rfl
    · split <;> rfl
  · rfl

theorem takeAnswer_run (x : Exchange) (st : Status) (q : Option Request) : (takeAnswer x st q s).line.run = s.line.run := by
  unfold takeAnswer
  split
  · exact takeRegular_run ..
  · exact takeProbe_run ..

theorem loseSlot_run (k : Slot) : (loseSlot k s).line.run = s.line.run := by
  have h := congrArg Line.run ((loseHoldings_only k s).line (by decide))
  exact h

theorem noAnswer_run (x : Exchange) : (noAnswer x s).line.run = s.line.run := by
  unfold noAnswer missSlot
  dsimp only
  split
  · split
    · exact loseSlot_run _
    · rfl
  · rfl

/-! ### Rounds keep the laws -/

theorem Relay.lineMoves (hs : Relay s) (hm : LineMoves s t) : Relay t := by
  refine hs.sameRows (.of_line hm.rest hm.link (fun k => ?_) fun k _ => ?_)
  · have h := congrArg SlotRec.robotId (hm.slots k)
    exact h
  · have h := congrArg SlotRec.miss (hm.slots k)
    exact h

theorem sendCall_callsFit {kind : CallKind} (hsel : s.selects k = some kind) (hrun : s.line.run = .running) :
    CallsFit (sendCall k kind s) := by
  have hph := sendCall_phase s k kind
  have hr : (sendCall k kind s).line.run = .running := by rw [sendCall_line_eq]; exact hrun
  have hlink : ((sendCall k kind s).slot k).link = (s.slot k).link := by
    rw [sendCall_slot]; split <;> rfl
  refine ⟨fun h => (by rw [hph] at h; cases h), fun h => (by rw [hph] at h; rcases h with h | h <;> cases h), fun x hx => ?_⟩
  simp only [exchangeOf, hph, Option.mem_def, Option.some.injEq] at hx
  subst hx
  refine ⟨by rw [hr]; exact nofun, fun hk => ?_, fun hk => ?_⟩ <;> simp only at hk ⊢ <;> subst hk
  · rw [hlink]; exact selects_regular s hsel
  · rw [hlink]; exact selects_probe s hsel

theorem passBlocks_line (l : List Block) (s : State) : (passBlocks l s).1.line = s.line :=
  (passBlocks_only l s).line (by decide)

theorem waiting_callsFit {p : LinePhase} (hp : p = .emptyRound ∨ p = .waiting) (hrun : s.line.run = .running) :
    CallsFit (s.setPhase p) := by
  refine ⟨fun h => ?_, fun _ => hrun, fun x hx => ?_⟩
  · change p = .idle at h
    rcases hp with hp | hp <;> rw [hp] at h <;> cases h
  · rcases hp with rfl | rfl <;> cases hx

theorem startRound_callsFit (hrun : s.line.run = .running) : CallsFit (startRound s) := by
  have hline := passBlocks_line allBlocks (openRound s)
  unfold startRound
  split
  · next u k kind h =>
    rw [h] at hline
    have hsel := (passBlocks_some _ (congrArg Prod.snd h)).1
    rw [← selects_congr hline] at hsel
    exact sendCall_callsFit hsel (by rw [hline]; exact hrun)
  · next u h =>
    rw [h] at hline
    exact waiting_callsFit (.inl rfl) (by rw [hline]; exact hrun)

theorem endRound_callsFit (hrun : s.line.run = .running) : CallsFit (endRound s) := by
  have hrun' : (if s.roundLate then raise .lateRound (measureRound s) else measureRound s).line.run = .running := by
    split <;> exact hrun
  unfold endRound
  dsimp only
  split
  · exact startRound_callsFit hrun'
  · exact waiting_callsFit (.inr rfl) hrun'

theorem continueRound_callsFit (k : Slot) (hrun : s.line.run = .running) : CallsFit (continueRound k s) := by
  unfold continueRound
  dsimp only
  split
  · next j kind h => exact sendCall_callsFit (nextCall_some s h).2 hrun
  · have hline := passBlocks_line (allBlocks.filter fun c => (⟨k.val / 8, by omega⟩ : Block) < c)
      (blockEnd ⟨k.val / 8, by omega⟩ s)
    split
    · next u j kind h =>
      rw [h] at hline
      have hsel := (passBlocks_some _ (congrArg Prod.snd h)).1
      rw [← selects_congr hline] at hsel
      exact sendCall_callsFit hsel (by rw [hline]; simpa using hrun)
    · next u h =>
      rw [h] at hline
      exact endRound_callsFit (by rw [hline]; simpa using hrun)

theorem stopLink_callsFit (s : State) : CallsFit (stopLink s) := by
  refine ⟨fun _ => rfl, fun h => ?_, fun x hx => ?_⟩
  · rcases h with h | h <;> cases h
  · cases hx

/-- After the end of an exchange of a link that is not STOPPED the calls are as they should be. -/
theorem afterExchange_callsFit (k : Slot) (hrun : s.line.run ≠ .stopped) : CallsFit (afterExchange k s) := by
  unfold afterExchange
  split
  · exact stopLink_callsFit s
  · next h =>
    refine continueRound_callsFit k ?_
    cases hr : s.line.run with
    | stopped => exact absurd hr hrun
    | running => rfl
    | stopping => exact absurd hr h

/-- What the laws say of the exchange in progress. -/
theorem coherent_calling (hs : Coherent s) {x : Exchange} (hx : s.line.phase = .calling x) :
    s.line.run ≠ .stopped ∧ (x.kind = .regular → (s.slot x.slot).link = .live) := by
  obtain ⟨h1, h2, -⟩ := hs.calls.2.2 x (by simp [exchangeOf, hx])
  exact ⟨h1, h2⟩

theorem afterExchange_coherent (hs : Relay s) (hrun : s.line.run ≠ .stopped) (k : Slot) : Coherent (afterExchange k s) :=
  coherent_iff.2 ⟨hs.lineMoves (afterExchange_moves s k), afterExchange_callsFit k hrun⟩

theorem Relay.setLine (hs : Relay s) {x : Line} (hx : x.slots = s.line.slots) : Relay (s.setLine x) :=
  hs.lineMoves (.of_line hx)

theorem relay_of_coherent (hs : Coherent s) : Relay s := (coherent_iff.1 hs).1

/-- An exchange with an answer in reception ends, with a treatment that keeps the laws of the tables. -/
theorem endReception_coherent (hs : Coherent s) {f : Exchange → State → State}
    (hf : ∀ x, s.line.phase = .calling x → Relay (f x s)) (hr : ∀ x, (f x s).line.run = s.line.run) :
    Coherent (endReception f s) := by
  unfold endReception
  split
  · next x hx =>
    split
    · exact afterExchange_coherent (hf x hx) (by rw [hr]; exact (coherent_calling hs hx).1) _
    · exact hs
  · exact hs
  · exact hs
  · exact hs

theorem answered_coherent (hs : Coherent s) (st : Status) (q : Option Request) : Coherent (answered st q s) :=
  endReception_coherent hs (fun _ hx => (relay_of_coherent hs).takeAnswer (coherent_calling hs hx).2 st q)
    fun x => takeAnswer_run x st q

theorem receiveAnswer_coherent (hs : Coherent s) (bytes : List Byte) (b : Bool) : Coherent (receiveAnswer bytes b s) := by
  refine endReception_coherent hs (fun _ hx => ?_) fun x => ?_
  · split
    · exact (relay_of_coherent hs).takeAnswer (coherent_calling hs hx).2 _ _
    · exact (relay_of_coherent hs).noAnswer (coherent_calling hs hx).2
  · split
    · exact takeAnswer_run ..
    · exact noAnswer_run x

theorem overlength_coherent (hs : Coherent s) : Coherent (endReception noAnswer s) :=
  endReception_coherent hs (fun _ hx => (relay_of_coherent hs).noAnswer (coherent_calling hs hx).2) noAnswer_run

/-- The phase and the slots of the line stay, and the link runs or stops as before. -/
theorem coherent_setLine (hs : Coherent s) {x : Line} (hx : x.slots = s.line.slots) (hp : x.phase = s.line.phase)
    (hr : x.run = s.line.run) : Coherent (s.setLine x) := by
  obtain ⟨hrel, h1, h2, h3⟩ := coherent_iff.1 hs
  refine coherent_iff.2 ⟨hrel.setLine hx, fun h => ?_, fun h => ?_, fun e he => ?_⟩
  · exact hr.trans (h1 (hp.symm.trans h))
  · exact hr.trans (h2 (h.imp hp.symm.trans hp.symm.trans))
  · have hslot : ∀ k, (s.setLine x).slot k = s.slot k := fun k => by
      change x.slots[k] = s.line.slots[k]; rw [hx]
    have he' : e ∈ exchangeOf s := by
      have h : (s.setLine x).line.phase = s.line.phase := hp
      simpa only [exchangeOf, h] using he
    obtain ⟨a, b, c⟩ := h3 e he'
    exact ⟨fun h => a (hr.symm.trans h), fun h => by rw [hslot]; exact b h, fun h => by rw [hslot]; exact c h⟩

theorem expireWindow_coherent (hs : Coherent s) : Coherent (expireWindow s) := by
  unfold expireWindow
  split
  · next x hx =>
    split
    · exact hs
    · obtain ⟨hrun, hreg⟩ := coherent_calling hs hx
      exact coherent_setLine (afterExchange_coherent ((relay_of_coherent hs).noAnswer hreg) (by rw [noAnswer_run]; exact hrun) _)
        rfl rfl rfl
  · exact hs
  · exact hs
  · exact hs

theorem openReception_coherent (hs : Coherent s) : Coherent (openReception s) := by
  unfold openReception
  split
  · next x hx =>
    split
    · exact coherent_setLine hs rfl rfl rfl
    · obtain ⟨hrel, h1, h2, h3⟩ := coherent_iff.1 hs
      refine coherent_iff.2 ⟨hrel.setLine rfl, nofun, fun h => (by rcases h with h | h <;> cases h), fun e he => ?_⟩
      cases he
      exact h3 x (by simp [exchangeOf, hx])
  · exact hs
  · exact hs
  · exact hs

theorem startRound_coherent (hs : Relay s) (hrun : s.line.run = .running) : Coherent (startRound s) :=
  coherent_iff.2 ⟨hs.lineMoves (startRound_moves s), startRound_callsFit hrun⟩

theorem endEmptyRound_coherent (hs : Coherent s) : Coherent (endEmptyRound s) := by
  unfold endEmptyRound
  split
  · next hp =>
    exact coherent_iff.2 ⟨(relay_of_coherent hs).lineMoves (endRound_moves s), endRound_callsFit (hs.calls.2.1 (.inl hp))⟩
  all_goals exact hs

theorem roundDue_coherent (hs : Coherent s) : Coherent (roundDue s) := by
  unfold roundDue
  split
  · next hp => exact startRound_coherent (relay_of_coherent hs) (hs.calls.2.1 (.inr hp))
  · split
    · exact coherent_setLine hs rfl rfl rfl
    · exact hs
  · split
    · exact coherent_setLine hs rfl rfl rfl
    · exact hs
  · exact hs

theorem ownLinkStart_coherent (hs : Coherent s) : Coherent (ownLinkStart s).1 := by
  unfold ownLinkStart
  split
  · exact startRound_coherent ((relay_of_coherent hs).setLine rfl) rfl
  · exact hs
  · next hrun =>
    obtain ⟨hrel, h1, h2, h3⟩ := coherent_iff.1 hs
    refine coherent_iff.2 ⟨hrel.setLine rfl, fun h => ?_, fun _ => rfl, fun e he => ⟨nofun, (h3 e he).2⟩⟩
    have := h1 h
    rw [hrun] at this; cases this

theorem ownLinkStop_coherent (hs : Coherent s) : Coherent (ownLinkStop s).1 := by
  unfold ownLinkStop
  split
  · exact hs
  · exact hs
  · split
    · next x hx =>
      obtain ⟨hrel, h1, h2, h3⟩ := coherent_iff.1 hs
      refine coherent_iff.2 ⟨hrel.setLine rfl, fun h => ?_, fun h => ?_, fun e he => ⟨nofun, (h3 e he).2⟩⟩
      · change s.line.phase = _ at h
        rw [hx] at h; cases h
      · change s.line.phase = _ ∨ s.line.phase = _ at h
        rw [hx] at h
        rcases h with h | h <;> cases h
    all_goals exact coherent_iff.2 ⟨(relay_of_coherent hs).setLine rfl, stopLink_callsFit s⟩

end Sys2Proof.Machine
end

section
namespace Sys2Proof.Machine

open Sys2Proof.Safety Function

variable {s t u : State} {c d : Col} {g h : Handle} {r q : Record} {i j : RecIdx} {k : Slot} {w : Work} {l : Lock}

/-! ### The laws of the line's phase under the operations of other blocks -/

theorem coherent_of_links (hs : Coherent s) (hr : Relay t) (hp : t.line.phase = s.line.phase) (hrun : t.line.run = s.line.run)
    (hl : ∀ x, s.line.phase = .calling x → (t.slot x.slot).link = (s.slot x.slot).link) : Coherent t := by
  obtain ⟨h1, h2, h3⟩ := hs.calls
  refine coherent_iff.2 ⟨hr, by rw [hp, hrun]; exact h1, by rw [hp, hrun]; exact h2, fun x hx => ?_⟩
  have hx' : x ∈ exchangeOf s := by simpa only [exchangeOf, hp] using hx
  have hph : s.line.phase = .calling x := by
    unfold exchangeOf at hx'
    split at hx' <;> simp_all
  rw [hrun, hl x hph]
  exact h3 x hx'

theorem coherent_of_line (hs : Coherent s) (hr : Relay t) (hl : t.line = s.line) : Coherent t :=
  coherent_of_links hs hr (by rw [hl]) (by rw [hl]) fun x _ => by rw [slot_congr hl]

/-- Changes outside the line and the tables of the relay. -/
theorem coherent_of_tables (hs : Coherent s) (hline : t.line = s.line) (hcols : t.columns = s.columns)
    (hrecs : t.handoff = s.handoff) (hlocks : t.lock = s.lock) (hsurvey : t.survey.surveyors = s.survey.surveyors) :
    Coherent t :=
  coherent_of_line hs ((relay_of_coherent hs).sameRows (.of_tables hline hcols hrecs hlocks hsurvey)) hline

/-! ### The column table (R4, R7) -/

/-- The definition or the service state of a column changes. -/
theorem Relay.redefine (hs : Relay s) {x : Column} (hstack : x.stack = (s.col c).stack)
    (hstr : x.stranded = (s.col c).stranded) (hid : x.strandingId = (s.col c).strandingId)
    (hb : ¬ ((s.col c).service = .suspect ∨ (s.col c).service = .fault)) (hx : ¬ (x.service = .suspect ∨ x.service = .fault))
    (hout : ¬ (x.service = .opened ∨ x.service = .draining) → s.lockOf c = none ∧ s.waitsOf c = [])
    (hload : s.binsOf c ≤ x.capacity ∧ x.capacity ≤ 6 ∧ (x.service = .undefined ∨ x.service = .out → s.binsOf c = 0)) :
    Relay (s.setCol c x) := by
  have hbay : ∀ d, (s.setCol c x).bay d = if c = d then { s.bay d with column := x } else s.bay d := fun d => by
    simp only [State.bay, setCol_col_if, setCol_lockOf, setCol_waitsOf, setCol_surveyor]
    split <;> rfl
  have hrec : (s.setCol c x).recIn = s.recIn := rfl
  have hcol : ∀ d, ((s.setCol c x).col d).stack = (s.col d).stack := fun d => by
    rw [setCol_col_if]; split
    · next e => rw [← e]; exact hstack
    · rfl
  refine ((hs.but c).of_beside (t := s.setCol c x) ⟨rfl, fun _ => rfl, fun d hd => by rw [hbay, if_neg (Ne.symm hd)], fun _ _ => rfl⟩
    (hs.consistent.table.of_tags (fun _ => rfl) ⟨rfl, rfl⟩) hs.consistent.positions hs.consistent.reservations ?_ ?_
    fun g r hr => ?_).relay ?_
  · rw [hbay, if_pos rfl, hrec]
    exact (hs.consistent.bays c).redefine hstack hstr hid hb hx hout
  · change s.binsOf c ≤ ((s.setCol c x).col c).capacity ∧ ((s.setCol c x).col c).capacity ≤ 6 ∧
      (((s.setCol c x).col c).service = _ ∨ ((s.setCol c x).col c).service = _ → s.binsOf c = 0)
    rw [setCol_col_if, if_pos rfl]
    exact hload
  · rw [isBuried_of_column (s := s) (t := s.setCol c x) (hcol _)]
    exact hs.buried _ r (recIn_live hr).1
  · rw [hbay, if_pos rfl]
    intro hn e he
    obtain ⟨h1, h2⟩ := hs.scanned c hn e he
    refine ⟨h1, ?_⟩
    change x.stack.getLast? ≠ _
    rw [hstack]; exact h2

theorem binsOf_zero (h : s.binsOf c = 0) (g : Handle) : s.recIn c g = none := by
  rw [Option.eq_none_iff_forall_ne_some]
  intro r hr
  obtain ⟨hl, -, hc⟩ := recIn_live hr
  have : g.idx ∈ s.recordsWhere fun r => r.column = c := mem_recordsWhere.2 ⟨r, hl, by simpa using hc⟩
  rw [List.length_eq_zero_iff.1 h] at this
  cases this

theorem Relay.ownColumnDefine (hs : Relay s) (col x y capacity classes : Byte) :
    Relay (ownColumnDefine col x y capacity classes s).1 := by
  have key : ∀ c set, ¬ (127 < x.toNat ∨ 127 < y.toNat ∨ capacity.toNat = 0 ∨ 6 < capacity.toNat) →
      (s.col c).service = .undefined ∨ (s.col c).service = .out →
      Relay (s.setCol c { s.col c with
        x := x.toNat, y := y.toNat, capacity := capacity.toNat, allowed := set, service := .out, prior := .opened }) := by
    intro c set hrange hv
    have hb := hs.consistent.bays c
    have hzero := (hs.loads c).2.2 hv
    have hin : ¬ (s.bay c).inService := fun hin => by
      rcases hin with h | h <;> change (s.col c).service = _ at h <;> simp [h] at hv
    obtain ⟨hwaits, hsurv⟩ := hb.idle hin
    refine hs.redefine rfl rfl rfl (fun h => ?_) (by simp) (fun _ => ⟨?_, hwaits⟩) ⟨by simp [hzero], ?_, fun _ => hzero⟩
    · rcases h with h | h <;> simp [h] at hv
    · by_contra hne
      obtain ⟨l, hl⟩ := Option.ne_none_iff_exists'.1 hne
      have h2 := (hb.lock l hl).2
      rw [hsurv l hl] at h2
      have h3 : (s.col c).service = .suspect := h2.1
      simp [h3] at hv
    · change capacity.toNat ≤ 6; omega
  unfold Machine.ownColumnDefine
  split
  · next c set hc hset =>
    split
    · exact hs
    · next hrange =>
      cases hv : (s.col c).service <;> dsimp only
      case undefined => exact key c set hrange (.inl hv)
      case out => exact key c set hrange (.inr hv)
      all_goals exact hs
  · exact hs

theorem Relay.ownColumnService (hs : Relay s) (col state : Byte) : Relay (ownColumnService col state s).1 := by
  have key : ∀ c asked, readAskedService state = some asked →
      ((s.col c).service = .opened ∨ (s.col c).service = .draining ∨ (s.col c).service = .out) →
      ¬ (asked = .out ∧ (0 < s.load c ∨ (s.lockOf c).isSome)) → Relay (s.setCol c { s.col c with service := asked }) := by
    intro c asked hask hv hbusy
    have hasked : asked = .opened ∨ asked = .draining ∨ asked = .out := by
      unfold readAskedService at hask
      split at hask <;> simp_all
    have hout : asked = .out → s.binsOf c = 0 ∧ s.lockOf c = none := fun e => by
      have := not_or.1 (not_and.1 hbusy e)
      rw [load_eq_binsOf (hs.consistent.bays c)] at this
      exact ⟨by omega, by simpa using this.2⟩
    obtain ⟨h1, h2, -⟩ := hs.loads c
    refine hs.redefine rfl rfl rfl (fun h => ?_) (fun h => ?_) (fun hin => ?_) ⟨h1, h2, fun h => ?_⟩
    · rcases h with h | h <;> simp [h] at hv
    · rcases hasked with rfl | rfl | rfl <;> simp at h
    · have he : asked = .out := by rcases hasked with rfl | rfl | rfl <;> simp at hin ⊢
      obtain ⟨hz, hl⟩ := hout he
      refine ⟨hl, List.eq_nil_iff_forall_not_mem.2 fun e he => ?_⟩
      obtain ⟨-, -, r, hr, -⟩ := (hs.consistent.bays c).waits e he
      rw [binsOf_zero hz] at hr; cases hr
    · have he : asked = .out := by rcases hasked with rfl | rfl | rfl <;> simp at h ⊢
      exact (hout he).1
  have asks : ∀ c asked, readAskedService state = some asked →
      ((s.col c).service = .opened ∨ (s.col c).service = .draining ∨ (s.col c).service = .out) →
      Relay (if asked = (s.col c).service then answer .ok s
        else if asked = .out ∧ (0 < s.load c ∨ (s.lockOf c).isSome) then answer .busy s
        else answer .ok (s.setCol c { s.col c with service := asked })).1 := by
    intro c asked hask hv
    split
    · exact hs
    · split
      · exact hs
      · next hbusy => exact key c asked hask hv hbusy
  unfold Machine.ownColumnService
  split
  · next c asked hc hask =>
    have hc := asks c asked hask
    cases hv : (s.col c).service <;> simp only [hv] at hc ⊢
    case opened | draining | out => exact hc (by simp)
    all_goals exact hs
  · exact hs

/-! ### The handoff table (R39, R40, R42, R90) -/

/-- After its collector's wait place is gone, nobody waits for a PROMISED record. -/
theorem Relay.dropCollectorWait_freed (hs : Relay s) (hr : s.live i = some r) (hst : r.state = .promised) :
    ∀ e ∈ (Machine.dropCollectorWait r (s.handleAt i) s).waitsOf r.column, e.handle ≠ s.handleAt i := by
  intro e he hh
  have hrf := (hs.consistent.bays r.column).records _ r (recIn_of_live hr rfl)
  simp only [RecordFits, hst] at hrf
  obtain ⟨-, -, k, hk, -⟩ := hrf
  simp only [Machine.dropCollectorWait, hk, dropLiftWait, setWaitsOf_waitsOf_if, if_true, List.mem_filter] at he
  obtain ⟨hlift, hcol⟩ := hs.awaits_promised hr hst he.1 hh
  rw [hk] at hcol
  simp [hlift, hh, Option.some.inj hcol] at he

theorem Relay.ownAssign (hs : Relay s) (idx gen slot : Byte) : Relay (ownAssign idx gen slot s).1 := by
  unfold Machine.ownAssign
  split
  · next h k hh hk =>
    split
    · exact hs
    · next r hr =>
      have hlive := live_of_named hr
      have hat := handleAt_of_named hr
      cases hst : r.state <;> dsimp only
      case parked =>
        split
        · next hk => exact hs.promise hlive (.inl hst) (hs.not_awaited hlive (by simp [hst]) (by simp [hst])) hk
        · exact hs
      case promised =>
        split
        · next hk =>
          split
          · exact hs
          · have hhand := dropCollectorWait_handoff r h s
            refine (hs.dropCollectorWait r h).promise (by rw [live_congr hhand]; exact hlive) (.inr hst) ?_ ?_
            · rw [handleAt_congr hhand]
              have := hs.dropCollectorWait_freed hlive hst
              rwa [hat] at this ⊢
            · rw [isLive_congr ((dropCollectorWait_only r h s).line (by decide))]; exact hk
        · exact hs
      all_goals exact hs
  · exact hs

theorem Relay.ownUnassign (hs : Relay s) (idx gen : Byte) : Relay (ownUnassign idx gen s).1 := by
  unfold Machine.ownUnassign
  split
  · exact hs
  · next h hh =>
    split
    · exact hs
    · next r hr =>
      have hlive := live_of_named hr
      have hat := handleAt_of_named hr
      cases hst : r.state <;> dsimp only
      case promised =>
        have hhand := dropCollectorWait_handoff r h s
        refine (hs.dropCollectorWait r h).park (by rw [live_congr hhand]; exact hlive) (.inr hst) ?_
        rw [handleAt_congr hhand]
        have := hs.dropCollectorWait_freed hlive hst
        rwa [hat] at this ⊢
      all_goals exact hs

theorem Relay.ownCancel (hs : Relay s) (idx gen : Byte) : Relay (ownCancel idx gen s).1 := by
  unfold Machine.ownCancel
  split
  · exact hs
  · split
    · exact hs
    · next r hr =>
      cases hst : r.state <;> dsimp only
      case reserved => exact hs.retireReserved (live_of_named hr) hst _
      all_goals exact hs

/-- A record changes in fields that the laws do not read. -/
theorem Relay.setRec (hs : Relay s) (hr : s.live i = some r) (hq : q.core = r.core) (hb : q.buried = r.buried) :
    Relay (s.setRec i q) := by
  have hlive := fun j => setRec_live_if s i j q
  refine hs.of_cores ((setRec_only i q s).mono (by decide)) (fun j => ?_) (fun j => ?_) ⟨rfl, rfl⟩ fun j p hp => ?_
  · rw [hlive]; split
    · next e => subst e; rw [hr]; exact congrArg some hq
    · rfl
  · rw [setRec_entry_if]; split
    · next e => subst e; rfl
    · rfl
  · rw [hlive] at hp
    split at hp
    · cases hp
      have hst : q.core.state = r.core.state := by rw [hq]
      have hlv : q.core.level = r.core.level := by rw [hq]
      have hcl : q.core.column = r.core.column := by rw [hq]
      change q.state = r.state at hst
      change q.level = r.level at hlv
      change q.column = r.column at hcl
      rw [hb, hs.buried i r hr]
      simp only [State.isBuried, State.depth, hst, hlv, hcl]
      rfl
    · exact hs.buried j p hp

theorem Relay.ownRebudget (hs : Relay s) (idx gen : Byte) (budget : BitVec 16) : Relay (ownRebudget idx gen budget s).1 := by
  unfold Machine.ownRebudget
  split
  · exact hs
  · split
    · exact hs
    · next r hr => exact hs.setRec (live_of_named hr) rfl rfl

/-! ### Designation (R150) -/

theorem Relay.designate (hs : Relay s) {o : Option Slot} (hx : (s.col c).service = .suspect)
    (hl : ∀ l, s.lockOf c = some l → some l.holder = o) (ho : ∀ k, o = some k → s.isLive k) : Relay (s.setSurveyor c o) := by
  have hbay : ∀ d, (s.setSurveyor c o).bay d = if c = d then { s.bay d with surveyor := o } else s.bay d := fun d => by
    simp only [State.bay, setSurveyor_surveyor_if, setSurveyor_col, setSurveyor_lockOf, setSurveyor_waitsOf]
    split <;> rfl
  refine ((hs.but c).of_beside (t := s.setSurveyor c o)
    ⟨rfl, fun _ => rfl, fun d hd => by rw [hbay, if_neg (Ne.symm hd)], fun _ _ => rfl⟩
    (hs.consistent.table.of_tags (fun _ => rfl) ⟨rfl, rfl⟩) hs.consistent.positions hs.consistent.reservations ?_
    (hs.loads c) (buriedFit_iff.1 hs.buried c)).relay ?_
  · rw [hbay, if_pos rfl]
    exact (hs.consistent.bays c).designate hx hl ho
  · rw [hbay, if_pos rfl]
    exact hs.scanned c

/-- The lock of a SUSPECT column is held by its surveyor, for SURVEY. -/
theorem Relay.suspectLock (hs : Relay s) (hx : (s.col c).service = .suspect) (hl : s.lockOf c = some l) :
    l.hold = .survey ∧ s.surveyor c = some l.holder := by
  have hb := hs.consistent.bays c
  have hsv := (hb.idle fun h => h.quiet (.inl hx)).2 l hl
  have h2 := (hb.lock l hl).2
  rw [hsv] at h2
  exact ⟨hsv, h2.2⟩

theorem Relay.ownSurveyAsk (hs : Relay s) (col slot : Byte) : Relay (ownSurveyAsk col slot s).1 := by
  unfold Machine.ownSurveyAsk
  split
  · next c k hc hk =>
    split
    · exact hs
    · next hx =>
      have hx' := not_not.1 hx
      split
      · exact hs
      · next hlive =>
        have hk : s.isLive k := by simpa using hlive
        split
        · next hn =>
          exact hs.designate hx' (fun l hl => by
            have := (hs.suspectLock hx' hl).2
            rw [hn] at this; cases this) (fun j e => by cases e; exact hk)
        · next old hold =>
          split
          · exact hs
          · dsimp only [answer]
            unfold endSurveyLockOf
            split
            · next hany =>
              obtain ⟨l, hl, hp⟩ := (Option.any_eq_true ..).1 hany
              have hsv : l.hold = .survey := of_decide_eq_true (Bool.and_eq_true _ _ ▸ hp).2
              exact (hs.endSurvey hl hsv).designate hx' (fun m hm => by
                rw [endLock_lockOf, if_pos rfl] at hm; cases hm) (fun j e => by cases e; exact hk)
            · next hany =>
              refine hs.designate hx' (fun l hl => absurd ?_ hany) (fun j e => by cases e; exact hk)
              obtain ⟨h1, h2⟩ := hs.suspectLock hx' hl
              rw [hold] at h2
              simp [hl, h1, Option.some.inj h2]
  · exact hs

end Sys2Proof.Machine
end

section
namespace Sys2Proof.Machine

open Sys2Proof.Safety Function

variable {s t u : State} {c d : Col} {g h : Handle} {r q : Record} {i j : RecIdx} {k : Slot} {w : Work} {l : Lock}

/-! ### The age unit (R84 to R89) -/

theorem Relay.forEach {α : Type} {f : α → State → State} (hf : ∀ a u, Relay u → Relay (f a u)) (l : List α) (hs : Relay s) :
    Relay (forEach l f s) := by
  induction l generalizing s with
  | nil => exact hs
  | cons a l ih => exact ih (hf a s hs)

theorem Relay.lowerBudget (i : RecIdx) (hs : Relay s) : Relay (lowerBudget i s) := by
  unfold Machine.lowerBudget
  split
  · exact hs
  · next r hr =>
    have h := hs.setRec (q := { r with
      budget := r.budget - share r.cls s.age.band
      spent := r.spent || r.budget - share r.cls s.age.band = 0 }) hr rfl rfl
    dsimp only
    split
    · exact h.sameRows (.of_only ((raiseSpent_only _ _).mono (by decide)))
    · exact h

theorem Relay.testOverdue (i : RecIdx) (hs : Relay s) : Relay (testOverdue i s) := by
  unfold Machine.testOverdue
  split
  · exact hs
  · next r hr =>
    split
    · exact (hs.setRec (q := { r with overdue := true }) hr rfl rfl).sameRows (.of_only ((raiseOverdue_only _ _).mono (by decide)))
    · exact hs

theorem Relay.ageEvent (hs : Relay s) : Relay (ageEvent s) := by
  unfold Machine.ageEvent
  split
  · exact hs
  · exact Relay.forEach (fun i _ => Relay.testOverdue i) _ (Relay.forEach (fun i _ => Relay.lowerBudget i) _
      (hs.sameRows (.of_tables rfl rfl rfl rfl rfl)))

theorem lowerBudget_line (i : RecIdx) (u : State) : (lowerBudget i u).line = u.line := by
  unfold lowerBudget
  split
  · rfl
  · dsimp only; split <;> rfl

theorem testOverdue_line (i : RecIdx) (u : State) : (testOverdue i u).line = u.line := by
  unfold testOverdue
  split
  · rfl
  · split <;> rfl

theorem forEach_line {α : Type} {f : α → State → State} (hf : ∀ a u, (f a u).line = u.line) (l : List α) (s : State) :
    (forEach l f s).line = s.line := by
  induction l generalizing s with
  | nil => rfl
  | cons a l ih => exact (ih (f a s)).trans (hf a s)

theorem ageEvent_coherent (hs : Coherent s) : Coherent (ageEvent s) := by
  refine coherent_of_line hs (relay_of_coherent hs).ageEvent ?_
  unfold ageEvent
  split
  · rfl
  · rw [forEach_line testOverdue_line, forEach_line lowerBudget_line]; rfl

/-! ### The settings of the line (R111, R114, R123, R124, R146) -/

theorem ownSlotMode_coherent (hs : Coherent s) (slot mode : Byte) : Coherent (ownSlotMode slot mode s).1 := by
  unfold ownSlotMode
  split
  · next k m hk hm =>
    refine coherent_of_links hs ((relay_of_coherent hs).setFields (k := k) (x := { s.slot k with nextMode := m }) rfl rfl
      fun _ => rfl) rfl rfl fun x _ => ?_
    change ((s.setSlot k { s.slot k with nextMode := m }).slot x.slot).link = _
    rw [setSlot_slot_if]
    split
    · next e => rw [e]
    · rfl
  · exact hs

theorem ownBlockMode_coherent (hs : Coherent s) (mode a b : Byte) : Coherent (ownBlockMode mode a b s).1 := by
  unfold ownBlockMode
  split
  · exact coherent_setLine hs rfl rfl rfl
  · split
    · exact coherent_setLine hs rfl rfl rfl
    · exact hs
  · exact hs

/-- R146: a LOST slot becomes VACANT. -/
theorem ownClearLost_coherent (hs : Coherent s) (slot : Byte) : Coherent (ownClearLost slot s).1 := by
  unfold ownClearLost
  split
  · exact hs
  · next k hk =>
    cases hl : (s.slot k).link <;> dsimp only
    case lost =>
      have hrel := relay_of_coherent hs
      have hslot := fun j => setSlot_slot_if s k j (s.slot k).vacated
      refine coherent_of_links hs (hrel.relink ((setSlot_only k _ s).mono (by decide)) (SlotsInForm.setSlot hrel.consistent.slots
        (by simp [SlotRec.vacated]) (by simp [SlotRec.vacated]) (by simp [SlotRec.vacated])) fun j hj => .inl ?_) rfl rfl
        fun x hx => ?_
      · have hne : k ≠ j := fun e => by subst e; simp [State.isLive, hl] at hj
        change decide (((s.setSlot k (s.slot k).vacated).slot j).link = .live) = true
        rw [hslot, if_neg hne]
        exact hj
      · obtain ⟨-, hr, hp⟩ := hs.calls.2.2 x (by simp [exchangeOf, hx])
        have hne : k ≠ x.slot := fun e => by
          cases hkind : x.kind with
          | regular => have := hr hkind; rw [← e, hl] at this; cases this
          | probe => have := hp hkind; rw [← e, hl] at this; cases this
        change ((s.setSlot k (s.slot k).vacated).slot x.slot).link = _
        rw [hslot, if_neg hne]
    all_goals exact hs

/-! ### ZONE_SETUP and ZONE_CLEAR (R163, R164) -/

theorem ownZoneSetup_coherent (hs : Coherent s) (p : ZoneParams) : Coherent (ownZoneSetup p s).1 := by
  unfold ownZoneSetup
  split
  · exact coherent_of_links hs ((relay_of_coherent hs).sameRows ⟨fun _ => rfl, fun _ => rfl, fun _ _ => rfl, fun _ => rfl,
      fun _ => rfl, fun _ => rfl, fun _ => rfl, fun _ => rfl, rfl⟩) rfl rfl fun _ _ => rfl
  · exact hs

section
variable (s : State)

theorem clearZone_live (i : RecIdx) : (clearZone s).live i = none := by
  change (s.handoff.entries.map Entry.cleared)[i].live = none
  simp [Entry.cleared]

theorem clearZone_col (c : Col) : (clearZone s).col c = (s.col c).cleared := by
  change (s.columns.map Column.cleared)[c] = _
  simp [State.col]

theorem clearZone_slot (k : Slot) : (clearZone s).slot k = (s.slot k).cleared := by
  change (s.line.slots.map SlotRec.cleared)[k] = _
  simp [State.slot]

theorem clearZone_lockOf (c : Col) : (clearZone s).lockOf c = none := by
  change (Vector.replicate 16 none)[c] = none
  simp

theorem clearZone_waitsOf (c : Col) : (clearZone s).waitsOf c = [] := by
  change (Vector.replicate 16 [])[c] = []
  simp

theorem clearZone_mark (k : Slot) : (clearZone s).mark k = none := by
  change (Vector.replicate 64 none)[k] = none
  simp

theorem clearZone_surveyor (c : Col) : (clearZone s).surveyor c = none := by
  change (Vector.replicate 16 none)[c] = none
  simp
end

theorem Column.cleared_quiet (x : Column) : ¬ (x.cleared.service = .suspect ∨ x.cleared.service = .fault) := by
  unfold Column.cleared
  cases x.service <;> cases x.prior <;> simp [Prior.toService]

/-- A state without records, locks, waiters and surveyors. -/
theorem Relay.clearZone (hs : Relay s) : Relay (clearZone s) := by
  have hlive := clearZone_live s
  have hrec : ∀ c g, (Machine.clearZone s).recIn c g = none := fun c g => by
    rw [Option.eq_none_iff_forall_ne_some]
    intro r hr
    have := (recIn_live hr).1
    rw [hlive] at this; cases this
  have hbay : ∀ c, (Machine.clearZone s).bay c = ⟨(s.col c).cleared, none, [], none⟩ := fun c => by
    simp only [State.bay, clearZone_col, clearZone_lockOf, clearZone_waitsOf, clearZone_surveyor]
  have hwhere : ∀ p, (Machine.clearZone s).recordsWhere p = [] := fun p =>
    recordsWhere_eq_nil.2 fun i r hr => by rw [hlive] at hr; cases hr
  refine ⟨⟨⟨⟨fun i r hr => ?_, fun i j r hr => ?_⟩, ?_, List.nodup_nil, fun i => ?_⟩, ?_, ?_, fun k hk => ?_, fun k => ?_, fun c => ?_⟩,
    fun c => ?_, fun c => ?_, fun i r hr => ?_⟩
  · rw [hlive] at hr; cases hr
  · rw [hlive] at hr; cases hr
  · change 64 = (allRecs.filter _).length
    simp [hlive]
    rfl
  · rw [hlive]
    exact iff_of_false List.not_mem_nil nofun
  · refine ⟨fun k => ?_, fun k _ => ?_, fun j k hj => ?_⟩
    · rw [clearZone_slot]; simp [SlotRec.cleared, SlotRec.vacated]
    · rw [clearZone_slot]; rfl
    · rw [clearZone_slot] at hj; cases hj
  · have hnil : positions (Machine.clearZone s) = [] := by
      rw [positions, List.flatMap_eq_nil_iff]
      intro c _
      rw [clearZone_lockOf, clearZone_waitsOf]; rfl
    refine ⟨by rw [hnil]; exact List.nodup_nil, fun c => ?_⟩
    rw [clearZone_waitsOf]; exact Nat.zero_le _
  · rw [clearZone_mark] at hk; cases hk
  · rw [hwhere]; simp
  · rw [hbay]
    have hq := Column.cleared_quiet (s.col c)
    exact {
      records := fun g r hr => by rw [hrec] at hr; cases hr
      stack := fun n g hn => by simp [Column.cleared] at hn
      lock := nofun
      stranded := ⟨by simp only [hq, iff_false]; simp [Column.cleared], by simp [Column.cleared], fun g hg => by cases hg⟩
      waits := by simp
      surveyor := nofun }
  · rw [hbay]; exact nofun
  · obtain ⟨-, h2, -⟩ := hs.loads c
    rw [LoadFits, State.binsOf, hwhere, clearZone_col]
    exact ⟨by simp, h2, fun _ => rfl⟩
  · rw [hlive] at hr; cases hr

theorem ownZoneClear_coherent (hs : Coherent s) : Coherent (ownZoneClear s).1 := by
  unfold ownZoneClear
  split
  · next hstop =>
    have hrun : s.line.run = .stopped := by
      simp only [State.bothStopped, Bool.and_eq_true, decide_eq_true_eq] at hstop; exact hstop.1
    refine coherent_of_links hs (relay_of_coherent hs).clearZone rfl rfl fun x hx => ?_
    exact absurd hrun (coherent_calling hs hx).1
  · exact hs

/-! ### The other blocks -/

theorem mergeStep_coherent (hs : Coherent s) : Coherent (mergeStep s) := by
  unfold mergeStep
  split
  · exact hs
  · dsimp only
    split <;> exact coherent_of_tables hs rfl rfl rfl rfl rfl

theorem setManifest_coherent (hs : Coherent s) (m : Manifest) : Coherent (s.setManifest m) :=
  coherent_of_tables hs rfl rfl rfl rfl rfl

theorem setNotice_coherent (hs : Coherent s) (n : NoticeUnit) : Coherent (s.setNotice n) :=
  coherent_of_tables hs rfl rfl rfl rfl rfl

theorem setAge_coherent (hs : Coherent s) (a : Age) : Coherent (s.setAge a) :=
  coherent_of_tables hs rfl rfl rfl rfl rfl

theorem setPort_coherent (hs : Coherent s) (p : Port) : Coherent (s.setPort p) :=
  coherent_of_tables hs rfl rfl rfl rfl rfl

theorem setPower_coherent (hs : Coherent s) (p : Power) : Coherent (s.setPower p) :=
  coherent_of_tables hs rfl rfl rfl rfl rfl

end Sys2Proof.Machine
end

section
/-! RESTACK (R157): its changes one after the other, none of which keeps the laws of the relay table alone. -/
namespace Sys2Proof.Machine

open Sys2Proof.Safety Function

variable {s t u v : State} {c d : Col} {g h : Handle} {r q : Record} {i j : RecIdx} {k : Slot} {w : Work} {l : Lock}
  {tags : List Tag}

/-! ### What every change of RESTACK keeps -/

/-- `u` is `s` with the records of one column in the middle of a change: the column is free of locks and waiters. -/
structure Loose (c : Col) (s u : State) : Prop where
  beside : Beside c s u
  col : u.col c = s.col c
  lock : u.lockOf c = none
  waits : u.waitsOf c = []
  table : TableFits u
  reservations : OneReservation u

theorem Loose.start (hs : Relay s) (hl : s.lockOf c = none) (hw : s.waitsOf c = []) : Loose c s s :=
  ⟨.refl c s, rfl, hl, hw, hs.consistent.table, hs.consistent.reservations⟩

/-- One record of the column changes. -/
theorem Loose.set (h : Loose c s u) (ho : OnlyChanges [.handoff, .notice] u v) (hs : Sets i (some q) u v) (hr : u.live i = some r)
    (hrc : r.column = c) (hqc : q.column = c) (hqt : q.tag = r.tag) (hc : SameCounts u v) (hres : OneReservation v) :
    Loose c s v where
  beside := h.beside.trans (hs.beside ho hr hrc fun p e => by cases e; exact hqc)
  col := (col_congr (ho.columns (by decide)) c).trans h.col
  lock := (lockOf_congr (ho.lock (by decide)) c).trans h.lock
  waits := (waitsOf_congr (ho.lock (by decide)) c).trans h.waits
  table := h.table.set hs hr hqt hc
  reservations := hres

/-- A record of the column is retired. -/
theorem Loose.retire (h : Loose c s u) (hc : ∀ r, u.live i = some r → r.column = c) (x : Retirement) :
    Loose c s (Machine.retire i x u) := by
  cases hr : u.live i with
  | none => rwa [retire_none u hr]
  | some r =>
    have ho := retire_only i x u
    exact {
      beside := h.beside.trans (retire_beside hr (hc r hr) x)
      col := (col_congr (ho.columns (by decide)) c).trans h.col
      lock := (retire_lockOf u i x c).trans h.lock
      waits := retire_waits_nil x h.waits
      table := h.table.retire i x
      reservations := (retire_sets hr x).reservations_kept h.reservations hr (by simp) }

/-- A record of the column is made that reserves nothing. -/
theorem Loose.makeAt (h : Loose c s u) (hi : u.live i = none) (h0 : r.tag ≠ 0) (hnew : ∀ j, ∀ q ∈ u.live j, q.tag ≠ r.tag)
    (hrc : r.column = c) (hres : r.reserves = false) : Loose c s (Machine.makeAt i r u) := by
  have ho := makeAt_only i r u
  have hlock := ho.lock (by decide)
  have hsets := makeAt_sets (s := u) i r
  refine ⟨h.beside.trans ⟨ho.line (by decide), mark_congr hlock, fun d _ => bay_of_rows (col_congr (ho.columns (by decide)) d)
      (lockOf_congr hlock d) (waitsOf_congr hlock d) (surveyor_congr (ho.survey (by decide)) d),
      fun d hd => hsets.recIn_ne (by simp [hi]) (fun q hq => by cases hq; exact hrc) hd⟩,
    (col_congr (ho.columns (by decide)) c).trans h.col, (lockOf_congr hlock c).trans h.lock, (waitsOf_congr hlock c).trans h.waits,
    h.table.makeAt hi h0 hnew, hsets.reservations_new h.reservations fun q e k hk => ?_⟩
  cases e
  exact Record.not_reservedBy hres hk

/-- Notices do not matter. -/
theorem Loose.noted (h : Loose c s u) (ho : OnlyChanges [.notice] u v) : Loose c s v := by
  have hlock := ho.lock (by decide)
  have hhand := ho.handoff (by decide)
  have hlive := live_congr hhand
  refine ⟨h.beside.trans ⟨ho.line (by decide), mark_congr hlock, fun d _ => bay_of_rows (col_congr (ho.columns (by decide)) d)
      (lockOf_congr hlock d) (waitsOf_congr hlock d) (surveyor_congr (ho.survey (by decide)) d), fun d _ => ?_⟩,
    (col_congr (ho.columns (by decide)) c).trans h.col, (lockOf_congr hlock c).trans h.lock, (waitsOf_congr hlock c).trans h.waits,
    h.table.of_tags (fun i => by rw [hlive]) ⟨by rw [hhand], by rw [hhand]⟩,
    reservations_mono h.reservations fun i r k hr hk => ⟨r, by rw [← hlive]; exact hr, hk⟩⟩
  funext g
  simp only [State.recIn, named_congr hhand]

/-! ### The records made for unknown tags -/

/-- A record that RESTACK makes: PARKED, its level not yet written. -/
structure Found (c : Col) (p : Record) : Prop where
  state : p.state = .parked
  column : p.column = c
  collector : p.collector = none
  strandedFrom : p.strandedFrom = none
  buried : p.buried = false

/-- With a free count above 0 there is a free index. -/
theorem firstFree_of_count (hc : FreeCounted s) (h : 0 < s.handoff.freeCount) : ∃ i, s.firstFree = some i := by
  rw [← Option.ne_none_iff_exists', Ne, firstFree_eq_none]
  intro hall
  rw [hc, List.filter_eq_nil_iff.2 (fun i _ => by simp [Option.isNone_iff_eq_none, Option.isSome_iff_ne_none.1 (hall i)])] at h
  exact absurd h (by simp)

theorem Loose.makeFound {tag : Tag} (h : Loose c s u) (h0 : tag ≠ 0) (hnew : ∀ j, ∀ q ∈ u.live j, q.tag ≠ tag)
    (hfree : 0 < u.handoff.freeCount) : Loose c s (Machine.makeFound c tag u) ∧
      (Machine.makeFound c tag u).handoff.freeCount = u.handoff.freeCount - 1 ∧
      ∃ i p, u.live i = none ∧ Found c p ∧ p.tag = tag ∧ ∀ j, (Machine.makeFound c tag u).live j = if i = j then some p else u.live j := by
  obtain ⟨i, hi⟩ := firstFree_of_count h.table.count hfree
  have hnone := (firstFree_some_iff.1 hi).1
  have hnote := noteUnlisted_only i (u.factsOf tag).2 (Machine.makeAt i (newRecord tag (u.factsOf tag) .parked none c none true) u)
  have hhand := hnote.handoff (by decide)
  have hmake : Machine.makeFound c tag u = Machine.noteUnlisted i (u.factsOf tag).2
      (Machine.makeAt i (newRecord tag (u.factsOf tag) .parked none c none true) u) := by
    simp only [Machine.makeFound, hi]
  rw [hmake]
  refine ⟨(h.makeAt (r := newRecord tag (u.factsOf tag) .parked none c none true) hnone h0 hnew rfl rfl).noted hnote,
    by rw [hhand]; rfl, i, newRecord tag (u.factsOf tag) .parked none c none true, hnone, ⟨rfl, rfl, rfl, rfl, rfl⟩, rfl, fun j => ?_⟩
  rw [live_congr hhand]
  exact (makeAt_sets i _).live j

/-- The state after records have been made for some tags. -/
structure Made (c : Col) (l : List Tag) (u v : State) : Prop where
  kept : ∀ j p, u.live j = some p → v.live j = some p
  new : ∀ j p, v.live j = some p → u.live j = some p ∨ u.live j = none ∧ Found c p ∧ p.tag ∈ l
  all : ∀ tag ∈ l, ∃ j p, v.live j = some p ∧ p.tag = tag ∧ p.column = c

theorem Loose.makeAll {l : List Tag} (h : Loose c s u) (h0 : (0 : Tag) ∉ l) (hd : l.Nodup)
    (hnew : ∀ tag ∈ l, ∀ j, ∀ q ∈ u.live j, q.tag ≠ tag) (hfree : l.length ≤ u.handoff.freeCount) :
    Loose c s (forEach l (Machine.makeFound c) u) ∧ Made c l u (forEach l (Machine.makeFound c) u) := by
  induction l generalizing u with
  | nil => exact ⟨h, fun _ _ => id, fun _ _ => .inl, by simp⟩
  | cons tag l ih =>
    rw [List.mem_cons, not_or] at h0
    obtain ⟨hn0, h0'⟩ := h0
    obtain ⟨hnotin, hd'⟩ := List.nodup_cons.1 hd
    rw [List.length_cons] at hfree
    obtain ⟨h1, hcount, i, p, hi, hp, hpt, hlive⟩ := h.makeFound (Ne.symm hn0) (hnew tag List.mem_cons_self) (by omega)
    obtain ⟨h2, hmade⟩ := ih h1 h0' hd' (fun tag' ht j q hq => by
      rw [hlive] at hq
      split at hq
      · cases hq
        rintro rfl
        exact hnotin (hpt ▸ ht)
      · exact hnew tag' (List.mem_cons_of_mem _ ht) j q hq) (by omega)
    refine ⟨h2, fun j q hq => hmade.kept j q ?_, fun j q hq => ?_, fun tag' ht => ?_⟩
    · rw [hlive, if_neg (fun e => by subst e; rw [hi] at hq; cases hq)]
      exact hq
    · rcases hmade.new j q hq with hq' | ⟨hn, hf, ht⟩
      · rw [hlive] at hq'
        split at hq'
        · next e => subst e; cases hq'; exact .inr ⟨hi, hp, by simp [hpt]⟩
        · exact .inl hq'
      · refine .inr ⟨?_, hf, List.mem_cons_of_mem _ ht⟩
        rw [hlive] at hn
        split at hn
        · cases hn
        · exact hn
    · rcases List.mem_cons.1 ht with rfl | ht
      · exact ⟨i, p, hmade.kept i p (by rw [hlive, if_pos rfl]), hpt, hp.column⟩
      · exact hmade.all tag' ht

end Sys2Proof.Machine
end

section
namespace Sys2Proof.Machine

open Sys2Proof.Safety Function

variable {s t u v : State} {c d : Col} {g h : Handle} {r q : Record} {i j : RecIdx} {k : Slot} {w : Work} {l : List Tag}
  {tags : List Tag} {o : Option Record}

/-! ### What RESTACK makes of each record of its column -/

/-- A record as it stands in the new stack, its level not yet written. -/
def InStack (L : Slot → Bool) (p : Record) : Prop :=
  p.strandedFrom = none ∧
    (p.state = .parked ∧ p.collector = none ∧ p.buried = false ∨ p.state = .promised ∧ ∃ k, p.collector = some k ∧ L k)

/-- A reservation that stays one. -/
def Reserving (L : Slot → Bool) (p : Record) : Prop :=
  p.state = .reserved ∧ p.level = none ∧ p.collector = none ∧ p.strandedFrom = none ∧ p.buried = false ∧
    ∃ k, p.releaser = some k ∧ L k

/-- R157: a listed record stands in the new stack, and one that is not listed is a reservation. -/
def Sorted (L : Slot → Bool) (tags : List Tag) (p : Record) : Prop :=
  p.tag ∈ tags ∧ InStack L p ∨ p.tag ∉ tags ∧ Reserving L p

/-- The stranded record resolved among the other changes: only its index changes, to a record that is sorted. -/
structure Resolved (c : Col) (tags : List Tag) (s v u : State) (h : Handle) (r : Record) (o : Option Record) : Prop where
  loose : Loose c s u
  sets : Sets h.idx o v u
  column : ∀ q, o = some q → q.column = c
  tag : ∀ q, o = some q → q.tag = r.tag
  sorted : ∀ q, o = some q → Sorted s.isLive tags q
  listed : r.tag ∈ tags → o.isSome

section
variable (hx : Stranding s c h r) (hl : Loose c s v) (hm : Made c l s v)
include hx hl hm

theorem Resolved.of_map {f : Record → Record} (ho : OnlyChanges [.handoff, .notice] v u) (hc : SameCounts v u)
    (he : ∀ j, u.entry j = if h.idx = j then { v.entry j with live := (v.live j).map f } else v.entry j)
    (hfc : (f r).column = r.column) (hft : (f r).tag = r.tag) (hfr : (f r).reserves = false ∨ OneReservation u)
    (hsort : Sorted s.isLive tags (f r)) : Resolved c tags s v u h r (some (f r)) := by
  obtain ⟨hlive, -, hrc⟩ := recIn_live hx.record
  have hv := hm.kept _ r hlive
  have hsets := Sets.of_map (f := f) he hv
  refine ⟨hl.set ho hsets hv hrc (hfc.trans hrc) hft hc (hfr.elim (fun hfr => ?_) id), hsets,
    fun q e => by cases e; exact hfc.trans hrc, fun q e => by cases e; exact hft, fun q e => by cases e; exact hsort, fun _ => rfl⟩
  refine hsets.reservations_kept hl.reservations hv fun q e k hk => ?_
  cases e
  exact Record.not_reservedBy hfr hk

theorem Resolved.of_retire (x : Retirement) (hn : r.tag ∉ tags) : Resolved c tags s v (retire h.idx x v) h r none := by
  obtain ⟨hlive, -, hrc⟩ := recIn_live hx.record
  have hv := hm.kept _ r hlive
  exact ⟨hl.retire (fun p hp => by rw [hv] at hp; cases hp; exact hrc) x, retire_sets hv x, by simp, by simp, by simp,
    fun h => absurd h hn⟩

theorem Resolved.of_park (hin : r.tag ∈ tags) : Resolved c tags s v (parkRecord h.idx v) h r
    (some { r with state := .parked, collector := none, buried := false, strandedFrom := none }) :=
  .of_map hx hl hm ((parkRecord_only h.idx v).mono (by decide)) (parkRecord_counts v h.idx)
    (fun j => parkRecord_entry v h.idx j) rfl rfl (.inl rfl) (.inl ⟨hin, rfl, .inl ⟨rfl, rfl, rfl⟩⟩)

theorem Resolved.of_inPlace (hin : r.tag ∈ tags) :
    ∃ o, Resolved c tags s v (resolveLiftInPlace h.idx r.collector (s.concernedLive c r.collector) v) h r o := by
  unfold resolveLiftInPlace
  split
  · next k hk hcl =>
    obtain ⟨k', hk', hkl⟩ := concernedLive_some hcl
    cases hk.symm.trans hk'
    exact ⟨_, .of_map hx hl hm (promiseRecord_only h.idx k v) (promiseRecord_counts v h.idx k)
      (fun j => promiseRecord_entry v h.idx j k) rfl rfl (.inl rfl) (.inl ⟨hin, rfl, .inr ⟨rfl, k, rfl, hkl⟩⟩)⟩
  · exact ⟨_, .of_park hx hl hm hin⟩

variable (hs : Relay s)
include hs

/-- R33: an absent placement returns to RESERVED for a slot that reserves no other record. -/
theorem Resolved.of_reserve (hsf : r.strandedFrom = some .placing) (hret : s.placementReturns c h.idx r = true)
    (hn : r.tag ∉ tags) : Resolved c tags s v (reserveRecord h.idx v) h r
      (some { r with state := .reserved, level := none, strandedFrom := none }) := by
  obtain ⟨hlive, -, hrc⟩ := recIn_live hx.record
  have hv := hm.kept _ r hlive
  have hf := hs.strandedFits hx
  simp only [hsf] at hf
  obtain ⟨⟨k, hk, hkl⟩, hother⟩ := placementReturns_true hret
  have hsets : Sets h.idx (some { r with state := .reserved, level := none, strandedFrom := none }) v (reserveRecord h.idx v) :=
    Sets.of_map (f := fun r => { r with state := .reserved, level := none, strandedFrom := none })
      (fun j => reserveRecord_entry v h.idx j) hv
  refine .of_map (f := fun r => { r with state := .reserved, level := none, strandedFrom := none }) hx hl hm
    ((reserveRecord_only h.idx v).mono (by decide)) (reserveRecord_counts v h.idx) (fun j => reserveRecord_entry v h.idx j) rfl rfl
    (.inr (hsets.reservations_new hl.reservations fun q e k' hk' j p hp hpk => ?_))
    (.inr ⟨hn, rfl, rfl, hf.2.1, rfl, ?_, k, hk, hkl⟩)
  · cases e
    have hps : s.live j = some p := (hm.new j p hp).resolve_right fun ⟨_, hfound, _⟩ =>
      Record.not_reservedBy (by simp [Record.reserves, hfound.state]) hpk
    exact hother k' j p (Record.reservedBy_iff.1 hk').2 hps hpk
  · change r.buried = false
    rw [hs.buried _ r hlive]
    simp [State.isBuried, hx.state]

/-- R157: the stranded record resolved by whether its tag is listed. -/
theorem resolveStranded_resolved : ∃ o, Resolved c tags s v (resolveStranded c tags s v) h r o := by
  have hf := hs.strandedFits hx
  have hnamed := (recIn_eq_some.1 hx.record).1
  unfold resolveStranded
  rw [hx.stranded]
  dsimp only
  rw [hnamed]
  dsimp only
  split
  · next hsf =>
    split
    · next hin => exact ⟨_, .of_park hx hl hm hin⟩
    · next hn =>
      unfold resolveAbsentPlacement
      split
      · next hret => exact ⟨_, .of_reserve hx hl hm hs hsf hret hn⟩
      · exact ⟨_, .of_retire hx hl hm _ hn⟩
  · next hsf =>
    split
    · next hin => exact Resolved.of_inPlace hx hl hm hin
    · next hn => exact ⟨_, .of_retire hx hl hm _ hn⟩
  · next hsf => rw [hsf] at hf; exact hf.elim
end

/-! ### The retirements and the listed reservations -/

theorem Loose.retireAll {l : List RecIdx} (hl : Loose c s u) (hc : ∀ i ∈ l, ∀ p, u.live i = some p → p.column = c)
    (x : Retirement) : Loose c s (forEach l (fun i => Machine.retire i x) u) := by
  induction l generalizing u with
  | nil => exact hl
  | cons i l ih =>
    refine ih (hl.retire (hc i List.mem_cons_self) x) fun j hj p hp => ?_
    rw [retire_live] at hp
    split at hp
    · cases hp
    · exact hc j (List.mem_cons_of_mem i hj) p hp

theorem Loose.park (hl : Loose c s u) (hc : ∀ p, u.live i = some p → p.column = c) : Loose c s (parkRecord i u) := by
  cases hr : u.live i with
  | none =>
    have : parkRecord i u = u := by simp [parkRecord, updRec, hr]
    rwa [this]
  | some r =>
    have hsets := Sets.of_map (fun j => parkRecord_entry u i j) hr
    refine hl.set ((parkRecord_only i u).mono (by decide)) hsets hr (hc r hr) (hc r hr) rfl (parkRecord_counts u i)
      (hsets.reservations_kept hl.reservations hr fun q e k hk => ?_)
    cases e
    exact Record.not_reservedBy rfl hk

theorem Loose.parkAll {l : List RecIdx} (hl : Loose c s u) (hc : ∀ i ∈ l, ∀ p, u.live i = some p → p.column = c) :
    Loose c s (forEach l parkRecord u) := by
  induction l generalizing u with
  | nil => exact hl
  | cons i l ih =>
    refine ih (hl.park (hc i List.mem_cons_self)) fun j hj p hp => ?_
    rw [live_def, parkRecord_entry] at hp
    split at hp
    · obtain ⟨p', hp', rfl⟩ := Option.map_eq_some_iff.1 hp
      exact hc j (List.mem_cons_of_mem i hj) p' hp'
    · exact hc j (List.mem_cons_of_mem i hj) p hp

/-- A record as R30 leaves it. -/
def Record.asParked (r : Record) : Record :=
  { r with state := .parked, collector := none, buried := false, strandedFrom := none }

theorem parkAll_live {l : List RecIdx} (hn : l.Nodup) (j : RecIdx) :
    (forEach l parkRecord u).live j = if j ∈ l then (u.live j).map Record.asParked else u.live j := by
  have := forEach_entry (f := parkRecord) (g := fun _ e => { e with live := e.live.map Record.asParked })
    (fun i u j => parkRecord_entry u i j) hn u j
  rw [live_def, this]
  split <;> rfl

end Sys2Proof.Machine
end

section
namespace Sys2Proof.Machine

open Sys2Proof.Safety Function

variable {s t u v : State} {c d : Col} {g h : Handle} {r q p : Record} {i j : RecIdx} {k : Slot} {w : Work}
  {tags : List Tag} {o : Option Record}

/-! ### The records of the column, sorted -/

/-- R157 up to the rewriting of the stack. -/
def sortRecords (c : Col) (tags : List Tag) (s : State) : State :=
  forEach (listedReservations c tags s) parkRecord
    (forEach (missingRecords c tags s) (fun i => retire i .missing)
      (resolveStranded c tags s (forEach (s.unknownTags tags) (makeFound c) s)))

theorem restackRecords_eq (c : Col) (tags : List Tag) (s : State) :
    restackRecords c tags s = settleColumn c (rewriteStack c tags (sortRecords c tags s)) := rfl

theorem mem_unknownTags {tag : Tag} : tag ∈ s.unknownTags tags ↔ tag ∈ tags ∧ s.tagged tag = none := by
  simp [State.unknownTags]

theorem mem_listedReservations : i ∈ listedReservations c tags s ↔
    ∃ r, s.live i = some r ∧ r.state = .reserved ∧ r.column = c ∧ r.tag ∈ tags := by
  simp [listedReservations, and_assoc]

theorem mem_missingRecords : i ∈ missingRecords c tags s ↔
    ∃ g ∈ (s.col c).stack, ∃ r, s.named g = some r ∧ r.tag ∉ tags ∧ (s.col c).stranded ≠ some g ∧ g.idx = i := by
  simp only [missingRecords, List.mem_map, List.mem_filter, Bool.and_eq_true, Option.any_eq_true, decide_eq_true_eq]
  constructor
  · rintro ⟨g, ⟨hg, ⟨r, hr, ht⟩, hs⟩, rfl⟩; exact ⟨g, hg, r, hr, ht, hs, rfl⟩
  · rintro ⟨g, hg, r, hr, ht, hs, rfl⟩; exact ⟨g, ⟨hg, ⟨r, hr, ht⟩, hs⟩, rfl⟩

/-- What R156 asks of an accepted RESTACK of a column. -/
structure Restackable (c : Col) (tags : List Tag) (s : State) : Prop where
  fits : tags.length ≤ (s.col c).capacity
  nonzero : (0 : Tag) ∉ tags
  nodup : tags.Nodup
  free : s.lockOf c = none
  here : ∀ tag ∈ tags, ∀ i r, s.tagged tag = some (i, r) → r.column = c
  room : (s.unknownTags tags).length ≤ s.handoff.freeCount

/-- The records of the column as they stand before the stack is rewritten. -/
structure SortedIn (c : Col) (tags : List Tag) (s u : State) : Prop where
  loose : Loose c s u
  sorted : ∀ i p, u.live i = some p → p.column = c → Sorted s.isLive tags p
  all : ∀ tag ∈ tags, ∃ i p, u.live i = some p ∧ p.tag = tag ∧ p.column = c

section
variable (hx : Stranding s c h r)
include hx

theorem not_listed_of_stranded : h.idx ∉ listedReservations c tags s := fun hm => by
  obtain ⟨p, hp, hst, -⟩ := mem_listedReservations.1 hm
  rw [(recIn_live hx.record).1] at hp; cases hp
  rw [hx.state] at hst; cases hst

theorem not_missing_of_stranded : h.idx ∉ missingRecords c tags s := fun hm => by
  obtain ⟨g, -, p, hp, -, hne, hi⟩ := mem_missingRecords.1 hm
  refine hne ?_
  rw [hx.stranded, ← handleAt_of_named hp, hi, (recIn_live hx.record).2.1]

variable (hs : Relay s) (ha : Restackable c tags s)
include hs ha

/-- A record of the column that no change of RESTACK concerns is sorted already. -/
theorem sorted_of_kept (hp : s.live i = some p) (hpc : p.column = c) (hne : h.idx ≠ i)
    (hlist : i ∉ listedReservations c tags s) (hmiss : i ∉ missingRecords c tags s) : Sorted s.isLive tags p := by
  have hb := hs.consistent.bays c
  have hrf := hb.records _ p (recIn_of_live hp hpc)
  have hbur := hs.buried i p hp
  have hstands : (s.bay c).Stands (s.handleAt i) p → p.state ≠ .stranded → p.tag ∈ tags := by
    rintro ⟨n, -, hn⟩ hst
    by_contra hnt
    refine hmiss (mem_missingRecords.2 ⟨_, List.mem_of_getElem? hn, p, (named_handleAt i).trans hp, hnt, fun e => hst ?_, rfl⟩)
    obtain ⟨p', hp', hst'⟩ := hb.stranded.2.2 _ e
    rw [recIn_of_live hp hpc] at hp'; cases hp'; exact hst'
  have hfree : (s.bay c).lock = none := ha.free
  cases hst : p.state <;> simp only [RecordFits, hst] at hrf
  case reserved =>
    obtain ⟨hlev, hcol, hsf, k, hk, hkl⟩ := hrf
    refine .inr ⟨fun hin => hlist (mem_listedReservations.2 ⟨p, hp, hst, hpc, hin⟩), hst, hlev, hcol, hsf, ?_, k, hk, hkl⟩
    rw [hbur]; simp [State.isBuried, hst]
  case placing => obtain ⟨l, hl, -⟩ := hrf.2.2.2; rw [hfree] at hl; cases hl
  case parked =>
    refine .inl ⟨hstands hrf.1 (by simp [hst]), hrf.2.2, .inl ⟨hst, hrf.2.1, ?_⟩⟩
    rw [hbur]; simp [State.isBuried, hst]
  case promised => exact .inl ⟨hstands hrf.1 (by simp [hst]), hrf.2.1, .inr ⟨hst, hrf.2.2⟩⟩
  case lifting => obtain ⟨l, hl, -⟩ := hrf.2.2.2; rw [hfree] at hl; cases hl
  case stranded =>
    have h1 : (s.col c).stranded = some (s.handleAt i) := hrf.1
    rw [hx.stranded] at h1; cases h1
    exact absurd rfl hne

omit hx ha in
theorem missing_live (hi : i ∈ missingRecords c tags s) : ∃ p, s.live i = some p ∧ p.column = c ∧ p.tag ∉ tags := by
  obtain ⟨g, hg, p, hp, ht, -, rfl⟩ := mem_missingRecords.1 hi
  obtain ⟨n, hn⟩ := List.mem_iff_getElem?.1 hg
  obtain ⟨p', hp', -⟩ := (hs.consistent.bays c).stack n g hn
  obtain ⟨hn', hc⟩ := recIn_eq_some.1 hp'
  rw [hp] at hn'; cases hn'
  exact ⟨p, live_of_named hp, hc, ht⟩

/-- R157: what becomes of each index, by the records made and the stranded record resolved. -/
theorem sortRecords_live : ∃ v u o, Made c (s.unknownTags tags) s v ∧ Resolved c tags s v u h r o ∧
    Loose c s (sortRecords c tags s) ∧ (sortRecords c tags s).live h.idx = o ∧
    ∀ i, h.idx ≠ i → (sortRecords c tags s).live i =
      if i ∈ listedReservations c tags s then (s.live i).map Record.asParked
      else if i ∈ missingRecords c tags s then none else v.live i := by
  have hnil : (0 : Tag) ∉ s.unknownTags tags := fun h => ha.nonzero (mem_unknownTags.1 h).1
  obtain ⟨hl1, hm⟩ := (Loose.start hs ha.free hx.waits).makeAll hnil (ha.nodup.filter _) (fun tag ht j q hq =>
    (tagged_eq_none.1 (mem_unknownTags.1 ht).2).resolve_left (fun e => hnil (e ▸ ht)) j q hq) ha.room
  obtain ⟨o, hres⟩ := resolveStranded_resolved (tags := tags) hx hl1 hm hs
  refine ⟨_, _, o, hm, hres, ?_⟩
  unfold sortRecords
  generalize forEach (s.unknownTags tags) (makeFound c) s = v at hm hres hl1 ⊢
  generalize resolveStranded c tags s v = u2 at hres ⊢
  have hcol : ∀ i p q, s.live i = some q → q.column = c → u2.live i = some p → p.column = c := fun i p q hq hqc hp => by
    rw [hres.sets.live] at hp
    split at hp
    · exact hres.column p hp
    · rw [hm.kept i q hq] at hp; cases hp; exact hqc
  have hl3 := hres.loose.retireAll (l := missingRecords c tags s) (fun i hi p hp => by
    obtain ⟨q, hq, hqc, -⟩ := missing_live hs hi
    exact hcol i p q hq hqc hp) .missing
  have hlive3 := retireAll_live (s := u2) (missingRecords c tags s) (x := .missing)
  generalize forEach (missingRecords c tags s) (fun i => retire i .missing) u2 = u3 at hl3 hlive3 ⊢
  have hlive4 := parkAll_live (u := u3) (l := listedReservations c tags s) (recordsWhere_nodup _)
  refine ⟨hl3.parkAll fun i hi p hp => ?_, ?_, fun i hne => ?_⟩
  · obtain ⟨q, hq, -, hqc, -⟩ := mem_listedReservations.1 hi
    rw [hlive3] at hp
    split at hp
    · cases hp
    · exact hcol i p q hq hqc hp
  · rw [hlive4, if_neg (not_listed_of_stranded hx), hlive3, if_neg (not_missing_of_stranded hx), hres.sets.live, if_pos rfl]
  · rw [hlive4]
    split
    · next hi =>
      obtain ⟨q, hq, -, -, hqt⟩ := mem_listedReservations.1 hi
      have hmiss : i ∉ missingRecords c tags s := fun hmiss => by
        obtain ⟨p, hp, -, hpt⟩ := missing_live hs hmiss
        rw [hq] at hp; cases hp; exact hpt hqt
      rw [hlive3, if_neg hmiss, hres.sets.live, if_neg hne, hm.kept i q hq, hq]
    · rw [hlive3, hres.sets.live, if_neg hne]

/-- R157: each record of the column is sorted, and every listed tag has one. -/
theorem sortRecords_sorted : SortedIn c tags s (sortRecords c tags s) := by
  have hlive := (recIn_live hx.record).1
  obtain ⟨v, u, o, hm, hres, hl, hself, hother⟩ := sortRecords_live hx hs ha
  refine ⟨hl, fun i p hp hpc => ?_, fun tag ht => ?_⟩
  · by_cases hne : h.idx = i
    · subst hne; rw [hself] at hp; exact hres.sorted p hp
    · rw [hother i hne] at hp
      split at hp
      · next hi =>
        obtain ⟨q, hq, -, -, hqt⟩ := mem_listedReservations.1 hi
        rw [hq] at hp; cases hp
        exact .inl ⟨hqt, rfl, .inl ⟨rfl, rfl, rfl⟩⟩
      · next hlist =>
        split at hp
        · cases hp
        · next hmiss =>
          rcases hm.new i p hp with hps | ⟨-, hf, hpt⟩
          · exact sorted_of_kept hx hs ha hps hpc hne hlist hmiss
          · exact .inl ⟨(mem_unknownTags.1 hpt).1, hf.strandedFrom, .inl ⟨hf.state, hf.collector, hf.buried⟩⟩
  · obtain ⟨i, p, hp, hpt, hpc⟩ : ∃ i p, v.live i = some p ∧ p.tag = tag ∧ p.column = c := by
      cases hw : s.tagged tag with
      | none => exact hm.all tag (mem_unknownTags.2 ⟨ht, hw⟩)
      | some x =>
        obtain ⟨i, p⟩ := x
        obtain ⟨-, hp, hpt⟩ := tagged_eq_some hw
        exact ⟨i, p, hm.kept i p hp, hpt, ha.here tag ht i p hw⟩
    by_cases hne : h.idx = i
    · subst hne
      rw [hm.kept _ r hlive] at hp; cases hp
      obtain ⟨q, hq⟩ := Option.isSome_iff_exists.1 (hres.listed (hpt ▸ ht))
      exact ⟨_, q, hself.trans hq, (hres.tag q hq).trans hpt, hres.column q hq⟩
    · by_cases hi : i ∈ listedReservations c tags s
      · obtain ⟨q, hq, -⟩ := mem_listedReservations.1 hi
        rw [hm.kept i q hq] at hp; cases hp
        exact ⟨i, p.asParked, by rw [hother i hne, if_pos hi, hq]; rfl, hpt, hpc⟩
      · have hmiss : i ∉ missingRecords c tags s := fun hmiss => by
          obtain ⟨q, hq, -, hqt⟩ := missing_live hs hmiss
          rw [hm.kept i q hq] at hp; cases hp
          exact hqt (hpt ▸ ht)
        exact ⟨i, p, by rw [hother i hne, if_neg hi, if_neg hmiss]; exact hp, hpt, hpc⟩
end

end Sys2Proof.Machine
end

section
namespace Sys2Proof.Machine

open Sys2Proof.Safety Function

variable {s t u v : State} {c d : Col} {g h : Handle} {r q p : Record} {i j : RecIdx} {k : Slot} {w : Work}
  {tags : List Tag} {o : Option Record} {n : Nat}

/-! ### The indices of the listed tags -/

/-- The indices of the records of listed tags, in the order of the list (R157). -/
def State.foundAt (u : State) (tags : List Tag) : List RecIdx := tags.filterMap fun t => (u.tagged t).map (·.1)

section
variable (hu : SortedIn c tags s u)
include hu

theorem foundAt_map : ∃ f : Tag → RecIdx, u.foundAt tags = tags.map f ∧ ∀ tag ∈ tags, ∃ p, u.live (f tag) = some p ∧ p.tag = tag := by
  have hall : ∀ tag ∈ tags, ∃ i p, u.tagged tag = some (i, p) := fun tag ht => by
    obtain ⟨i, p, hp, hpt, -⟩ := hu.all tag ht
    exact ⟨i, p, tagged_of_live hu.loose.table.tags hp hpt⟩
  refine ⟨fun tag => ((u.tagged tag).map (·.1)).getD 0, ?_, fun tag ht => ?_⟩
  · rw [State.foundAt, List.filterMap_eq_map_iff_forall_eq_some]
    intro tag ht
    obtain ⟨i, p, hw⟩ := hall tag ht
    simp [hw]
  · obtain ⟨i, p, hw⟩ := hall tag ht
    obtain ⟨-, hp, hpt⟩ := tagged_eq_some hw
    exact ⟨p, by simpa [hw] using hp, hpt⟩

theorem foundAt_length : (u.foundAt tags).length = tags.length := by
  obtain ⟨f, hf, -⟩ := foundAt_map hu
  rw [hf, List.length_map]

theorem foundAt_nodup (hd : tags.Nodup) : (u.foundAt tags).Nodup := by
  obtain ⟨f, hf, hlive⟩ := foundAt_map hu
  rw [hf]
  refine hd.map_on fun a ha b hb e => ?_
  obtain ⟨p, hp, rfl⟩ := hlive a ha
  obtain ⟨q, hq, rfl⟩ := hlive b hb
  rw [e, hq] at hp; cases hp; rfl

theorem foundAt_getElem? : (u.foundAt tags)[n]? = some i ↔ ∃ p, u.live i = some p ∧ tags[n]? = some p.tag := by
  obtain ⟨f, hf, hlive⟩ := foundAt_map hu
  rw [hf, List.getElem?_map, Option.map_eq_some_iff]
  constructor
  · rintro ⟨tag, ht, rfl⟩
    obtain ⟨p, hp, rfl⟩ := hlive tag (List.mem_of_getElem? ht)
    exact ⟨p, hp, ht⟩
  · rintro ⟨p, hp, ht⟩
    obtain ⟨q, hq, hqt⟩ := hlive p.tag (List.mem_of_getElem? ht)
    exact ⟨p.tag, ht, hu.loose.table.tags.2 _ i q hq p hp hqt⟩

/-- A listed record is one of the column. -/
theorem column_of_listed (hp : u.live i = some p) (ht : p.tag ∈ tags) : p.column = c := by
  obtain ⟨j, q, hq, hqt, hqc⟩ := hu.all p.tag ht
  have : j = i := hu.loose.table.tags.2 j i q hq p hp hqt
  subst this
  rw [hq] at hp; cases hp; exact hqc

theorem column_of_found (hi : i ∈ u.foundAt tags) (hp : u.live i = some p) : p.column = c := by
  obtain ⟨n, hn⟩ := List.mem_iff_getElem?.1 hi
  obtain ⟨q, hq, ht⟩ := (foundAt_getElem? hu).1 hn
  rw [hq] at hp; cases hp
  exact column_of_listed hu hq (List.mem_of_getElem? ht)
end

/-! ### The levels written -/

/-- A record with its level written. -/
def Record.leveled (n : Nat) (r : Record) : Record := { r with level := some n }

/-- The level of one record written (R157). -/
def setLevel (p : RecIdx × Nat) : State → State := updRec p.1 (Record.leveled p.2)

theorem setLevel_live (p : RecIdx × Nat) (j : RecIdx) :
    (setLevel p u).live j = if p.1 = j then (u.live j).map (Record.leveled p.2) else u.live j := updRec_live ..

theorem setLevels_live_of_not_mem {l : List (RecIdx × Nat)} (hj : ∀ n, (j, n) ∉ l) : (forEach l setLevel u).live j = u.live j := by
  induction l generalizing u with
  | nil => rfl
  | cons a l ih =>
    refine (ih fun n hn => hj n (List.mem_cons_of_mem a hn)).trans ?_
    rw [setLevel_live, if_neg fun e => hj a.2 (by rw [← e]; exact List.mem_cons_self)]

theorem setLevels_live_of_mem {l : List (RecIdx × Nat)} (hd : (l.map (·.1)).Nodup) (hj : (j, n) ∈ l) :
    (forEach l setLevel u).live j = (u.live j).map (Record.leveled n) := by
  induction l generalizing u with
  | nil => cases hj
  | cons a l ih =>
    obtain ⟨ha, hd'⟩ := List.nodup_cons.1 hd
    rcases List.mem_cons.1 hj with rfl | hj
    · refine (setLevels_live_of_not_mem fun m hm => ha (List.mem_map.2 ⟨_, hm, rfl⟩)).trans ?_
      rw [setLevel_live, if_pos rfl]
    · refine (ih hd' hj).trans ?_
      rw [setLevel_live, if_neg fun e => ha (List.mem_map.2 ⟨_, hj, e.symm⟩)]

theorem Loose.setLevels {l : List (RecIdx × Nat)} (h : Loose c s u) (hc : ∀ a ∈ l, ∀ p, u.live a.1 = some p → p.column = c) :
    Loose c s (forEach l setLevel u) := by
  induction l generalizing u with
  | nil => exact h
  | cons a l ih =>
    refine ih ?_ fun b hb p hp => ?_
    · cases hr : u.live a.1 with
      | none =>
        have : setLevel a u = u := by simp [setLevel, updRec, hr]
        change Loose c s (setLevel a u)
        rwa [this]
      | some r =>
        have hsets := Sets.of_map (f := Record.leveled a.2) (fun j => updRec_entry u a.1 j (Record.leveled a.2)) hr
        have hrc := hc a List.mem_cons_self r hr
        exact h.set ((updRec_only a.1 (Record.leveled a.2) u).mono (by decide)) hsets hr hrc hrc rfl
          (updRec_counts u a.1 (Record.leveled a.2))
          (hsets.reservations_kept h.reservations hr fun q e k hk => by cases e; exact hk)
    · rw [setLevel_live] at hp
      split at hp
      · obtain ⟨q, hq, rfl⟩ := Option.map_eq_some_iff.1 hp
        exact hc b (List.mem_cons_of_mem a hb) q hq
      · exact hc b (List.mem_cons_of_mem a hb) p hp

/-! ### The new stack -/

/-- R157: the records of the new stack with their levels, and the stack of their handles. -/
def stacked (c : Col) (tags : List Tag) (u : State) : State :=
  let v := forEach (u.foundAt tags).zipIdx setLevel u
  v.setCol c { v.col c with stack := (u.foundAt tags).map v.handleAt }

theorem rewriteStack_eq (c : Col) (tags : List Tag) (u : State) : rewriteStack c tags u = refreshStack c (stacked c tags u) := rfl

section
variable (hu : SortedIn c tags s u)
include hu

theorem stacked_loose : Loose c s (forEach (u.foundAt tags).zipIdx setLevel u) :=
  hu.loose.setLevels fun _ ha _ hp =>
    column_of_found hu (List.mem_of_getElem? (List.mem_zipIdx_iff_getElem?.1 ha)) hp

theorem stacked_col : (stacked c tags u).col c =
    { s.col c with stack := (u.foundAt tags).map (forEach (u.foundAt tags).zipIdx setLevel u).handleAt } := by
  simp only [stacked, setCol_col_if, if_true, (stacked_loose hu).col]

variable (hd : tags.Nodup)
include hd

/-- A record of the column is a listed one at its place in the stack, or a reservation. -/
theorem stacked_live (hp : (stacked c tags u).live i = some p) (hpc : p.column = c) :
    (∃ n, (u.foundAt tags)[n]? = some i ∧ p.level = some n ∧ InStack s.isLive p) ∨ Reserving s.isLive p := by
  have hp' : (forEach (u.foundAt tags).zipIdx setLevel u).live i = some p := hp
  by_cases hi : ∃ n, (i, n) ∈ (u.foundAt tags).zipIdx
  · obtain ⟨n, hn⟩ := hi
    rw [setLevels_live_of_mem (by rw [List.zipIdx_map_fst]; exact foundAt_nodup hu hd) hn, Option.map_eq_some_iff] at hp'
    obtain ⟨q, hq, rfl⟩ := hp'
    rw [List.mem_zipIdx_iff_getElem?] at hn
    obtain ⟨q', hq', ht⟩ := (foundAt_getElem? hu).1 hn
    rw [hq] at hq'; cases hq'
    obtain ⟨-, hin⟩ := (hu.sorted i q hq hpc).resolve_right fun h => h.1 (List.mem_of_getElem? ht)
    exact .inl ⟨n, hn, rfl, hin⟩
  · rw [not_exists] at hi
    rw [setLevels_live_of_not_mem hi] at hp'
    refine .inr ((hu.sorted i p hp' hpc).resolve_left fun h => ?_).2
    obtain ⟨n, hn⟩ := List.mem_iff_getElem?.1 h.1
    exact hi n (List.mem_zipIdx_iff_getElem?.2 ((foundAt_getElem? hu).2 ⟨p, hp', hn⟩))

/-- R157, R11: the laws of the column once its stack is rewritten and it is settled. -/
theorem stacked_bayFits : BayFits s.isLive ((stacked c tags u).recIn c) ⟨((stacked c tags u).col c).settled, none, [], none⟩ := by
  have hcol := stacked_col hu
  have hstack : ∀ (n : Nat) g, ((stacked c tags u).col c).settled.stack[n]? = some g ↔
      ∃ i, (u.foundAt tags)[n]? = some i ∧ (stacked c tags u).handleAt i = g := fun n g => by
    rw [hcol]
    change ((u.foundAt tags).map (stacked c tags u).handleAt)[n]? = some g ↔ _
    rw [List.getElem?_map, Option.map_eq_some_iff]
  have hquiet : ∀ x : Column, ¬ (x.settled.service = .suspect ∨ x.settled.service = .fault) := fun x => by
    rcases toService_inService x.prior with h | h <;> simp [Column.settled, h]
  refine ⟨fun g r hr => ?_, fun n g hn => ?_, nofun,
    ⟨by simp only [hquiet, iff_false]; simp [Column.settled], by simp [Column.settled], nofun⟩, by simp, nofun⟩
  · obtain ⟨hlive, hg, hrc⟩ := recIn_live hr
    rcases stacked_live hu hd hlive hrc with ⟨n, hn, hlev, hsf, hin⟩ | ⟨hst, hlev, hcl, hsf, -, hk⟩
    · have hstd : Bay.Stands ⟨((stacked c tags u).col c).settled, none, [], none⟩ g r :=
        ⟨n, hlev, (hstack n g).2 ⟨g.idx, hn, hg⟩⟩
      rcases hin with ⟨hst, hcl, -⟩ | ⟨hst, hk⟩
      · simp only [RecordFits, hst]; exact ⟨hstd, hcl, hsf⟩
      · simp only [RecordFits, hst]; exact ⟨hstd, hsf, hk⟩
    · simp only [RecordFits, hst]; exact ⟨hlev, hcl, hsf, hk⟩
  · obtain ⟨i, hi, rfl⟩ := (hstack n g).1 hn
    obtain ⟨q, hq, ht⟩ := (foundAt_getElem? hu).1 hi
    have hlive : (stacked c tags u).live i = some (q.leveled n) := by
      refine (setLevels_live_of_mem (by rw [List.zipIdx_map_fst]; exact foundAt_nodup hu hd)
        (List.mem_zipIdx_iff_getElem?.2 hi)).trans ?_
      rw [hq]; rfl
    have hqc : q.column = c := column_of_listed hu hq (List.mem_of_getElem? ht)
    exact ⟨_, recIn_of_live hlive hqc, rfl⟩
end

/-! ### The state before the trimming -/

/-- The tables after a change of one column, with its laws but for its load. -/
structure Changed (c : Col) (s t : State) : Prop where
  beside : Beside c s t
  table : TableFits t
  positions : OnePosition t
  reservations : OneReservation t
  bay : BayFits s.isLive (t.recIn c) (t.bay c)
  buried : BuriedIn t c

theorem Relay.of_changed (h : Relay s) (hc : Changed c s t) (hw : t.waitsOf c = []) (hl : LoadFits t c) : Relay t :=
  ((h.but c).of_beside hc.beside hc.table hc.positions hc.reservations hc.bay hl hc.buried).relay fun _ e he => by
    change e ∈ t.waitsOf c at he
    rw [hw] at he; cases he

/-- R157: the column when its stack is rewritten and it is settled. -/
theorem restacked_changed (hs : Relay s) (hu : SortedIn c tags s u) (hd : tags.Nodup) :
    Changed c s (settleColumn c (rewriteStack c tags u)) ∧
      (settleColumn c (rewriteStack c tags u)).bay c = ⟨((stacked c tags u).col c).settled, none, [], none⟩ := by
  have hl := stacked_loose hu
  have hbay : (settleColumn c (stacked c tags u)).bay c = ⟨((stacked c tags u).col c).settled, none, [], none⟩ := by
    rw [settleColumn_bay, if_pos rfl]
    congr 1
    · exact hl.lock
    · exact hl.waits
  have hother : ∀ d, d ≠ c → (settleColumn c (stacked c tags u)).bay d = s.bay d := fun d hd' => by
    rw [settleColumn_bay, if_neg (Ne.symm hd')]
    refine Eq.trans (bay_of_rows (s := forEach (u.foundAt tags).zipIdx setLevel u) ?_ rfl rfl rfl) (hl.beside.bays d hd')
    rw [stacked]; dsimp only
    rw [setCol_col_if, if_neg (Ne.symm hd')]
  have fr : Beside c s (settleColumn c (stacked c tags u)) := ⟨hl.beside.line, hl.beside.marks, hother, hl.beside.recs⟩
  have hfits : BayFits s.isLive ((settleColumn c (stacked c tags u)).recIn c) ((settleColumn c (stacked c tags u)).bay c) := by
    rw [hbay]; exact stacked_bayFits hu hd
  have hf := (refreshStack_flagged c (stacked c tags u)).settle
  have hpos : OnePosition (settleColumn c (stacked c tags u)) := by
    refine positions_unlock (c := c) hs.consistent.positions (fun d => ?_) fun d => ?_
    · split
      · next e => subst e; exact congrArg Bay.lock hbay
      · next hne => exact congrArg Bay.lock (hother d (Ne.symm hne))
    · by_cases e : d = c
      · subst e
        rw [show (settleColumn d (stacked d tags u)).waitsOf d = [] from congrArg Bay.waits hbay]
        exact List.nil_sublist _
      · rw [show (settleColumn c (stacked c tags u)).waitsOf d = s.waitsOf d from congrArg Bay.waits (hother d e)]
  rw [rewriteStack_eq]
  refine ⟨⟨fr.trans (hf.beside hfits), hf.table (hl.table.of_tags (fun _ => rfl) ⟨rfl, rfl⟩), hf.positions hpos,
    hf.reservations hl.reservations, hf.bayFits hfits, hf.buriedIn hfits fun g r hr hlev => ?_⟩, (hf.bays c).trans hbay⟩
  obtain ⟨hlive, -, hrc⟩ := recIn_live hr
  rcases stacked_live hu hd hlive hrc with ⟨n, -, hn, -⟩ | ⟨-, -, -, -, hb, -⟩
  · rw [hlev] at hn; cases hn
  · exact hb

end Sys2Proof.Machine
end

section
namespace Sys2Proof.Machine

open Sys2Proof.Safety Function

variable {s t u v : State} {c d : Col} {g h : Handle} {r q p : Record} {i j : RecIdx} {k : Slot} {w : Work}
  {tags : List Tag} {o : Option Record} {n : Nat}

/-! ### The trimming (R157) -/

/-- A reservation of the changed column is retired. -/
theorem Changed.retire (h : Changed c s t) (hw : t.waitsOf c = []) (hr : t.live i = some r) (hst : r.state = .reserved)
    (hrc : r.column = c) (x : Retirement) :
    Changed c s (Machine.retire i x t) ∧ (Machine.retire i x t).bay c = t.bay c := by
  have ho := retire_only i x t
  have hsets := retire_sets hr x
  have hbay : (Machine.retire i x t).bay c = t.bay c := bay_of_rows (col_congr (ho.columns (by decide)) c) (retire_lockOf t i x c)
    ((retire_waits_nil x hw).trans hw.symm) (surveyor_congr (ho.survey (by decide)) c)
  have hrec := hsets.recIn (column_of_live hr hrc) (by simp)
  have hrin := recIn_of_live hr hrc
  have hrf := h.bay.records _ r hrin
  simp only [RecordFits, hst] at hrf
  obtain ⟨hlock, hstr⟩ := h.bay.waiting_unnamed hrin (.inl hst)
  refine ⟨⟨h.beside.trans (retire_beside hr hrc x), h.table.retire i x, ?_, hsets.reservations_kept h.reservations hr (by simp), ?_,
    fun g p hp => ?_⟩, hbay⟩
  · refine positions_sublist h.positions (fun d => ?_) fun d => (retire_waits_sublist i x d).length_le
    unfold positionsIn
    rw [retire_lockOf]
    exact ((retire_waits_sublist i x d).map _).append_left _
  · rw [hbay, hrec]
    refine h.bay.replace hlock hstr (fun e he => ?_) (by rw [hrin]; exact hrf.1.symm) (by simp)
    change e ∈ t.waitsOf c at he
    rw [hw] at he; cases he
  · obtain ⟨hpl, -, -⟩ := recIn_live hp
    rw [isBuried_of_column (s := t) (t := Machine.retire i x t) (by rw [col_congr (ho.columns (by decide))])]
    rw [hrec] at hp
    by_cases e : g = t.handleAt i
    · subst e; rw [update_self] at hp; cases hp
    · rw [update_of_ne e] at hp; exact h.buried g p hp

theorem Changed.retireAll {l : List RecIdx} (h : Changed c s t) (hw : t.waitsOf c = [])
    (hl : ∀ i ∈ l, ∃ r, t.live i = some r ∧ r.state = .reserved ∧ r.column = c) (hn : l.Nodup) (x : Retirement) :
    Changed c s (forEach l (fun i => Machine.retire i x) t) ∧ (forEach l (fun i => Machine.retire i x) t).bay c = t.bay c := by
  induction l generalizing t with
  | nil => exact ⟨h, rfl⟩
  | cons i l ih =>
    obtain ⟨r, hr, hst, hrc⟩ := hl i List.mem_cons_self
    obtain ⟨hi, hn'⟩ := List.nodup_cons.1 hn
    obtain ⟨h', hbay⟩ := h.retire hw hr hst hrc x
    obtain ⟨h2, hbay2⟩ := ih h' (retire_waits_nil x hw) (fun j hj => by
      obtain ⟨q, hq, hqs⟩ := hl j (List.mem_cons_of_mem i hj)
      exact ⟨q, by rw [retire_live, if_neg fun e => hi (by rw [e]; exact hj)]; exact hq, hqs⟩) hn'
    exact ⟨h2, hbay2.trans hbay⟩

theorem mem_trimmed (hi : i ∈ trimmedReservations c t) : ∃ r, t.live i = some r ∧ r.state = .reserved ∧ r.column = c := by
  have := List.mem_of_mem_take hi
  simpa [Option.any_eq_true] using (List.mem_filter.1 (List.mem_reverse.1 this)).2

theorem trimmed_nodup (ht : TableFits t) : (trimmedReservations c t).Nodup :=
  (List.nodup_reverse.2 (ht.order.1.filter _)).sublist (List.take_sublist _ _)

/-- In a column without lock and stranding the reservations are its RESERVED records. -/
theorem reservations_le_order (ht : TableFits t) (hb : BayFits L (t.recIn c) (t.bay c)) (hl : t.lockOf c = none) :
    t.reservations c ≤ (t.handoff.order.filter fun i => (t.live i).any fun r => r.state = .reserved && r.column = c).length := by
  refine ((recordsWhere_nodup _).subperm fun i hi => ?_).length_le
  obtain ⟨r, hr, hp⟩ := mem_recordsWhere.1 hi
  simp only [Bool.and_eq_true, decide_eq_true_eq] at hp
  obtain ⟨hres, hrc⟩ := hp
  have hnot := hb.not_working (w := .place) hl (recIn_of_live hr hrc)
  have hst : r.state = .reserved := by
    simp only [Record.reserves, Bool.or_eq_true, decide_eq_true_eq] at hres
    exact hres.resolve_right hnot
  refine List.mem_filter.2 ⟨(ht.order.2 i).2 (by rw [hr]; rfl), ?_⟩
  simp [hr, hst, hrc]

/-- The trimming brings the records of the column down to its capacity. -/
theorem trimmed_binsOf (h : Changed c s t) (hl : t.lockOf c = none) (hstr : (t.col c).stranded = none)
    (hlen : (t.col c).stack.length ≤ (t.col c).capacity) (x : Retirement) :
    (forEach (trimmedReservations c t) (fun i => Machine.retire i x) t).binsOf c ≤ (t.col c).capacity := by
  have hload := load_eq_binsOf h.bay
  have hdecomp : t.load c = (t.col c).stack.length + t.reservations c := by
    simp [State.load, State.strandedPlacement, hstr]
  have hle := reservations_le_order h.table h.bay hl
  have htrim : (trimmedReservations c t).length = t.load c - (t.col c).capacity := by
    rw [trimmedReservations, List.length_take, List.length_reverse]
    omega
  have hsub : (((forEach (trimmedReservations c t) (fun i => Machine.retire i x) t).recordsWhere fun r => r.column = c) ++
      trimmedReservations c t) ⊆ t.recordsWhere fun r => r.column = c := by
    intro i hi
    rcases List.mem_append.1 hi with hi | hi
    · obtain ⟨r, hr, hrc⟩ := mem_recordsWhere.1 hi
      rw [retireAll_live] at hr
      split at hr
      · cases hr
      · exact mem_recordsWhere.2 ⟨r, hr, hrc⟩
    · obtain ⟨r, hr, -, hrc⟩ := mem_trimmed hi
      exact mem_recordsWhere.2 ⟨r, hr, by simpa using hrc⟩
  have hnodup : (((forEach (trimmedReservations c t) (fun i => Machine.retire i x) t).recordsWhere fun r => r.column = c) ++
      trimmedReservations c t).Nodup := by
    refine (recordsWhere_nodup _).append (trimmed_nodup h.table) fun i h1 h2 => ?_
    obtain ⟨r, hr, -⟩ := mem_recordsWhere.1 h1
    rw [retireAll_live, if_pos h2] at hr
    cases hr
  have := (hnodup.subperm hsub).length_le
  rw [List.length_append] at this
  change State.binsOf _ c + _ ≤ t.binsOf c at this
  omega

/-! ### RESTACK whole (R156, R157) -/

theorem Relay.applyRestack (hs : Relay s) (hx : Stranding s c h r) (ha : Restackable c tags s) :
    Relay (applyRestack c tags s).1 ∧ (applyRestack c tags s).1.line = s.line := by
  have hu := sortRecords_sorted hx hs ha
  obtain ⟨hc, hbay⟩ := restacked_changed hs hu ha.nodup
  unfold Machine.applyRestack
  rw [restackRecords_eq]
  dsimp only
  generalize settleColumn c (rewriteStack c tags (sortRecords c tags s)) = t at hc hbay ⊢
  have hcol : t.col c = ((stacked c tags (sortRecords c tags s)).col c).settled := congrArg Bay.column hbay
  have hwaits : t.waitsOf c = [] := congrArg Bay.waits hbay
  have hlock : t.lockOf c = none := congrArg Bay.lock hbay
  have hcap : (t.col c).capacity = (s.col c).capacity := by rw [hcol, stacked_col hu]; rfl
  have hlen : (t.col c).stack.length ≤ (t.col c).capacity := by
    have : (t.col c).stack.length = tags.length := by
      rw [hcol, stacked_col hu]
      exact (List.length_map _).trans (foundAt_length hu)
    rw [this, hcap]; exact ha.fits
  obtain ⟨hz, hbayz⟩ := hc.retireAll hwaits (fun i hi => mem_trimmed hi) (trimmed_nodup hc.table) .unplaced
  have hle := trimmed_binsOf hc hlock (by rw [hcol]; rfl) hlen .unplaced
  generalize Machine.forEach (trimmedReservations c t) (fun i => retire i .unplaced) t = z at hz hbayz hle ⊢
  have hzcol : z.col c = t.col c := congrArg Bay.column hbayz
  refine ⟨hs.of_changed hz ((congrArg Bay.waits hbayz).trans hwaits) ⟨?_, ?_, fun hv => ?_⟩, hz.beside.line⟩
  · rw [hzcol]; exact hle
  · rw [hzcol, hcap]; exact (hs.loads c).2.1
  · rw [hzcol, hcol] at hv
    rcases toService_inService ((stacked c tags (sortRecords c tags s)).col c).prior with h | h <;>
      simp [Column.settled, h] at hv

theorem ownRestack_coherent (hs : Coherent s) (col : Byte) (tags : List Tag) : Coherent (ownRestack col tags s).1 := by
  have hrel := relay_of_coherent hs
  unfold ownRestack
  split
  · exact hs
  · next c hc =>
    split
    · exact hs
    · next hrange =>
      split
      · exact hs
      · next hserv =>
        split
        · exact hs
        · next hlock =>
          split
          · exact hs
          · next hconf =>
            split
            · exact hs
            · next hroom =>
              obtain ⟨hfits, hzero, hdup⟩ : tags.length ≤ (s.col c).capacity ∧ (0 : Tag) ∉ tags ∧ tags.Nodup := by
                simpa only [not_or, not_lt, not_not] using hrange
              have hsv : (s.col c).service = .suspect ∨ (s.col c).service = .fault := by
                simpa only [ne_eq, not_and_or, not_not] using hserv
              obtain ⟨h, hstr⟩ := Option.isSome_iff_exists.1 ((hrel.consistent.bays c).stranded.1.2 hsv)
              obtain ⟨r, hr, -⟩ := (hrel.consistent.bays c).stranded.2.2 h hstr
              have hx := hrel.stranding hstr (recIn_eq_some.1 hr).1
              have hhere : ∀ tag ∈ tags, ∀ i p, s.tagged tag = some (i, p) → p.column = c := fun tag ht i p hw => by
                by_contra hne
                refine hconf (List.any_eq_true.2 ⟨tag, ht, ?_⟩)
                simp [hw, hne]
              obtain ⟨hz, hline⟩ := hrel.applyRestack (tags := tags) hx
                ⟨hfits, hzero, hdup, by simpa using hlock, hhere, not_lt.1 hroom⟩
              exact coherent_of_line hs hz hline

end Sys2Proof.Machine
end

section
/-! The relay table under every command: the owners of host commands, the planner port, and the events. -/
namespace Sys2Proof.Machine

open Sys2Proof.Safety Function

variable {s t : State} {i : Instr}

/-! ### The owners of host commands -/

theorem ownPageWrite_coherent (hs : Coherent s) (row op : Byte) (tag : Tag) (cls : Byte) (dueSpan budget orderRef : BitVec 16)
    (keep : Byte) : Coherent (ownPageWrite row op tag cls dueSpan budget orderRef keep s).1 := by
  unfold ownPageWrite
  split
  · exact setManifest_coherent hs _
  · exact hs

theorem ownPageMerge_coherent (hs : Coherent s) (count : Byte) : Coherent (ownPageMerge count s).1 := by
  unfold ownPageMerge
  dsimp only
  split
  · exact hs
  · split
    · exact hs
    · exact setManifest_coherent hs _

theorem ownManifestClear_coherent (hs : Coherent s) : Coherent (ownManifestClear s).1 := by
  unfold ownManifestClear
  split
  · exact hs
  · exact setManifest_coherent hs _

theorem ownAgeStart_coherent (hs : Coherent s) : Coherent (ownAgeStart s).1 := by
  unfold ownAgeStart
  split
  · exact setAge_coherent hs _
  · exact hs

theorem ownSurveyClear_coherent (hs : Coherent s) : Coherent (ownSurveyClear s).1 :=
  coherent_of_tables hs rfl rfl rfl rfl rfl

theorem ownReadColumn_state (col : Byte) : (ownReadColumn col s).1 = s := by
  unfold ownReadColumn; split <;> rfl

theorem ownReadSlot_state (slot : Byte) : (ownReadSlot slot s).1 = s := by
  unfold ownReadSlot; split <;> rfl

theorem ownReadHandoff_state (idx gen : Byte) : (ownReadHandoff idx gen s).1 = s := by
  unfold ownReadHandoff
  split
  · rfl
  · split
    · rfl
    · split
      · split <;> rfl
      · rfl

theorem ownColumnDefine_line (col x y capacity classes : Byte) : (ownColumnDefine col x y capacity classes s).1.line = s.line := by
  unfold ownColumnDefine
  split
  · split
    · rfl
    · split <;> rfl
  · rfl

theorem ownColumnService_line (col state : Byte) : (ownColumnService col state s).1.line = s.line := by
  have asks : ∀ c asked, (if asked = (s.col c).service then answer .ok s
      else if asked = .out ∧ (0 < s.load c ∨ (s.lockOf c).isSome) then answer .busy s
      else answer .ok (s.setCol c { s.col c with service := asked })).1.line = s.line := fun c asked => by
    split
    · rfl
    · split <;> rfl
  unfold ownColumnService
  split
  · next c asked _ _ =>
    have h := asks c asked
    cases hv : (s.col c).service <;> simp only [hv] at h ⊢
    case opened | draining | out => exact h
    all_goals rfl
  · rfl

theorem ownAssign_line (idx gen slot : Byte) : (ownAssign idx gen slot s).1.line = s.line := by
  unfold ownAssign
  split
  · split
    · rfl
    · split
      · rfl
      · rfl
      · rfl
      · rfl
      · split
        · exact (promiseRecord_only _ _ _).line (by decide)
        · rfl
      · split
        · split
          · rfl
          · exact ((promiseRecord_only _ _ _).line (by decide)).trans ((dropCollectorWait_only _ _ _).line (by decide))
        · rfl
  · rfl

theorem ownUnassign_line (idx gen : Byte) : (ownUnassign idx gen s).1.line = s.line := by
  unfold ownUnassign
  split
  · rfl
  · split
    · rfl
    · next r _ =>
      cases r.state
      case promised => exact ((parkRecord_only _ _).line (by decide)).trans ((dropCollectorWait_only _ _ _).line (by decide))
      all_goals rfl

theorem ownCancel_line (idx gen : Byte) : (ownCancel idx gen s).1.line = s.line := by
  unfold ownCancel
  split
  · rfl
  · split
    · rfl
    · next r _ =>
      cases r.state
      case reserved => exact (retire_only _ _ _).line (by decide)
      all_goals rfl

theorem ownRebudget_line (idx gen : Byte) (budget : BitVec 16) : (ownRebudget idx gen budget s).1.line = s.line := by
  unfold ownRebudget
  split
  · rfl
  · split <;> rfl

theorem ownSurveyAsk_line (col slot : Byte) : (ownSurveyAsk col slot s).1.line = s.line := by
  unfold ownSurveyAsk
  split
  · split
    · rfl
    · split
      · rfl
      · split
        · rfl
        · split
          · rfl
          · exact (endSurveyLockOf_only _ _ _).line (by decide)
  · rfl

/-- Every owner of a host command keeps the laws of the relay table. -/
theorem hostOwner_coherent {own : State → State × Response} (hs : Coherent s) (hi : hostOwner i = some own) :
    Coherent (own s).1 := by
  have hr := relay_of_coherent hs
  cases i <;> cases hi
  case zoneSetup p => exact ownZoneSetup_coherent hs p
  case zoneClear => exact ownZoneClear_coherent hs
  case columnDefine c x y k m => exact coherent_of_line hs (hr.ownColumnDefine c x y k m) (ownColumnDefine_line ..)
  case columnService c v => exact coherent_of_line hs (hr.ownColumnService c v) (ownColumnService_line ..)
  case readColumn c => rw [ownReadColumn_state]; exact hs
  case slotMode k m => exact ownSlotMode_coherent hs k m
  case blockMode m a b => exact ownBlockMode_coherent hs m a b
  case blockEndEnable m => exact coherent_setLine hs rfl rfl rfl
  case readSlot k => rw [ownReadSlot_state]; exact hs
  case clearLost k => exact ownClearLost_coherent hs k
  case linkStart => exact ownLinkStart_coherent hs
  case linkStop => exact ownLinkStop_coherent hs
  case statsClear => exact coherent_setLine hs rfl rfl rfl
  case ageStart => exact ownAgeStart_coherent hs
  case ageStop => exact setAge_coherent hs _
  case rebudget x g b => exact coherent_of_line hs (hr.ownRebudget x g b) (ownRebudget_line ..)
  case pageWrite r o t c d b n k => exact ownPageWrite_coherent hs r o t c d b n k
  case pageMerge n => exact ownPageMerge_coherent hs n
  case manifestClear => exact ownManifestClear_coherent hs
  case readHandoff x g => rw [ownReadHandoff_state]; exact hs
  case assign x g k => exact coherent_of_line hs (hr.ownAssign x g k) (ownAssign_line ..)
  case unassign x g => exact coherent_of_line hs (hr.ownUnassign x g) (ownUnassign_line ..)
  case cancel x g => exact coherent_of_line hs (hr.ownCancel x g) (ownCancel_line ..)
  case surveyAsk c k => exact coherent_of_line hs (hr.ownSurveyAsk c k) (ownSurveyAsk_line ..)
  case surveyClear => exact ownSurveyClear_coherent hs
  case restack c tags => exact ownRestack_coherent hs c tags
  case noticeAck m => exact setNotice_coherent hs _
  case noticeEnable m => exact setNotice_coherent hs _
  case readStats | readAge | mergeResult | manifestFind | manifestCount | findTag | freeCount | surveyRead | notices => exact hs

/-! ### The planner port (R159 to R161, R169) -/

theorem takeCommand_coherent {own : State → State × Response} (hi : hostOwner i = some own) (hs : Coherent s) :
    Coherent (takeCommand own s) := setPort_coherent (hostOwner_coherent hs hi) _

theorem takeNop_coherent (hs : Coherent s) : Coherent (takeNop s) := setPort_coherent hs _

theorem discardFrame_coherent (k : FrameKind) (hs : Coherent s) : Coherent (discardFrame k s) :=
  setNotice_coherent (setPort_coherent hs _) _

theorem endFrame_coherent {f : State → State} (hf : ∀ {u}, Coherent u → Coherent (f u)) (n : Nat) (hs : Coherent s) :
    Coherent (endFrame n f s) := by
  unfold endFrame
  split
  · exact setPort_coherent hs _
  · exact setPort_coherent hs _
  · split
    · exact setPort_coherent hs _
    · exact setPort_coherent hs _
    · exact setPort_coherent hs _
    · exact hf (setPort_coherent hs _)

theorem hostFrame_coherent {f : State → State} (hf : ∀ {u}, Coherent u → Coherent (f u)) (n : Nat) (hs : Coherent s) :
    Coherent (hostFrame n f s) := by
  unfold hostFrame
  split
  · exact endFrame_coherent hf _ hs
  · exact endFrame_coherent (discardFrame_coherent .over) _ hs

theorem judgeFrame_coherent (bytes : List Byte) (hs : Coherent s) : Coherent (judgeFrame bytes s) := by
  unfold judgeFrame
  split
  · exact discardFrame_coherent _ hs
  · exact discardFrame_coherent _ hs
  · exact setPort_coherent hs _
  · exact setPort_coherent hs _
  · split
    · next hi => exact takeCommand_coherent hi hs
    · exact takeNop_coherent hs

theorem beginFrameTooSoon_coherent (hs : Coherent s) : Coherent (beginFrameTooSoon s) := by
  unfold beginFrameTooSoon
  split
  · exact setPort_coherent hs _
  · exact setPort_coherent hs _
  · split
    · exact setPort_coherent hs _
    · exact hs

theorem finishCommand_coherent (hs : Coherent s) : Coherent (finishCommand s) := by
  unfold finishCommand
  split
  · exact hs
  · exact setPort_coherent hs _
  · exact setPort_coherent hs _

theorem raiseResetN_coherent (hs : Coherent s) : Coherent (raiseResetN s) := by
  unfold raiseResetN
  split
  · exact setPower_coherent hs _
  · exact hs
  · exact hs

theorem becomeReady_coherent (hs : Coherent s) : Coherent (becomeReady s) := by
  unfold becomeReady
  split
  · exact setPower_coherent hs _
  · exact hs
  · exact hs

/-- The model's clock and its queue are none of the tables. -/
theorem coherent_of_clock (hs : Coherent s) (n : Nat) (l : List Instr) : Coherent { s with now := n, pending := l } :=
  coherent_of_tables hs rfl rfl rfl rfl rfl

theorem resetPart_coherent (s : State) : Coherent (resetPart s) := coherent_of_clock coherent_reset s.now s.pending

/-! ### Every command -/

theorem exec_hostOwner {own : State → State × Response} (hi : hostOwner i = some own) :
    ∃ n, exec i s = .next (hostFrame n (takeCommand own) s) := by
  cases i <;> cases hi <;> exact ⟨_, rfl⟩

/-- Every command keeps the laws of the relay table. -/
theorem exec_coherent (hs : Coherent s) : ∃ t, exec i s = .next t ∧ Coherent t := by
  cases hi : hostOwner i with
  | some own =>
    obtain ⟨n, hn⟩ := exec_hostOwner (s := s) hi
    exact ⟨_, hn, hostFrame_coherent (takeCommand_coherent hi) n hs⟩
  | none =>
    cases i
    case nop filler => exact ⟨_, rfl, hostFrame_coherent takeNop_coherent _ hs⟩
    case frameEnd bytes leftover => exact ⟨_, rfl, endFrame_coherent (judgeFrame_coherent bytes) _ hs⟩
    case frameBegunTooSoon => exact ⟨_, rfl, beginFrameTooSoon_coherent hs⟩
    case commandFinish => exact ⟨_, rfl, finishCommand_coherent hs⟩
    case reset => exact ⟨_, rfl, resetPart_coherent s⟩
    case partReady => exact ⟨_, rfl, becomeReady_coherent hs⟩
    case resetNRise => exact ⟨_, rfl, raiseResetN_coherent hs⟩
    case roundPeriodDue => exact ⟨_, rfl, roundDue_coherent hs⟩
    case replyWindowExpiry => exact ⟨_, rfl, expireWindow_coherent hs⟩
    case answerEnd bytes b => exact ⟨_, rfl, receiveAnswer_coherent hs bytes b⟩
    case answerOverlength => exact ⟨_, rfl, overlength_coherent hs⟩
    case emptyRoundEnd => exact ⟨_, rfl, endEmptyRound_coherent hs⟩
    case answerStartBit => exact ⟨_, rfl, openReception_coherent hs⟩
    case leaseExpiry c =>
      exact ⟨_, rfl, coherent_of_line hs ((relay_of_coherent hs).expireLock c) ((expireLock_only c s).line (by decide))⟩
    case ageEvent => exact ⟨_, rfl, ageEvent_coherent hs⟩
    case mergeStep => exact ⟨_, rfl, mergeStep_coherent hs⟩
    case join st id => exact ⟨_, rfl, answered_coherent hs st _⟩
    case leave st => exact ⟨_, rfl, answered_coherent hs st _⟩
    case park st tag => exact ⟨_, rfl, answered_coherent hs st _⟩
    case lock st col h => exact ⟨_, rfl, answered_coherent hs st _⟩
    case setDown st h => exact ⟨_, rfl, answered_coherent hs st _⟩
    case pickUp st h => exact ⟨_, rfl, answered_coherent hs st _⟩
    case claim st tag => exact ⟨_, rfl, answered_coherent hs st _⟩
    case yield st h => exact ⟨_, rfl, answered_coherent hs st _⟩
    case yieldSurvey st => exact ⟨_, rfl, answered_coherent hs st _⟩
    case survey st col tags => exact ⟨_, rfl, answered_coherent hs st _⟩
    all_goals cases hi

/-- Settles O59: the laws of each column are kept by every change of its records, its stack, its lock and its wait list,
and every command is made of such changes. -/
theorem relayTableStaysCoherent : Obligations.RelayTableStaysCoherent := by
  unfold Obligations.RelayTableStaysCoherent
  intro s t hs hstep
  unfold step at hstep
  split at hstep
  · cases hstep
    exact coherent_of_clock hs (s.now + 1) s.pending
  · next i rest _ =>
    obtain ⟨u, hu, hc⟩ := exec_coherent (i := i) (coherent_of_clock hs s.now rest)
    have h : exec i (s.setPending rest) = .next u := hu
    rw [h] at hstep
    cases hstep
    exact hc

end Sys2Proof.Machine
end

section
/-! The host commands of the handoff table (chapter 2), and the queries of tags and counts. -/

namespace Sys2Proof.Machine

open Sys2Proof Sys2Proof.Safety

variable {s u v : State} {h : Handle} {r : Record} {k : Slot} {c : Col} {i g b : Byte}

/-! ### READ_HANDOFF (R37) -/

/-- The bytes of a handle are the two operands that named it. -/
theorem handleBytes_eq (hi : i.toNat = h.idx.val) (hg : g.toNat = h.gen.val) : handleBytes h = [i, g] := by
  rw [handleBytes, ← byte_eq_of_toNat hi, ← byte_eq_of_toNat hg]

/-- Settles O11: the handle is in range or not, live or not, and its index has its outcome entry or not. -/
theorem readHandoffJudged : Obligations.ReadHandoffJudged := by
  intro s i g hp opt
  have taken : ∀ {a}, ownReadHandoff i g s = (s, a) → exec (.readHandoff i g) s = .next (commandTaken s s 2 a) :=
    next_taken hp (by decide) (ownReadHandoff_blind i g)
  refine ⟨fun bad => taken ?_, fun h hi hg => ?_⟩
  · rw [ownReadHandoff, readHandle_none bad]; rfl
  have hread := readHandle_eq hi hg
  have hbytes := handleBytes_eq hi hg
  refine ⟨fun r hr => taken ?_, fun hn o ho e => taken ?_, fun hn ho => taken ?_⟩
  · simp only [ownReadHandoff, hread, hr, recordBytes, hbytes]; rfl
  · subst e
    simp only [ownReadHandoff, hread, hn, ho, outcomeBytes, hbytes, if_true]; rfl
  · simp only [ownReadHandoff, hread, hn]
    cases hl : (s.entry h.idx).last with
    | none => rfl
    | some o => exact if_neg (ho o hl)

/-! ### Tags and counts (R24, R38, R106) -/

theorem manifestFind_eq_none {m : Manifest} {t : Tag} (hn : ∀ e ∈ m.map, e.tag ≠ t) : m.find t = none :=
  List.find?_eq_none.2 fun e he => by simpa using hn e he

/-- R95: the tags of the map rise, so a tag finds its one entry. -/
theorem manifestFind_of_mem (hm : MapInForm s) {e : BinFacts} (he : e ∈ s.manifest.map) : s.manifest.find e.tag = some e := by
  cases hf : s.manifest.find e.tag with
  | none => exact absurd (List.find?_eq_none.1 hf e he) (by simp)
  | some f =>
    have htag : f.tag = e.tag := by simpa using List.find?_some hf
    have hnodup : (s.manifest.map.map BinFacts.tag).Nodup :=
      List.pairwise_map.2 (hm.1.imp fun hlt heq => by rw [heq] at hlt; exact Nat.lt_irrefl _ hlt)
    exact congrArg some (List.inj_on_of_nodup_map hnodup (List.mem_of_find?_eq_some hf) he htag)

/-- Settles O12: none of the four owners writes, and a tag is found in at most one place of each table. -/
theorem tagAndCountQueries : Obligations.TagAndCountQueries := by
  intro s t hp
  have found : ∀ {a}, ownFindTag t s = (s, a) → exec (.findTag t) s = .next (commandTaken s s 4 a) :=
    next_taken hp (by decide) (ownFindTag_blind t)
  have listed : ∀ {a}, ownManifestFind t s = (s, a) → exec (.manifestFind t) s = .next (commandTaken s s 4 a) :=
    next_taken hp (by decide) (ownManifestFind_blind t)
  refine ⟨fun hn => found ?_, fun hu j r hr ht => found ?_, next_taken hp (by decide) ownFreeCount_blind rfl,
    fun hn => listed ?_, fun hm h0 e he ht => listed ?_, next_taken hp (by decide) ownManifestCount_blind rfl⟩
  · rw [ownFindTag, tagged_eq_none.2 hn]; rfl
  · rw [ownFindTag, tagged_of_live hu hr ht]; rfl
  · rw [ownManifestFind]
    split
    · rfl
    · next h0 => rw [manifestFind_eq_none (hn.resolve_left h0)]; rfl
  · subst ht
    rw [ownManifestFind, if_neg h0, manifestFind_of_mem hm he]
    cases hk : e.keep <;> simp [presenceBytes, BinFacts.bytes, u8, u16, u32, hk]

/-! ### Entries dropped from a wait list -/

/-- In the lock unit, the wait list of one column loses the entries that fail a test, and nothing else changes. -/
abbrev WaitsFiltered (c : Col) (p : WaitEntry → Bool) (s u : State) : Prop :=
  SameLocksBut c s u ∧ u.lockOf c = s.lockOf c ∧ u.lock = { s.lock with waits := u.lock.waits } ∧
    u.waitsOf c = (s.waitsOf c).filter p

theorem setWaitsOf_filtered (c : Col) (p : WaitEntry → Bool) (s : State) :
    WaitsFiltered c p s (s.setWaitsOf c ((s.waitsOf c).filter p)) :=
  ⟨fun d hd => ⟨rfl, by rw [setWaitsOf_waitsOf_if, if_neg hd.symm]⟩, rfl, rfl, by rw [setWaitsOf_waitsOf_if, if_pos rfl]⟩

/-- Nothing is dropped when no entry fails the test. -/
theorem WaitsFiltered.refl {p : WaitEntry → Bool} (hp : ∀ e ∈ s.waitsOf c, p e) : WaitsFiltered c p s s :=
  ⟨fun _ _ => ⟨rfl, rfl⟩, rfl, rfl, (List.filter_eq_self.2 hp).symm⟩

theorem WaitsFiltered.of_lock {p : WaitEntry → Bool} (hw : WaitsFiltered c p s v) (hl : u.lock = v.lock) :
    WaitsFiltered c p s u := by
  simpa only [WaitsFiltered, SameLocksBut, lockOf_congr hl, waitsOf_congr hl, hl] using hw

theorem dropCollectorWait_filtered (r : Record) (h : Handle) (s : State) :
    WaitsFiltered r.column (fun e => !(decide (r.collector = some e.slot) && decide (e.work = .lift) && decide (e.handle = h)))
      s (dropCollectorWait r h s) := by
  unfold dropCollectorWait
  split
  · next k hk =>
    simp only [hk, Option.some.injEq, eq_comm (a := k)]
    exact setWaitsOf_filtered r.column _ s
  · next hk => exact .refl fun e _ => by simp [hk]

/-! ### ASSIGN (R39) -/

theorem ownAssign_range (bad : 63 < i.toNat ∨ 15 < g.toNat ∨ 63 < b.toNat) : ownAssign i g b s = answer .range s := by
  unfold ownAssign
  split
  · next h k hh hk =>
    obtain ⟨hi, hg⟩ := readHandle_some hh
    have := readSlotNo_some hk
    omega
  · rfl

/-- R30: a record promised in a state that differs only in its wait lists. -/
theorem promiseRecord_changes (hr : s.named h = some r) (hv : OnlyChanges [.lock] s v) (k : Slot) :
    OnlyChanges [.handoff, .lock, .notice] s (promiseRecord h.idx k v) ∧ SameEntriesBut h.idx s (promiseRecord h.idx k v) ∧
      SameCounts s (promiseRecord h.idx k v) ∧
      (promiseRecord h.idx k v).entry h.idx = { s.entry h.idx with
        live := some { r with
          state := .promised, collector := some k, strandedFrom := none, buried := (s.depth r).any (0 < ·) } } ∧
      (promiseRecord h.idx k v).notice = if (s.depth r).any (0 < ·) ∧ r.buried = false then
          afterRaising 5 { s.notice with buried := some (s.notice.buried.getD h) }
        else s.notice := by
  have hhand := hv.handoff (by decide)
  have hdepth : v.depth r = s.depth r := by unfold State.depth; rw [col_congr (hv.columns (by decide))]
  refine ⟨(hv.mono (by decide)).trans ((promiseRecord_only _ k v).mono (by decide)), fun j hj => ?_, ?_, ?_, ?_⟩
  · rw [promiseRecord_entry, if_neg hj.symm, entry_congr hhand]
  · simpa only [SameCounts, hhand] using promiseRecord_counts v h.idx k
  · rw [promiseRecord_entry, if_pos rfl, entry_congr hhand, live_congr hhand, live_of_named hr, Option.map_some, hdepth]
  · rw [promiseRecord_notice, live_congr hhand, live_of_named hr, handleAt_congr hhand, handleAt_of_named hr,
      hv.notice (by decide), Option.any_some, hdepth]
    simp

/-- Settles O24: the checks in R39's order, and a promise in the state without the old collector's wait place. -/
theorem assignJudged : Obligations.AssignJudged := by
  intro s i g b hp cmd
  have taken : ∀ {u a}, ownAssign i g b s = (u, a) → exec cmd s = .next (commandTaken s u 3 a) :=
    next_taken hp (by decide) (ownAssign_blind i g b)
  refine ⟨fun bad => taken (ownAssign_range bad), fun h k hi hg hb => ?_⟩
  have hread := readHandle_eq hi hg
  have hslot := readSlotNo_eq hb
  refine ⟨fun hn => taken ?_, fun r hr => ⟨fun hst => taken ?_, fun hst => taken ?_, fun hst hk => taken ?_,
    fun hst hk hcl => taken ?_, fun hst hk => ?_⟩⟩
  · simp only [ownAssign, hread, hslot, hn]; rfl
  · simp only [ownAssign, hread, hslot, hr, hst]; rfl
  · simp only [List.mem_cons, List.not_mem_nil, or_false] at hst
    rcases hst with hst | hst | hst <;> simp only [ownAssign, hread, hslot, hr, hst] <;> rfl
  · simp only [List.mem_cons, List.not_mem_nil, or_false] at hst
    rcases hst with hst | hst <;> simp only [ownAssign, hread, hslot, hr, hst, hk] <;> rfl
  · simp only [ownAssign, hread, hslot, hr, hst, hk, hcl, if_true]; rfl
  · obtain ⟨v, hv, ho, hw⟩ : ∃ v, OnlyChanges [.lock] s v ∧ ownAssign i g b s = answer .ok (promiseRecord h.idx k v) ∧
        WaitsFiltered r.column (fun e => !(decide (r.state = .promised) && decide (r.collector = some e.slot) &&
          decide (e.work = .lift) && decide (e.handle = h))) s v := by
      rcases hst with hst | ⟨hst, hcl⟩
      · exact ⟨s, .refl _ s, by simp only [ownAssign, hread, hslot, hr, hst, hk, if_true], .refl fun e _ => by simp [hst]⟩
      · refine ⟨dropCollectorWait r h s, dropCollectorWait_only r h s,
          by simp only [ownAssign, hread, hslot, hr, hst, hk, hcl, if_true, if_false], ?_⟩
        simpa only [hst, decide_true, Bool.true_and] using dropCollectorWait_filtered r h s
    obtain ⟨honly, hothers, hcounts, hentry, hnotice⟩ := promiseRecord_changes hr hv k
    exact ⟨promiseRecord h.idx k v, taken ho, honly, hothers, hcounts, ⟨hentry, hnotice⟩,
      hw.of_lock (promiseRecord_lock h.idx k v)⟩

/-! ### UNASSIGN (R40) -/

/-- Settles O25: the checks in R40's order, and the record parked in the state without its collector's wait place. -/
theorem unassignJudged : Obligations.UnassignJudged := by
  intro s i g hp cmd
  have taken : ∀ {u a}, ownUnassign i g s = (u, a) → exec cmd s = .next (commandTaken s u 2 a) :=
    next_taken hp (by decide) (ownUnassign_blind i g)
  refine ⟨fun bad => taken ?_, fun h hi hg => ?_⟩
  · rw [ownUnassign, readHandle_none bad]; rfl
  have hread := readHandle_eq hi hg
  refine ⟨fun hn => taken ?_, fun r hr => ⟨fun hst => taken ?_, fun hst => taken ?_, fun hst => ?_⟩⟩
  · simp only [ownUnassign, hread, hn]; rfl
  · simp only [ownUnassign, hread, hr, hst]; rfl
  · simp only [List.mem_cons, List.not_mem_nil, or_false] at hst
    rcases hst with hst | hst | hst | hst <;> simp only [ownUnassign, hread, hr, hst] <;> rfl
  · have honly := dropCollectorWait_only r h s
    have hhand := honly.handoff (by decide)
    refine ⟨parkRecord h.idx (dropCollectorWait r h s), taken (by simp only [ownUnassign, hread, hr, hst]; rfl),
      (honly.mono (by decide)).trans ((parkRecord_only _ _).mono (by decide)), fun j hj => ?_, ?_, ?_,
      (dropCollectorWait_filtered r h s).of_lock (parkRecord_lock h.idx _)⟩
    · rw [parkRecord_entry, if_neg hj.symm, entry_congr hhand]
    · simpa only [SameCounts, hhand] using parkRecord_counts (dropCollectorWait r h s) h.idx
    · rw [parkRecord_entry, if_pos rfl, entry_congr hhand, live_congr hhand, live_of_named hr]; rfl

/-! ### CANCEL (R42) -/

/-- Settles O26: the checks in R42's order, and the retirement of R34. -/
theorem cancelJudged : Obligations.CancelJudged := by
  intro s i g hp cmd
  have taken : ∀ {u a}, ownCancel i g s = (u, a) → exec cmd s = .next (commandTaken s u 2 a) :=
    next_taken hp (by decide) (ownCancel_blind i g)
  refine ⟨fun bad => taken ?_, fun h hi hg => ?_⟩
  · rw [ownCancel, readHandle_none bad]; rfl
  have hread := readHandle_eq hi hg
  refine ⟨fun hn => taken ?_, fun r hr => ⟨fun hst => taken ?_, fun hst => taken ?_, fun hst => ?_⟩⟩
  · simp only [ownCancel, hread, hn]; rfl
  · simp only [ownCancel, hread, hr, hst]; rfl
  · simp only [List.mem_cons, List.not_mem_nil, or_false] at hst
    rcases hst with hst | hst | hst | hst <;> simp only [ownCancel, hread, hr, hst] <;> rfl
  · have hlive := live_of_named hr
    have hat := handleAt_of_named hr
    obtain ⟨u, hu, honly, hentry, hfree, horder, hlock⟩ := retire_eq s hlive .cancelled
    rw [if_neg (by decide)] at hu
    rw [hat] at hlock
    refine ⟨u, taken (by simp only [ownCancel, hread, hr, hst, hu]; rfl), honly, fun j hj => ?_, ?_, hfree, horder,
      (setWaitsOf_filtered r.column (fun e => e.handle ≠ h) s).of_lock hlock⟩
    · rw [hentry, if_neg hj.symm]
    · rw [hentry, if_pos rfl, hat, (named_eq_some.1 hr).1]

end Sys2Proof.Machine
end

section
/-! The handoff table under every command: its free count, the tags of its records and their order of making (R24, R25,
R157). The laws are about the table alone, so a command keeps them in every state in which they hold: it changes records that
keep their tags, makes records for tags that none carries, and retires records. -/

namespace Sys2Proof.Machine

open Sys2Proof Sys2Proof.Safety

variable {s t : State} {i : RecIdx} {r q : Record} {k : Slot} {c : Col} {w : Work}

/-! ### The kinds of changes -/

theorem TableFits.of_handoff (hs : TableFits s) (e : t.handoff = s.handoff) : TableFits t :=
  hs.of_tags (fun i => by rw [live_congr e]) ⟨by rw [e], by rw [e]⟩

/-- The laws read no other block than the handoff table. -/
theorem TableFits.of_only {ps : List Part} (hs : TableFits s) (ho : OnlyChanges ps s t) (hp : .handoff ∉ ps) : TableFits t :=
  hs.of_handoff (ho.handoff hp)

/-- The record of one index changes and keeps its tag. -/
theorem TableFits.of_map (hs : TableFits s) {f : Record → Record}
    (he : ∀ j, t.entry j = if i = j then { s.entry j with live := (s.live j).map f } else s.entry j)
    (hf : ∀ r, (f r).tag = r.tag) (hc : SameCounts s t) : TableFits t := by
  refine hs.of_tags (fun j => ?_) hc
  rw [live_def, he]
  split
  · rw [Option.map_map]
    exact congrArg (Option.map · (s.live j)) (funext hf)
  · rfl

theorem forEach_tableFits {α : Type} {f : α → State → State} (hf : ∀ a u, TableFits u → TableFits (f a u)) (l : List α)
    (hs : TableFits s) : TableFits (forEach l f s) := by
  induction l generalizing s with
  | nil => exact hs
  | cons a l ih => exact ih (hf a s hs)

theorem setRec_tableFits (hs : TableFits s) (hr : s.live i = some r) (ht : q.tag = r.tag) : TableFits (s.setRec i q) := by
  refine hs.of_tags (fun j => ?_) ⟨rfl, rfl⟩
  rw [setRec_live_if]
  split
  · next e => subst e; rw [hr, Option.map_some, Option.map_some, ht]
  · rfl

/-! ### Moves among the record states -/

theorem parkRecord_tableFits (hs : TableFits s) (i : RecIdx) : TableFits (parkRecord i s) :=
  hs.of_map (parkRecord_entry s i) (fun _ => rfl) (parkRecord_counts s i)

theorem reserveRecord_tableFits (hs : TableFits s) (i : RecIdx) : TableFits (reserveRecord i s) :=
  hs.of_map (reserveRecord_entry s i) (fun _ => rfl) (reserveRecord_counts s i)

theorem promiseRecord_tableFits (hs : TableFits s) (i : RecIdx) (k : Slot) : TableFits (promiseRecord i k s) :=
  hs.of_map (promiseRecord_entry s i · k) (fun _ => rfl) (promiseRecord_counts s i k)

theorem refreshStack_tableFits (hs : TableFits s) (c : Col) : TableFits (refreshStack c s) := (refreshStack_flagged c s).table hs

theorem pushRecord_tableFits (hs : TableFits s) (i : RecIdx) (c : Col) : TableFits (pushRecord i c s) :=
  hs.of_map (pushRecord_entry s i · c) (fun _ => rfl) (pushRecord_counts i c)

theorem popStack_tableFits (hs : TableFits s) (c : Col) : TableFits (popStack c s) := hs.of_only (popStack_only c s) (by decide)

theorem returnWork_tableFits (hs : TableFits s) (w : Work) (i : RecIdx) : TableFits (returnWork w i s) :=
  hs.of_map (returnWork_entry w i) (fun _ => by cases w <;> rfl) (returnWork_counts w i)

theorem dropPromises_tableFits (hs : TableFits s) (k : Slot) : TableFits (dropPromises k s) :=
  forEach_tableFits (fun i _ hu => parkRecord_tableFits hu i) _ hs

theorem retireAll_tableFits (hs : TableFits s) (l : List RecIdx) (o : Retirement) :
    TableFits (forEach l (fun i => retire i o) s) := forEach_tableFits (fun i _ hu => hu.retire i o) l hs

/-- R23, R52: a record made at a free index, with its notice. -/
theorem makeNoted_tableFits (hs : TableFits s) (hi : s.firstFree = some i) (h0 : r.tag ≠ 0)
    (hnew : ∀ j, ∀ q ∈ s.live j, q.tag ≠ r.tag) (b : Bool) : TableFits (noteUnlisted i b (makeAt i r s)) :=
  (hs.makeAt (firstFree_some_iff.1 hi).1 h0 hnew).of_only (noteUnlisted_only i b _) (by decide)

/-! ### Locks -/

theorem grant_tableFits (hs : TableFits s) (c : Col) (k : Slot) (x : Hold) : TableFits (grant c k x s) := by
  cases x with
  | work w h => exact hs.of_map (grant_entry s c k w h) (fun _ => by cases w <;> rfl) (grant_counts s c k _)
  | survey => exact hs.of_handoff rfl

theorem scan_tableFits (hs : TableFits s) (c : Col) : TableFits (scan c s) := by
  unfold scan
  split
  · exact hs
  · split
    · exact hs
    · exact grant_tableFits (hs.of_only (setWaitsOf_only c _ s) (by decide)) _ _ _

theorem endLock_tableFits (hs : TableFits s) (c : Col) : TableFits (endLock c s) := hs.of_only (endLock_only c s) (by decide)

theorem dropWaiter_tableFits (hs : TableFits s) (k : Slot) : TableFits (s.dropWaiter k) :=
  hs.of_only (s.dropWaiter_only k) (by decide)

theorem strand_tableFits (hs : TableFits s) (c : Col) (k : Slot) (w : Work) (h : Handle) : TableFits (strand c k w h s) :=
  hs.of_map (strand_entry s c k w h) (fun _ => rfl) (strand_counts s c k w h)

theorem breakLock_tableFits (hs : TableFits s) (c : Col) : TableFits (breakLock c s) := by
  unfold breakLock
  split
  · exact hs
  · split
    · exact strand_tableFits hs _ _ _ _
    · exact endLock_tableFits hs c

theorem expireLock_tableFits (hs : TableFits s) (c : Col) : TableFits (expireLock c s) := by
  unfold expireLock
  split
  · exact hs
  · exact (breakLock_tableFits hs c).of_only (setMark_only _ _ _) (by decide)

/-! ### The requests of chapters 3, 4 and 8 -/

theorem judgePark_tableFits (hs : TableFits s) (k : Slot) (tag : Tag) : TableFits (judgePark k tag s).1 := by
  unfold judgePark
  split
  · exact hs
  · next h0 =>
    split
    · split <;> exact hs
    · next hnew =>
      split
      · exact hs
      · split
        · exact hs
        · split
          · exact hs
          · next i hi =>
            dsimp only
            split
            · exact hs
            · exact makeNoted_tableFits hs hi h0 ((tagged_eq_none.1 hnew).resolve_left h0) _

theorem judgeSurveyLock_tableFits (hs : TableFits s) (k : Slot) (col : Byte) : TableFits (judgeSurveyLock k col s).1 := by
  unfold judgeSurveyLock
  split
  · exact hs
  · split
    · exact grant_tableFits hs _ k .survey
    · exact hs

theorem judgeWorkLock_tableFits (hs : TableFits s) (k : Slot) (col : Byte) (h : Handle) :
    TableFits (judgeWorkLock k col h s).1 := by
  unfold judgeWorkLock
  split
  · exact hs
  · split
    · exact hs
    · split
      · exact hs
      · split
        · exact hs
        · split
          · exact hs
          · split
            · exact grant_tableFits hs _ _ _
            · split
              · exact hs.of_only (setWaitsOf_only _ _ s) (by decide)
              · exact hs

theorem judgeLock_tableFits (hs : TableFits s) (k : Slot) (col : Byte) (x : Option Handle) :
    TableFits (judgeLock k col x s).1 := by
  unfold judgeLock
  split
  · split <;> exact hs
  · split
    · split <;> exact hs
    · split
      · exact judgeSurveyLock_tableFits hs k col
      · exact judgeWorkLock_tableFits hs k col _

theorem judgeSetDown_tableFits (hs : TableFits s) (k : Slot) (h : Handle) : TableFits (judgeSetDown k h s).1 := by
  unfold judgeSetDown
  split
  · exact hs
  · split
    · exact hs
    · split
      · split
        · exact hs
        · exact scan_tableFits (refreshStack_tableFits (endLock_tableFits (pushRecord_tableFits hs _ _) _) _) _
      · exact hs

theorem judgePickUp_tableFits (hs : TableFits s) (k : Slot) (h : Handle) : TableFits (judgePickUp k h s).1 := by
  unfold judgePickUp
  split
  · exact hs
  · split
    · exact hs
    · split
      · split
        · exact scan_tableFits (refreshStack_tableFits
            (endLock_tableFits ((popStack_tableFits hs _).retire h.idx .delivered) _) _) _
        · split
          · exact hs
          · exact strand_tableFits hs _ _ _ _
      · exact hs

theorem judgeClaim_tableFits (hs : TableFits s) (k : Slot) (tag : Tag) : TableFits (judgeClaim k tag s).1 := by
  unfold judgeClaim
  split
  · exact hs
  · next i r _ =>
    cases r.state <;> dsimp only
    case parked => exact promiseRecord_tableFits hs i k
    case promised => split <;> exact hs
    all_goals exact hs

theorem judgeYield_tableFits (hs : TableFits s) (k : Slot) (h : Handle) : TableFits (judgeYield k h s).1 := by
  unfold judgeYield
  split
  · exact hs
  · split
    · exact hs
    · split
      · split
        · split
          · exact scan_tableFits (endLock_tableFits (returnWork_tableFits hs _ _) _) _
          · exact hs
        · exact hs
      · split
        · exact dropWaiter_tableFits hs k
        · exact hs
      · split
        · exact parkRecord_tableFits hs _
        · split
          · exact hs.retire _ _
          · exact hs

theorem judgeYieldSurvey_tableFits (hs : TableFits s) (k : Slot) : TableFits (judgeYieldSurvey k s).1 := by
  unfold judgeYieldSurvey
  split
  · split
    · exact endLock_tableFits hs _
    · exact hs
  · exact hs

theorem judgeLeave_tableFits (hs : TableFits s) (k : Slot) : TableFits (judgeLeave k s).1 := by
  unfold judgeLeave
  split
  · exact hs
  · split
    · exact hs
    · exact (dropPromises_tableFits (dropWaiter_tableFits hs k) k).of_handoff rfl

/-! ### Surveys (R32, R152 to R154) -/

theorem resolveAbsentPlacement_tableFits (hs : TableFits s) (i : RecIdx) (b : Bool) :
    TableFits (resolveAbsentPlacement i b s) := by
  unfold resolveAbsentPlacement
  split
  · exact reserveRecord_tableFits hs i
  · exact hs.retire i _

theorem resolveLiftInPlace_tableFits (hs : TableFits s) (i : RecIdx) (o : Option Slot) (b : Bool) :
    TableFits (resolveLiftInPlace i o b s) := by
  unfold resolveLiftInPlace
  split
  · exact promiseRecord_tableFits hs i _
  · exact parkRecord_tableFits hs i

theorem resolution_tableFits {tags : List Tag} {f : State → State} (hs : TableFits s) (hf : resolution c tags s = some f) :
    TableFits (f s) := by
  unfold resolution at hf
  split at hf
  · cases hf
  · next h _ =>
    split at hf
    · cases hf
    · dsimp only at hf
      split at hf
      · split at hf
        · split at hf
          · cases hf; exact resolveAbsentPlacement_tableFits hs _ _
          · split at hf
            · cases hf; exact refreshStack_tableFits (pushRecord_tableFits hs _ _) _
            · cases hf
        · split at hf
          · cases hf; exact resolveLiftInPlace_tableFits hs _ _ _
          · split at hf
            · cases hf; exact refreshStack_tableFits ((popStack_tableFits hs _).retire h.idx _) _
            · cases hf
        · cases hf
      · cases hf

theorem judgeSurvey_tableFits (hs : TableFits s) (k : Slot) (col : Byte) (tags : List Tag) :
    TableFits (judgeSurvey k col tags s).1 := by
  unfold judgeSurvey
  split
  · exact hs
  · split
    · exact hs
    · split
      · exact hs
      · split
        · next hf => exact (resolution_tableFits hs hf).of_handoff rfl
        · split <;> exact hs.of_handoff rfl

/-! ### Answers and misses -/

theorem judgeRequest_tableFits (hs : TableFits s) (k : Slot) (x : Request) : TableFits (judgeRequest k x s).1 := by
  have owner : TableFits (ownerJudges k x s).1 := by
    cases x with
    | join id => unfold ownerJudges judgeJoin; dsimp only; split <;> exact hs
    | leave => exact judgeLeave_tableFits hs k
    | park tag => exact judgePark_tableFits hs k tag
    | lock col x => exact judgeLock_tableFits hs k col x
    | setDown x => exact judgeSetDown_tableFits hs k x
    | pickUp x => exact judgePickUp_tableFits hs k x
    | claim tag => exact judgeClaim_tableFits hs k tag
    | yield x => exact judgeYield_tableFits hs k x
    | yieldSurvey => exact judgeYieldSurvey_tableFits hs k
    | survey col tags => exact judgeSurvey_tableFits hs k col tags
    | bad => exact hs
  unfold judgeRequest
  split
  · exact hs
  · split
    · exact hs
    · split
      · exact hs
      · exact owner

theorem takeCondition_tableFits (hs : TableFits s) (k : Slot) : TableFits (takeCondition k s) := by
  unfold takeCondition
  split
  · split
    · exact expireLock_tableFits hs _
    · exact dropWaiter_tableFits hs k
  · exact hs

theorem takeRequest_tableFits (hs : TableFits s) (k : Slot) (x : Request) (b : Bool) : TableFits (takeRequest k x b s) := by
  have h := (judgeRequest_tableFits hs k x).of_only (setVerdict_only k (some (judgeRequest k x s).2) _) (by decide)
  unfold takeRequest
  dsimp only
  split
  · exact h
  · exact h.of_only (setMark_only k none _) (by decide)

theorem takeRegular_tableFits (hs : TableFits s) (k : Slot) (st : Status) (x : Option Request) :
    TableFits (takeRegular k st x s) := by
  have taken : TableFits (takeStatus k st s) := hs.of_only (setSlot_only k _ s) (by decide)
  have h := (takeCondition_tableFits taken k).of_only (setVerdict_only k none _) (by decide)
  unfold takeRegular
  dsimp only
  split
  · exact h
  · exact takeRequest_tableFits h k _ _

theorem takeProbe_handoff (k : Slot) (st : Status) (x : Option Request) : (takeProbe k st x s).handoff = s.handoff := by
  unfold takeProbe
  split
  · split
    · rfl
    · split <;> rfl
  · rfl

theorem takeAnswer_tableFits (hs : TableFits s) (x : Exchange) (st : Status) (o : Option Request) :
    TableFits (takeAnswer x st o s) := by
  unfold takeAnswer
  split
  · exact takeRegular_tableFits hs _ st o
  · exact hs.of_handoff (takeProbe_handoff _ st o)

theorem giveUp_tableFits (hs : TableFits s) (k : Slot) : TableFits (giveUp k s) :=
  (dropPromises_tableFits (retireAll_tableFits (dropWaiter_tableFits hs k) _ .unplaced) k).of_handoff rfl

theorem loseHoldings_tableFits (hs : TableFits s) (k : Slot) : TableFits (loseHoldings k s) := by
  cases hh : s.holding k with
  | none => rw [loseHoldings_of_none hh]; exact giveUp_tableFits hs k
  | some p => rw [loseHoldings_of_holder hh]; exact giveUp_tableFits (breakLock_tableFits hs p.1) k

theorem loseSlot_tableFits (hs : TableFits s) (k : Slot) : TableFits (loseSlot k s) :=
  ((loseHoldings_tableFits hs k).of_only (setSlot_only k _ _) (by decide)).of_only (raise_only .lost _) (by decide)

theorem missSlot_tableFits (hs : TableFits s) (k : Slot) : TableFits (missSlot k s) := by
  have counted := hs.of_only (setSlot_only k { s.slot k with miss := min 15 ((s.slot k).miss + 1) } s) (by decide)
  unfold missSlot
  dsimp only
  split
  · exact loseSlot_tableFits counted k
  · exact counted

theorem noAnswer_tableFits (hs : TableFits s) (x : Exchange) : TableFits (noAnswer x s) := by
  unfold noAnswer
  split
  · exact missSlot_tableFits hs _
  · exact hs

/-! ### The events of the line -/

theorem endReception_tableFits (hs : TableFits s) {f : Exchange → State → State} (hf : ∀ x, TableFits (f x s)) :
    TableFits (endReception f s) := by
  unfold endReception
  split
  · next x _ =>
    split
    · exact (hf x).of_only (afterExchange_only _ _) (by decide)
    · exact hs
  all_goals exact hs

theorem answered_tableFits (hs : TableFits s) (st : Status) (o : Option Request) : TableFits (answered st o s) :=
  endReception_tableFits hs fun x => takeAnswer_tableFits hs x st o

theorem receiveAnswer_tableFits (hs : TableFits s) (bytes : List Byte) (b : Bool) : TableFits (receiveAnswer bytes b s) := by
  refine endReception_tableFits hs fun x => ?_
  split
  · exact takeAnswer_tableFits hs x _ _
  · exact noAnswer_tableFits hs x

theorem expireWindow_tableFits (hs : TableFits s) : TableFits (expireWindow s) := by
  unfold expireWindow
  split
  · next x _ =>
    split
    · exact hs
    · exact ((noAnswer_tableFits hs x).of_only (afterExchange_only x.slot _) (by decide)).of_handoff rfl
  all_goals exact hs

theorem openReception_handoff : (openReception s).handoff = s.handoff := by
  unfold openReception
  split
  · split <;> rfl
  all_goals rfl

theorem endEmptyRound_handoff : (endEmptyRound s).handoff = s.handoff := by
  unfold endEmptyRound
  split
  · exact (endRound_only s).handoff (by decide)
  all_goals rfl

theorem roundDue_handoff : (roundDue s).handoff = s.handoff := by
  unfold roundDue
  split
  · exact (startRound_only s).handoff (by decide)
  · split <;> rfl
  · split <;> rfl
  · rfl

/-! ### The other events -/

theorem lowerBudget_tableFits (hs : TableFits s) (i : RecIdx) : TableFits (lowerBudget i s) := by
  unfold lowerBudget
  split
  · exact hs
  · next r hr =>
    have h := setRec_tableFits hs (q := { r with
      budget := r.budget - share r.cls s.age.band
      spent := r.spent || r.budget - share r.cls s.age.band = 0 }) hr rfl
    dsimp only
    split
    · exact h.of_only (raiseSpent_only _ _) (by decide)
    · exact h

theorem testOverdue_tableFits (hs : TableFits s) (i : RecIdx) : TableFits (testOverdue i s) := by
  unfold testOverdue
  split
  · exact hs
  · next r hr =>
    split
    · exact (setRec_tableFits hs (q := { r with overdue := true }) hr rfl).of_only (raiseOverdue_only _ _) (by decide)
    · exact hs

theorem ageEvent_tableFits (hs : TableFits s) : TableFits (ageEvent s) := by
  unfold ageEvent
  split
  · exact hs
  · exact forEach_tableFits (fun i _ hu => testOverdue_tableFits hu i) _
      (forEach_tableFits (fun i _ hu => lowerBudget_tableFits hu i) _ (hs.of_handoff rfl))

theorem mergeStep_handoff : (mergeStep s).handoff = s.handoff := by
  unfold mergeStep
  split
  · rfl
  · dsimp only; split <;> rfl

/-! ### RESTACK (R157) -/

/-- R157: the records that RESTACK makes carry the tags they are made for. -/
theorem makeFound_live {tag : Tag} {j : RecIdx} (hr : (makeFound c tag s).live j = some r) : s.live j = some r ∨ r.tag = tag := by
  unfold makeFound at hr
  split at hr
  · exact .inl hr
  · next i _ =>
    rw [live_congr ((noteUnlisted_only ..).handoff (by decide)), live_def, makeAt_entry] at hr
    split at hr
    · cases hr; exact .inr rfl
    · exact .inl hr

theorem makeFound_tableFits {tag : Tag} (hs : TableFits s) (c : Col) (h0 : tag ≠ 0) (hnew : ∀ j, ∀ q ∈ s.live j, q.tag ≠ tag) :
    TableFits (makeFound c tag s) := by
  unfold makeFound
  split
  · exact hs
  · next i hi => exact makeNoted_tableFits hs hi h0 hnew _

/-- Records made one after the other for different tags that no record carries. -/
theorem makeAllFound_tableFits {l : List Tag} (hs : TableFits s) (c : Col) (hd : l.Nodup) (h0 : (0 : Tag) ∉ l)
    (hnew : ∀ tag ∈ l, ∀ j, ∀ q ∈ s.live j, q.tag ≠ tag) : TableFits (forEach l (makeFound c) s) := by
  induction l generalizing s with
  | nil => exact hs
  | cons a l ih =>
    obtain ⟨ha, hd'⟩ := List.nodup_cons.1 hd
    rw [List.mem_cons, not_or] at h0
    refine ih (makeFound_tableFits hs c (Ne.symm h0.1) (hnew a List.mem_cons_self)) hd' h0.2 fun tag ht j q hq e => ?_
    rcases makeFound_live hq with hq | hq
    · exact hnew tag (List.mem_cons_of_mem a ht) j q hq e
    · exact ha (by rw [← hq, e]; exact ht)

theorem resolveStranded_tableFits (hs : TableFits s) (c : Col) (tags : List Tag) (s0 : State) :
    TableFits (resolveStranded c tags s0 s) := by
  unfold resolveStranded
  split
  · exact hs
  · split
    · exact hs
    · split
      · split
        · exact parkRecord_tableFits hs _
        · exact resolveAbsentPlacement_tableFits hs _ _
      · split
        · exact resolveLiftInPlace_tableFits hs _ _ _
        · exact hs.retire _ _
      · exact hs

theorem setLevel_tableFits (hs : TableFits s) (p : RecIdx × Nat) : TableFits (setLevel p s) :=
  hs.of_map (updRec_entry s p.1 · (Record.leveled p.2)) (fun _ => rfl) (updRec_counts s p.1 _)

theorem rewriteStack_tableFits (hs : TableFits s) (c : Col) (tags : List Tag) : TableFits (rewriteStack c tags s) := by
  rw [rewriteStack_eq]
  exact refreshStack_tableFits ((forEach_tableFits (fun p _ hu => setLevel_tableFits hu p) _ hs).of_only
    (setCol_only c _ _) (by decide)) c

theorem applyRestack_tableFits {tags : List Tag} (hs : TableFits s) (c : Col) (hd : tags.Nodup) (h0 : (0 : Tag) ∉ tags) :
    TableFits (applyRestack c tags s).1 := by
  have made : TableFits (forEach (s.unknownTags tags) (makeFound c) s) := by
    refine makeAllFound_tableFits hs c (hd.filter _) (fun hm => h0 (List.mem_of_mem_filter hm)) fun tag ht => ?_
    obtain ⟨hm, hnone⟩ := List.mem_filter.1 ht
    exact (tagged_eq_none.1 (Option.isNone_iff_eq_none.1 hnone)).resolve_left fun e => h0 (e ▸ hm)
  have sorted : TableFits (sortRecords c tags s) :=
    forEach_tableFits (fun i _ hu => parkRecord_tableFits hu i) _
      (retireAll_tableFits (resolveStranded_tableFits made c tags s) _ .missing)
  exact retireAll_tableFits ((rewriteStack_tableFits sorted c tags).of_only (settleColumn_only c _) (by decide)) _ .unplaced

theorem ownRestack_tableFits (hs : TableFits s) (col : Byte) (tags : List Tag) : TableFits (ownRestack col tags s).1 := by
  unfold ownRestack
  split
  · exact hs
  · next c _ =>
    split
    · exact hs
    · next hrange =>
      split
      · exact hs
      · split
        · exact hs
        · split
          · exact hs
          · split
            · exact hs
            · rw [not_or, not_or, not_not] at hrange
              obtain ⟨-, h0, hd⟩ := hrange
              exact applyRestack_tableFits hs c hd h0

/-! ### The other owners of host commands -/

theorem ownAssign_tableFits (hs : TableFits s) (idx gen slot : Byte) : TableFits (ownAssign idx gen slot s).1 := by
  unfold ownAssign
  split
  · split
    · exact hs
    · next r _ =>
      cases r.state <;> dsimp only
      case parked =>
        split
        · exact promiseRecord_tableFits hs _ _
        · exact hs
      case promised =>
        split
        · split
          · exact hs
          · exact promiseRecord_tableFits (hs.of_only (dropCollectorWait_only r _ s) (by decide)) _ _
        · exact hs
      all_goals exact hs
  · exact hs

theorem ownUnassign_tableFits (hs : TableFits s) (idx gen : Byte) : TableFits (ownUnassign idx gen s).1 := by
  unfold ownUnassign
  split
  · exact hs
  · split
    · exact hs
    · next r _ =>
      cases r.state <;> dsimp only
      case promised => exact parkRecord_tableFits (hs.of_only (dropCollectorWait_only r _ s) (by decide)) _
      all_goals exact hs

theorem ownCancel_tableFits (hs : TableFits s) (idx gen : Byte) : TableFits (ownCancel idx gen s).1 := by
  unfold ownCancel
  split
  · exact hs
  · split
    · exact hs
    · next r _ =>
      cases r.state <;> dsimp only
      case reserved => exact hs.retire _ _
      all_goals exact hs

theorem ownRebudget_tableFits (hs : TableFits s) (idx gen : Byte) (budget : BitVec 16) :
    TableFits (ownRebudget idx gen budget s).1 := by
  unfold ownRebudget
  split
  · exact hs
  · split
    · exact hs
    · next r hr => exact setRec_tableFits hs (live_of_named hr) rfl

/-- R164, R45: ZONE_CLEAR leaves no record. -/
theorem clearZone_tableFits (s : State) : TableFits (clearZone s) := by
  have hlive := clearZone_live s
  refine ⟨⟨fun i r hr => ?_, fun i j r hr => ?_⟩, ?_, List.nodup_nil, fun i => ?_⟩
  · rw [hlive] at hr; cases hr
  · rw [hlive] at hr; cases hr
  · change 64 = (allRecs.filter _).length
    simp only [hlive, Option.isNone_none, List.filter_true]
    rfl
  · rw [hlive]
    exact iff_of_false List.not_mem_nil nofun

theorem ownZoneClear_tableFits (hs : TableFits s) : TableFits (ownZoneClear s).1 := by
  unfold ownZoneClear
  split
  · exact clearZone_tableFits s
  · exact hs

/-! ### The owners that leave the handoff table alone -/

theorem ownZoneSetup_handoff (p : ZoneParams) : (ownZoneSetup p s).1.handoff = s.handoff := by
  unfold ownZoneSetup; split <;> rfl

theorem ownColumnDefine_handoff (col x y capacity classes : Byte) :
    (ownColumnDefine col x y capacity classes s).1.handoff = s.handoff := by
  unfold ownColumnDefine
  split
  · split
    · rfl
    · split <;> rfl
  · rfl

theorem ownColumnService_handoff (col state : Byte) : (ownColumnService col state s).1.handoff = s.handoff := by
  unfold ownColumnService
  split
  · next c asked _ _ =>
    cases (s.col c).service <;> dsimp only
    case opened | draining | out =>
      split
      · rfl
      · split <;> rfl
    all_goals rfl
  · rfl

theorem ownSlotMode_handoff (slot mode : Byte) : (ownSlotMode slot mode s).1.handoff = s.handoff := by
  unfold ownSlotMode; split <;> rfl

theorem ownBlockMode_handoff (mode a b : Byte) : (ownBlockMode mode a b s).1.handoff = s.handoff := by
  unfold ownBlockMode
  split
  · rfl
  · split <;> rfl
  · rfl

theorem ownClearLost_handoff (slot : Byte) : (ownClearLost slot s).1.handoff = s.handoff := by
  unfold ownClearLost
  split
  · rfl
  · split <;> rfl

theorem ownLinkStart_handoff : (ownLinkStart s).1.handoff = s.handoff := by
  unfold ownLinkStart
  split
  · exact (startRound_only _).handoff (by decide)
  · rfl
  · rfl

theorem ownLinkStop_handoff : (ownLinkStop s).1.handoff = s.handoff := by
  unfold ownLinkStop
  split
  · rfl
  · rfl
  · split <;> rfl

theorem ownAgeStart_handoff : (ownAgeStart s).1.handoff = s.handoff := by
  unfold ownAgeStart; split <;> rfl

theorem ownPageWrite_handoff (row op : Byte) (tag : Tag) (cls : Byte) (dueSpan budget orderRef : BitVec 16) (keep : Byte) :
    (ownPageWrite row op tag cls dueSpan budget orderRef keep s).1.handoff = s.handoff := by
  unfold ownPageWrite; split <;> rfl

theorem ownPageMerge_handoff (count : Byte) : (ownPageMerge count s).1.handoff = s.handoff := by
  unfold ownPageMerge
  dsimp only
  split
  · rfl
  · split <;> rfl

theorem ownManifestClear_handoff : (ownManifestClear s).1.handoff = s.handoff := by
  unfold ownManifestClear; split <;> rfl

theorem ownSurveyAsk_handoff (col slot : Byte) : (ownSurveyAsk col slot s).1.handoff = s.handoff := by
  unfold ownSurveyAsk
  split
  · split
    · rfl
    · split
      · rfl
      · split
        · rfl
        · split
          · rfl
          · exact (endSurveyLockOf_only _ _ _).handoff (by decide)
  · rfl

/-- Every owner of a host command keeps the laws of the handoff table. -/
theorem hostOwner_tableFits {x : Instr} {own : State → State × Response} (hs : TableFits s) (hx : hostOwner x = some own) :
    TableFits (own s).1 := by
  cases x <;> cases hx
  case zoneClear => exact ownZoneClear_tableFits hs
  case rebudget i g b => exact ownRebudget_tableFits hs i g b
  case assign i g b => exact ownAssign_tableFits hs i g b
  case unassign i g => exact ownUnassign_tableFits hs i g
  case cancel i g => exact ownCancel_tableFits hs i g
  case restack c tags => exact ownRestack_tableFits hs c tags
  case zoneSetup p => exact hs.of_handoff (ownZoneSetup_handoff p)
  case columnDefine c x y k m => exact hs.of_handoff (ownColumnDefine_handoff c x y k m)
  case columnService c v => exact hs.of_handoff (ownColumnService_handoff c v)
  case readColumn c => rw [ownReadColumn_state]; exact hs
  case slotMode k m => exact hs.of_handoff (ownSlotMode_handoff k m)
  case blockMode m a b => exact hs.of_handoff (ownBlockMode_handoff m a b)
  case readSlot k => rw [ownReadSlot_state]; exact hs
  case clearLost k => exact hs.of_handoff (ownClearLost_handoff k)
  case linkStart => exact hs.of_handoff ownLinkStart_handoff
  case linkStop => exact hs.of_handoff ownLinkStop_handoff
  case ageStart => exact hs.of_handoff ownAgeStart_handoff
  case pageWrite r o t c d b n k => exact hs.of_handoff (ownPageWrite_handoff r o t c d b n k)
  case pageMerge n => exact hs.of_handoff (ownPageMerge_handoff n)
  case manifestClear => exact hs.of_handoff ownManifestClear_handoff
  case readHandoff i g => rw [ownReadHandoff_state]; exact hs
  case surveyAsk c k => exact hs.of_handoff (ownSurveyAsk_handoff c k)
  case blockEndEnable | statsClear | ageStop | surveyClear | noticeAck | noticeEnable => exact hs.of_handoff rfl
  case readStats | readAge | mergeResult | manifestFind | manifestCount | findTag | freeCount | surveyRead | notices => exact hs

/-! ### The planner port and reset -/

theorem takeCommand_tableFits {x : Instr} {own : State → State × Response} (hx : hostOwner x = some own) (hs : TableFits s) :
    TableFits (takeCommand own s) := (hostOwner_tableFits hs hx).of_handoff rfl

theorem endFrame_tableFits {f : State → State} (hf : ∀ {u}, TableFits u → TableFits (f u)) (n : Nat) (hs : TableFits s) :
    TableFits (endFrame n f s) := by
  unfold endFrame
  split
  · exact hs.of_handoff rfl
  · exact hs.of_handoff rfl
  · split
    · exact hs.of_handoff rfl
    · exact hs.of_handoff rfl
    · exact hs.of_handoff rfl
    · exact hf (hs.of_handoff rfl)

theorem hostFrame_tableFits {f : State → State} (hf : ∀ {u}, TableFits u → TableFits (f u)) (n : Nat) (hs : TableFits s) :
    TableFits (hostFrame n f s) := by
  unfold hostFrame
  split
  · exact endFrame_tableFits hf _ hs
  · exact endFrame_tableFits (f := discardFrame .over) (fun hu => hu.of_handoff rfl) _ hs

theorem judgeFrame_tableFits (bytes : List Byte) (hs : TableFits s) : TableFits (judgeFrame bytes s) := by
  unfold judgeFrame
  split
  · exact hs.of_handoff rfl
  · exact hs.of_handoff rfl
  · exact hs.of_handoff rfl
  · exact hs.of_handoff rfl
  · split
    · next hx => exact takeCommand_tableFits hx hs
    · exact hs.of_handoff rfl

theorem beginFrameTooSoon_handoff : (beginFrameTooSoon s).handoff = s.handoff := by
  unfold beginFrameTooSoon
  split
  · rfl
  · rfl
  · split <;> rfl

theorem finishCommand_handoff : (finishCommand s).handoff = s.handoff := by
  unfold finishCommand; split <;> rfl

theorem raiseResetN_handoff : (raiseResetN s).handoff = s.handoff := by
  unfold raiseResetN; split <;> rfl

theorem becomeReady_handoff : (becomeReady s).handoff = s.handoff := by
  unfold becomeReady; split <;> rfl

theorem tableFits_reset : TableFits State.reset := ⟨coherent_reset.tags, coherent_reset.count, coherent_reset.order⟩

/-! ### Every command -/

/-- Every command keeps the laws of the handoff table. -/
theorem exec_tableFits (x : Instr) (hs : TableFits s) : ∃ t, exec x s = .next t ∧ TableFits t := by
  cases hx : hostOwner x with
  | some own =>
    obtain ⟨n, hn⟩ := exec_hostOwner (s := s) hx
    exact ⟨_, hn, hostFrame_tableFits (takeCommand_tableFits hx) n hs⟩
  | none =>
    cases x
    case nop filler => exact ⟨_, rfl, hostFrame_tableFits (f := takeNop) (fun hu => hu.of_handoff rfl) _ hs⟩
    case frameEnd bytes leftover => exact ⟨_, rfl, endFrame_tableFits (judgeFrame_tableFits bytes) _ hs⟩
    case frameBegunTooSoon => exact ⟨_, rfl, hs.of_handoff beginFrameTooSoon_handoff⟩
    case commandFinish => exact ⟨_, rfl, hs.of_handoff finishCommand_handoff⟩
    case reset => exact ⟨_, rfl, tableFits_reset.of_handoff rfl⟩
    case partReady => exact ⟨_, rfl, hs.of_handoff becomeReady_handoff⟩
    case resetNRise => exact ⟨_, rfl, hs.of_handoff raiseResetN_handoff⟩
    case roundPeriodDue => exact ⟨_, rfl, hs.of_handoff roundDue_handoff⟩
    case replyWindowExpiry => exact ⟨_, rfl, expireWindow_tableFits hs⟩
    case answerEnd bytes b => exact ⟨_, rfl, receiveAnswer_tableFits hs bytes b⟩
    case answerOverlength => exact ⟨_, rfl, endReception_tableFits hs (noAnswer_tableFits hs)⟩
    case emptyRoundEnd => exact ⟨_, rfl, hs.of_handoff endEmptyRound_handoff⟩
    case answerStartBit => exact ⟨_, rfl, hs.of_handoff openReception_handoff⟩
    case leaseExpiry c => exact ⟨_, rfl, expireLock_tableFits hs c⟩
    case ageEvent => exact ⟨_, rfl, ageEvent_tableFits hs⟩
    case mergeStep => exact ⟨_, rfl, hs.of_handoff mergeStep_handoff⟩
    case join | leave | park | lock | setDown | pickUp | claim | yield | yieldSurvey | survey =>
      exact ⟨_, rfl, answered_tableFits hs _ _⟩
    all_goals cases hx

/-- Settles O57: the laws are those of the handoff table alone, and every command keeps them. -/
theorem handoffTableStaysCounted : Obligations.HandoffTableStaysCounted := by
  intro s t hcount htags horder hstep
  have hs : TableFits s := ⟨htags, hcount, horder⟩
  suffices ht : TableFits t from ⟨ht.count, ht.tags, ht.order⟩
  unfold step at hstep
  split at hstep
  · cases hstep
    exact hs.of_handoff rfl
  · next x rest _ =>
    obtain ⟨u, hu, hfits⟩ := exec_tableFits x (hs.of_handoff (t := s.setPending rest) rfl)
    rw [hu] at hstep
    cases hstep
    exact hfits

end Sys2Proof.Machine
end

section
/-! Choosing a place (chapter 3): the score of a column, what PARK's owner answers, and the reservation it makes. -/

namespace Sys2Proof.Machine

open Sys2Proof.Safety

variable {s : State} {k : Slot} {st : Status} {t : Tag} {i : RecIdx} {r : Record} {c : Col} {x y d : Nat} {f : BinFacts}

/-! ### The score of a column (R54, R55) -/

/-- R54: the deadlines of the top of the stack and of the column's reservations. -/
theorem mem_refDeadlines : d ∈ s.refDeadlines c ↔
    (∃ h, s.top c = some h ∧ ∃ r ∈ s.named h, r.deadline = d) ∨
      ∃ i, ∃ r ∈ s.live i, (r.state = .reserved ∨ r.state = .placing) ∧ r.column = c ∧ r.deadline = d := by
  unfold State.refDeadlines
  rw [List.mem_append]
  refine or_congr ?_ ?_
  · simp [Option.bind_eq_some_iff]
  · simp only [List.mem_filterMap, mem_recordsWhere, Record.reserves, Option.map_eq_some_iff, Option.mem_def,
      Bool.and_eq_true, Bool.or_eq_true, decide_eq_true_eq]
    refine exists_congr fun i => ⟨?_, ?_⟩
    · rintro ⟨⟨r, hr, hs, hc⟩, q, hq, hd⟩
      cases hr.symm.trans hq
      exact ⟨r, hr, hs, hc, hd⟩
    · rintro ⟨r, hr, hs, hc, hd⟩
      exact ⟨⟨r, hr, hs, hc⟩, r, hr, hd⟩

theorem dRef_eq_none (h : ∀ d, d ∉ s.refDeadlines c) : s.dRef c = none :=
  List.min?_eq_none_iff.2 (List.eq_nil_iff_forall_not_mem.2 h)

theorem dRef_eq_some (hd : d ∈ s.refDeadlines c) (hle : ∀ e ∈ s.refDeadlines c, d ≤ e) : s.dRef c = some d :=
  List.min?_eq_some_iff.2 ⟨hd, hle⟩

theorem gap_eq (a b : Nat) : gap a b = max a b - min a b := by unfold gap; omega

theorem gap_le {a b n : Nat} (ha : a ≤ n) (hb : b ≤ n) : gap a b ≤ n := by unfold gap; omega

theorem deadlineTerm_le (n : Nat) (o : Option Nat) : deadlineTerm n o ≤ 255 := by
  unfold deadlineTerm
  split
  · omega
  · split_ifs <;> omega

theorem coldTerm_le (cls : StorageClass) (allowed : ClassSet) : coldTerm cls allowed ≤ 1 := by
  unfold coldTerm
  split_ifs <;> omega

/-- R55: the score with its distance written by the greater and the lesser of two coordinates. -/
theorem score_eq : s.score x y f c =
    s.placement.wd * ((max x (s.col c).x - min x (s.col c).x) + (max y (s.col c).y - min y (s.col c).y))
      + s.placement.wh * s.load c + s.placement.wb * deadlineTerm f.deadline (s.dRef c)
      + s.placement.wc * coldTerm f.cls (s.col c).allowed := by
  simp only [State.score, gap_eq]

/-- R53: an eligible column has room. -/
theorem load_lt_of_eligible {cls : StorageClass} (h : s.eligible cls c = true) : s.load c < (s.col c).capacity := by
  simp only [State.eligible, Bool.and_eq_true, decide_eq_true_eq] at h
  exact h.1.1.2

/-- R55: at the greatest weights, coordinates and loads the terms are 15·254, 15·5, 15·255 and 255·1. -/
theorem score_le (hwd : s.placement.wd ≤ 15) (hwh : s.placement.wh ≤ 15) (hwb : s.placement.wb ≤ 15)
    (hwc : s.placement.wc ≤ 255) (hx : x ≤ 127) (hy : y ≤ 127) (hcx : (s.col c).x ≤ 127) (hcy : (s.col c).y ≤ 127)
    (hload : s.load c ≤ 5) : s.score x y f c ≤ 7965 := by
  have hdist := Nat.mul_le_mul hwd (Nat.add_le_add (gap_le hx hcx) (gap_le hy hcy))
  have hheight := Nat.mul_le_mul hwh hload
  have hbury := Nat.mul_le_mul hwb (deadlineTerm_le f.deadline (s.dRef c))
  have hcold := Nat.mul_le_mul hwc (coldTerm_le f.cls (s.col c).allowed)
  calc s.score x y f c ≤ 15 * (127 + 127) + 15 * 5 + 15 * 255 + 255 * 1 :=
        Nat.add_le_add (Nat.add_le_add (Nat.add_le_add hdist hheight) hbury) hcold
    _ = 7965 := by norm_num

/-- Settles O51: the deadline reference is the least of its deadlines, and each term of the score has its greatest value. -/
theorem scoresFollowTheTerms : Obligations.ScoresFollowTheTerms := by
  intro s x y f c col refs distance cold score
  have hscore : ∀ b, deadlineTerm f.deadline (s.dRef c) = b → s.score x y f c = score b := by
    rintro _ rfl
    exact score_eq
  refine ⟨fun hnone => hscore 0 ?_, fun d hd hleast => hscore _ ?_, fun hwd hwh hwb hwc hx hy hcx hcy hcap hel => ?_⟩
  · rw [dRef_eq_none fun d hd => hnone d (mem_refDeadlines.1 hd)]
    rfl
  · rw [dRef_eq_some (mem_refDeadlines.2 hd) fun e he => hleast e (mem_refDeadlines.1 he)]
    rfl
  · have hroom := load_lt_of_eligible hel
    exact score_le hwd hwh hwb hwc hx hy hcx hcy (Nat.le_of_lt_succ (hroom.trans_le hcap))

/-! ### What PARK's owner answers (R47, R48) -/

theorem judgePark_zero : judgePark k 0 s = (s, .unknown) := if_pos rfl

/-- R47, R48: a tag that a live record carries is a repeat from that record's releaser, and a duplicate otherwise. -/
theorem judgePark_carried (hu : TagsUnique s) (hr : s.live i = some r) :
    judgePark k r.tag s =
      (s, if r.state = .reserved ∧ r.releaser = some k then .place r.column (s.handleAt i) else .duplicate) := by
  unfold judgePark
  rw [if_neg (hu.1 i r hr), tagged_of_live hu hr rfl]
  dsimp only
  split_ifs <;> rfl

section
variable (h0 : t ≠ 0) (hnew : ∀ j, ∀ q ∈ s.live j, q.tag ≠ t)
include h0 hnew

/-- R33, R47: a slot reserves at most one record, and a second PARK is told which. -/
theorem judgePark_oneOnly (hone : OneReservation s) (hr : s.live i = some r) (hk : r.reservedBy k = true) :
    judgePark k t s = (s, .oneOnly (s.handleAt i)) := by
  have hi : i ∈ s.recordsWhere (·.reservedBy k) := mem_recordsWhere.2 ⟨r, hr, hk⟩
  have hl : s.recordsWhere (·.reservedBy k) = [i] := by
    obtain ⟨j, hj⟩ := List.length_eq_one_iff.1 (Nat.le_antisymm (hone k) (List.length_pos_of_mem hi))
    rw [hj] at hi ⊢
    rw [List.mem_singleton.1 hi]
  unfold judgePark
  rw [if_neg h0, tagged_eq_none.2 (.inr hnew), hl]

variable (hnone : ∀ j, ∀ q ∈ s.live j, q.reservedBy k = false)
include hnone

theorem judgePark_full (hc : s.handoff.freeCount = 0) : judgePark k t s = (s, .full) := by
  unfold judgePark
  rw [if_neg h0, tagged_eq_none.2 (.inr hnew), recordsWhere_eq_nil.2 hnone]
  exact if_pos hc

/-- With a free index the answer is that of the choice of R56. -/
theorem judgePark_choose (hc : s.handoff.freeCount ≠ 0) (hi : s.firstFree = some i) :
    judgePark k t s = (s.choose (s.slot k).x (s.slot k).y (s.factsOf t).1).elim (s, .noRoom) fun c =>
      (reservePlace i k t (s.factsOf t) c s, .place c (s.handleAt i)) := by
  unfold judgePark
  rw [if_neg h0, tagged_eq_none.2 (.inr hnew), recordsWhere_eq_nil.2 hnone]
  dsimp only
  rw [if_neg hc, hi]
  dsimp only
  cases s.choose (s.slot k).x (s.slot k).y (s.factsOf t).1 <;> rfl

theorem judgePark_noRoom (hc : s.handoff.freeCount ≠ 0) (hi : s.firstFree = some i)
    (hel : ∀ c, s.eligible (s.factsOf t).1.cls c = false) : judgePark k t s = (s, .noRoom) := by
  rw [judgePark_choose h0 hnew hnone hc hi, (choose_eq_none ..).2 hel, Option.elim_none]

theorem judgePark_place (hc : s.handoff.freeCount ≠ 0) (hi : s.firstFree = some i)
    (hch : Chosen s (s.slot k).x (s.slot k).y (s.factsOf t).1 c) :
    judgePark k t s = (reservePlace i k t (s.factsOf t) c s, .place c (s.handleAt i)) := by
  rw [judgePark_choose h0 hnew hnone hc hi, (choose_eq_some ..).2 hch, Option.elim_some]

end

/-! ### PARK as a command -/

/-- A PARK that R132 lets through is judged by its owner in the state heard. -/
theorem judgeRequest_park (h : Reports s k st) (hw : ∀ d, ∀ e ∈ s.waitsOf d, e.slot ≠ k) :
    judgeRequest k (.park t) (heard k st s) = judgePark k t (heard k st s) :=
  judge_heard s h rfl fun _ => hw

/-- Settles O43: the order of checks of R47 in the state heard, whose tables are those before the answer. -/
theorem parkRefusals : Obligations.ParkRefusals := by
  intro s k st t hrep hw htags hone hcount free
  have refused : ∀ {v}, judgePark k t (heard k st s) = (heard k st s, v) → Refuses s (.park st t) k st v := fun hj =>
    refuses_of_judge s rfl hrep.1 hrep.2.2 ((judgeRequest_park hrep hw).trans hj)
  refine ⟨?_, fun i r hr ht => ?_, fun h0 hnew i r hr hst hk => ?_, fun h0 hnew hnone => ⟨fun hc => ?_, fun hc hel => ?_⟩⟩
  · rintro rfl
    exact refused judgePark_zero
  · subst ht
    have carried := judgePark_carried (s := heard k st s) (k := k) htags hr
    exact ⟨fun hst hk => refused (by rw [carried, if_pos ⟨hst, hk⟩]; rfl),
      fun hn => refused (by rw [carried, if_neg hn])⟩
  · exact refused (judgePark_oneOnly (s := heard k st s) h0 hnew hone hr
      (Record.reservedBy_iff.2 ⟨by simpa [Record.reserves] using hst, hk⟩))
  · exact refused (judgePark_full (s := heard k st s) h0 hnew hnone hc)
  · obtain ⟨i, hi⟩ := firstFree_of_count hcount (Nat.pos_of_ne_zero hc)
    exact refused (judgePark_noRoom (s := heard k st s) h0 hnew hnone hc hi hel)

/-! ### The reservation of the best place (R51, R52, R56) -/

/-- R56: of the eligible columns exactly one is chosen. -/
theorem existsUnique_chosen (h : ∃ d, s.eligible f.cls d = true) : ∃! d, Chosen s x y f d := by
  obtain ⟨d, hd⟩ := h
  cases hc : s.choose x y f with
  | none => exact absurd ((choose_eq_none ..).1 hc d) (by simp [hd])
  | some c =>
    exact ⟨c, (choose_eq_some ..).1 hc, fun e he => Option.some.inj (((choose_eq_some ..).2 he).symm.trans hc)⟩

theorem deadlineAfter_eq (clock span : Nat) : deadlineAfter clock span =
    if span = 65535 then 4294967295 else if 4294967294 < clock + span then 4294967294 else clock + span := by
  rw [deadlineAfter, min_comm, min_eq_ite]

/-- R51, R52: the facts of a bin that the map lists, or of one that it does not. -/
theorem factsOf_eq (h : s.manifest.find t = some f ∨ (s.manifest.find t = none ∧
      f = ⟨t, s.placement.defaultClass, deadlineAfter s.age.clock s.placement.defaultDueSpan,
        s.placement.defaultBudget, 0, false⟩)) : s.factsOf t = (f, (s.manifest.find t).isNone) := by
  unfold State.factsOf
  rcases h with h | ⟨h, rfl⟩ <;> rw [h] <;> rfl

theorem freeCount_ne_zero (hcount : FreeCounted s) (hi : s.live i = none) : s.handoff.freeCount ≠ 0 := by
  rw [hcount]
  exact (List.length_pos_of_mem (List.mem_filter.2 ⟨mem_allRecs i, by simp [hi]⟩)).ne'

theorem reservePlace_only (g : BinFacts × Bool) : OnlyChanges [.handoff, .notice] s (reservePlace i k t g c s) :=
  ((makeAt_only ..).mono (by decide)).trans ((noteUnlisted_only ..).mono (by decide))

theorem reservePlace_entry (g : BinFacts × Bool) (j : RecIdx) : (reservePlace i k t g c s).entry j =
    if i = j then { s.entry j with live := some (newRecord t g .reserved (some k) c none false), last := none }
    else s.entry j := by
  rw [reservePlace, noteUnlisted_entry, makeAt_entry]

theorem reservePlace_counts (g : BinFacts × Bool) :
    (reservePlace i k t g c s).handoff.freeCount = s.handoff.freeCount - 1 ∧
      (reservePlace i k t g c s).handoff.order = s.handoff.order ++ [i] := by
  rw [reservePlace, noteUnlisted_handoff]
  exact makeAt_counts ..

/-- R52: UNLISTED is raised with the new record's handle when the facts are the defaults. -/
theorem reservePlace_notice (g : BinFacts × Bool) : (reservePlace i k t g c s).notice =
    if g.2 then afterRaising 6 { s.notice with unlisted := some (s.notice.unlisted.getD (s.handleAt i)) }
    else s.notice := by
  have hat : (makeAt i (newRecord t g .reserved (some k) c none false) s).handleAt i = s.handleAt i := by
    simp [State.handleAt, makeAt_entry]
  unfold reservePlace noteUnlisted
  split
  · rw [raiseUnlisted_notice, hat, makeAt_notice]
  · exact makeAt_notice ..

/-- Settles O42: the choice of R56 in the state heard, whose slot record holds the position of the same answer, and the
reservation made at the lowest free index. -/
theorem parkReservesBestPlace : Obligations.ParkReservesBestPlace := by
  intro s k st t i c f hrep hw hcount h0 hnew hnone hi hlow hfacts x y
  rw [← deadlineAfter_eq] at hfacts
  refine ⟨existsUnique_chosen, fun hch => ?_⟩
  have hg : (heard k st s).factsOf t = (f, (s.manifest.find t).isNone) := factsOf_eq hfacts
  have hpos : ((heard k st s).slot k).x = x ∧ ((heard k st s).slot k).y = y := by
    rw [heard_slot_self]
    exact ⟨rfl, rfl⟩
  have hj : judgePark k t (heard k st s) = (reservePlace i k t (f, (s.manifest.find t).isNone) c (heard k st s),
      .place c (s.handleAt i)) := by
    rw [← hg]
    refine judgePark_place (s := heard k st s) h0 hnew hnone (freeCount_ne_zero hcount hi)
      (firstFree_some_iff.2 ⟨hi, hlow⟩) ?_
    rw [hpos.1, hpos.2, hg]
    exact hch
  have ho := reservePlace_only (s := heard k st s) (i := i) (k := k) (t := t) (c := c) (f, (s.manifest.find t).isNone)
  have hlock := ho.lock (by decide)
  refine takes_of_judge s rfl hrep.1 hrep.2.2 ((judgeRequest_park hrep hw).trans hj) (ho.mono (by decide))
    (ho.line (by decide)) (mark_congr hlock) (by rw [hlock]; exact ⟨rfl, rfl, rfl⟩) ⟨fun d => ?_, fun j hj => ?_, ?_, ?_⟩
  · simp [lockOf_congr hlock, waitsOf_congr hlock]
  · simp [reservePlace_entry, hj.symm]
  · simp [reservePlace_entry, newRecord]
  · obtain ⟨hfree, horder⟩ := reservePlace_counts (s := heard k st s) (i := i) (k := k) (t := t) (c := c)
      (f, (s.manifest.find t).isNone)
    simp only [setMark_handoff, setVerdict_handoff, setMark_notice, setVerdict_notice]
    exact ⟨hfree, horder, reservePlace_notice _⟩

end Sys2Proof.Machine
end

section
/-! LOCK (R62 to R67): what its owner answers in each case of its order of checks, and the command as a whole. -/

namespace Sys2Proof.Machine

open Sys2Proof Sys2Proof.Safety

variable {s : State} {k : Slot} {st : Status} {col : Byte} {c : Col} {o : Option Handle} {h : Handle} {r : Record}
  {w : Work} {l : Lock} {e : WaitEntry} {n : Nat}

/-! ### The position of the slot decides first (R62 checks 2 and 3, R64) -/

theorem judgeLock_waiter (hone : OnePosition s) (he : (s.waitsOf c)[n]? = some e) (hk : e.slot = k) :
    judgeLock k col o s =
      (s, if col.toNat = c.val ∧ o = some e.handle then .queued c (n + 1) else .busy) := by
  unfold judgeLock
  rw [waiting_of_waitsOf hone he hk]
  dsimp only
  split_ifs <;> rfl

theorem judgeLock_holder (hone : OnePosition s) (hl : s.lockOf c = some l) (hk : l.holder = k) :
    judgeLock k col o s =
      (s, if col.toNat = c.val ∧ o = l.hold.handle then .granted c l.hold (l.remaining s.now) else .busy) := by
  unfold judgeLock
  rw [waiting_of_holder hone hl hk, holding_of_lockOf hone hl hk]
  simp only [Lock.repeats, decide_eq_true_eq, eq_comm (a := o)]
  split_ifs <;> rfl

theorem judgeLock_free (hk : k ∉ positions s) :
    judgeLock k col o s = o.elim (judgeSurveyLock k col s) (judgeWorkLock k col · s) := by
  unfold judgeLock
  rw [waiting_none_of_not_mem hk, holding_none_of_not_mem hk]
  cases o <;> rfl

/-! ### SURVEY (R65) -/

theorem judgeSurveyLock_outOfRange (hcol : 15 < col.toNat) : judgeSurveyLock k col s = (s, .notYours) := by
  rw [judgeSurveyLock, readCol_none hcol]

theorem judgeSurveyLock_eq (hcol : col.toNat = c.val) :
    judgeSurveyLock k col s = if (s.col c).service = .suspect ∧ s.surveyor c = some k then
      (grant c k .survey s, .granted c .survey s.lock.surveyLimit) else (s, .notYours) := by
  rw [judgeSurveyLock, readCol_eq hcol]

/-! ### PLACE and LIFT (R62 checks 5 to 11, R63, R66, R67) -/

theorem judgeWorkLock_outOfRange (hcol : 15 < col.toNat) : judgeWorkLock k col h s = (s, .shut) := by
  rw [judgeWorkLock, readCol_none hcol]

theorem judgeWorkLock_shut (hcol : col.toNat = c.val) (hin : ¬ inService s c) : judgeWorkLock k col h s = (s, .shut) := by
  rw [judgeWorkLock, readCol_eq hcol]
  exact if_pos (not_or.1 hin)

theorem fits_eq_none (hp : ¬ (r.column = c ∧ Awaits k .place r)) (hl : ¬ (r.column = c ∧ Awaits k .lift r)) :
    r.fits k c = none := by
  rw [← fits_eq_some] at hp hl
  match hf : r.fits k c with
  | none => rfl
  | some .place => exact absurd hf hp
  | some .lift => exact absurd hf hl

section
variable (hcol : col.toNat = c.val) (hin : inService s c)
include hcol hin

theorem judgeWorkLock_stale (hr : s.named h = none) : judgeWorkLock k col h s = (s, .stale) := by
  rw [judgeWorkLock, readCol_eq hcol]
  dsimp only
  rw [if_neg (not_and_or.2 (hin.imp not_not.2 not_not.2)), hr]

theorem judgeWorkLock_unfit (hr : s.named h = some r) (hf : r.fits k c = none) :
    judgeWorkLock k col h s = (s, .notYours) := by
  rw [judgeWorkLock, readCol_eq hcol]
  dsimp only
  rw [if_neg (not_and_or.2 (hin.imp not_not.2 not_not.2)), hr]
  dsimp only
  rw [hf]

/-- Checks 9 to 11 of R62, for a record that fits the request. -/
theorem judgeWorkLock_fit (hr : s.named h = some r) (hf : r.fits k c = some w) :
    judgeWorkLock k col h s =
      if w = .lift ∧ 0 < (s.depth r).getD 0 then (s, .buried ((s.depth r).getD 0))
      else if s.lockOf c = none then (grant c k (.work w h) s, .granted c (.work w h) (s.lock.limitOf (.work w h)))
      else if (s.waitsOf c).length < 4 then
        (s.setWaitsOf c (s.waitsOf c ++ [⟨k, w, h⟩]), .queued c ((s.waitsOf c).length + 1))
      else (s, .queueFull) := by
  rw [judgeWorkLock, readCol_eq hcol]
  dsimp only
  rw [if_neg (not_and_or.2 (hin.imp not_not.2 not_not.2)), hr]
  dsimp only
  rw [hf]
  dsimp only
  cases s.lockOf c <;> rfl

end

/-! ### LOCK as a command -/

/-- A LOCK from a slot that is not QUIET is judged by the lock unit in the state heard. -/
theorem judgeRequest_lock (hrep : Reports s k st) :
    judgeRequest k (.lock col o) (heard k st s) = judgeLock k col o (heard k st s) :=
  judge_heard s hrep rfl nofun

theorem refuses_lock (hrep : Reports s k st) {v : Verdict} (hj : judgeLock k col o (heard k st s) = (heard k st s, v)) :
    Refuses s (.lock st col o) k st v :=
  refuses_of_judge s rfl hrep.1 hrep.2.2 ((judgeRequest_lock hrep).trans hj)

/-- R66: a LOCK that is granted: the slot becomes holder with a fresh lease, and a grant for work changes its record. -/
theorem takes_granted (hrep : Reports s k st) {x : Hold} {ps : List Part}
    (hj : judgeLock k col o (heard k st s) = (grant c k x (heard k st s), .granted c x (s.lock.limitOf x)))
    (ho : OnlyChanges (.lock :: ps) (heard k st s) (grant c k x (heard k st s))) :
    Takes s (.lock st col o) k st (.granted c x (s.lock.limitOf x)) ps fun u =>
      (u.lockOf c = some ⟨k, x, s.lock.limitOf x, s.now⟩ ∧ u.waitsOf c = s.waitsOf c ∧ SameLocksBut c s u) ∧
        u.handoff = (grant c k x (heard k st s)).handoff := by
  refine takes_of_judge s rfl hrep.1 hrep.2.2 ((judgeRequest_lock hrep).trans hj) ho (grant_line ..)
    (fun j => grant_mark ..) ?_ ⟨⟨?_, ?_, fun d hd => ⟨?_, ?_⟩⟩, rfl⟩
  · rw [grant_limits]
    exact ⟨rfl, rfl, rfl⟩
  · simp [grant_lockOf]
  · simp [grant_waitsOf]
  · simp [grant_lockOf, hd.symm]
  · simp [grant_waitsOf]

/-- R67: a LOCK that is queued: the slot's entry joins the end of the wait list. -/
theorem takes_queued (hrep : Reports s k st) {e : WaitEntry} {v : Verdict}
    (hj : judgeLock k col o (heard k st s) = ((heard k st s).setWaitsOf c (s.waitsOf c ++ [e]), v)) :
    Takes s (.lock st col o) k st v [] fun u =>
      u.waitsOf c = s.waitsOf c ++ [e] ∧ u.lockOf c = s.lockOf c ∧ SameLocksBut c s u := by
  refine takes_of_judge s rfl hrep.1 hrep.2.2 ((judgeRequest_lock hrep).trans hj) (setWaitsOf_only ..) rfl
    (fun _ => rfl) ⟨rfl, rfl, rfl⟩ ⟨?_, rfl, fun d hd => ⟨rfl, ?_⟩⟩
  · simp
  · simp [hd]

/-- R66, R67: a LOCK for work whose record fits and can be reached: granted on a free lock, and queued behind a held one while
the wait list has room. -/
theorem lock_fitting (hrep : Reports s k st) (hk : k ∉ positions s) (hcol : col.toNat = c.val) (hin : inService s c)
    (hr : s.named h = some r) (hf : r.fits k c = some w) (hreach : ¬ (w = .lift ∧ 0 < (s.depth r).getD 0)) :
    (s.lockOf c = none →
      Takes s (.lock st col (some h)) k st (.granted c (.work w h) (s.lock.limitOf (.work w h))) [.handoff] fun u =>
        (u.lockOf c = some ⟨k, .work w h, s.lock.limitOf (.work w h), s.now⟩ ∧ u.waitsOf c = s.waitsOf c ∧
          SameLocksBut c s u) ∧ SameEntriesBut h.idx s u ∧ SameCounts s u ∧
        u.entry h.idx = { s.entry h.idx with live := some (r.granted w) }) ∧
      ((s.lockOf c).isSome → (s.waitsOf c).length < 4 →
        Takes s (.lock st col (some h)) k st (.queued c ((s.waitsOf c).length + 1)) [] fun u =>
          u.waitsOf c = s.waitsOf c ++ [⟨k, w, h⟩] ∧ u.lockOf c = s.lockOf c ∧ SameLocksBut c s u) ∧
      ((s.lockOf c).isSome → 4 ≤ (s.waitsOf c).length → Refuses s (.lock st col (some h)) k st .queueFull) := by
  have hj := (judgeLock_free (s := heard k st s) (o := some h) hk).trans
    ((judgeWorkLock_fit (s := heard k st s) hcol hin hr hf).trans (if_neg hreach))
  refine ⟨fun hl => ?_, fun hl hlen => ?_, fun hl hlen => ?_⟩
  · obtain ⟨u, t, he, hgo, ha, ho, hlocks, hhand⟩ := 
      takes_granted (ps := [.handoff]) hrep (hj.trans (if_pos hl)) ((grant_only ..).mono (by decide))
    have hentry : ∀ j, u.entry j = if h.idx = j then { s.entry j with live := (s.live j).map (Record.granted w) }
        else s.entry j := fun j => (entry_congr hhand j).trans (grant_entry (heard k st s) c k w h j)
    refine ⟨u, t, he, hgo, ha, ho, hlocks, fun j hne => ?_, ?_, ?_⟩
    · rw [hentry, if_neg hne.symm]
    · rw [SameCounts, hhand]
      exact grant_counts (heard k st s) c k (.work w h)
    · rw [hentry, if_pos rfl, live_of_named hr, Option.map_some]
  · have hheld : (heard k st s).lockOf c ≠ none := Option.isSome_iff_ne_none.1 hl
    exact takes_queued hrep (hj.trans ((if_neg hheld).trans (if_pos hlen)))
  · have hheld : (heard k st s).lockOf c ≠ none := Option.isSome_iff_ne_none.1 hl
    exact refuses_lock hrep (hj.trans ((if_neg hheld).trans (if_neg (Nat.not_lt.2 hlen))))

/-- Settles O44: the slot's position first, and then the checks of SURVEY or of work, each in the state heard. -/
theorem lockJudged : Obligations.LockJudged := by
  intro s k st col o hrep hone cmd granted
  refine ⟨fun c n e he hk => refuses_lock hrep (judgeLock_waiter (s := heard k st s) hone he hk),
    fun c l hl hk => refuses_lock hrep (judgeLock_holder (s := heard k st s) hone hl hk), fun hk => ⟨?_, ?_⟩⟩
  · rintro rfl
    have free := judgeLock_free (s := heard k st s) (col := col) (o := none) hk
    refine ⟨fun hcol => refuses_lock hrep (free.trans (judgeSurveyLock_outOfRange hcol)),
      fun c hcol => ⟨fun hno => ?_, fun hx hv => ?_⟩⟩
    · exact refuses_lock hrep (free.trans ((judgeSurveyLock_eq hcol).trans (if_neg (not_and_or.2 hno))))
    · obtain ⟨u, t, he, hgo, ha, ho, hlocks, -⟩ := takes_granted hrep
        (free.trans ((judgeSurveyLock_eq hcol).trans (if_pos ⟨hx, hv⟩))) (setLockOf_only ..)
      exact ⟨u, t, he, hgo, ha, ho, hlocks⟩
  · rintro h rfl
    have free := judgeLock_free (s := heard k st s) (col := col) (o := some h) hk
    refine ⟨fun hcol => refuses_lock hrep (free.trans (judgeWorkLock_outOfRange hcol)), fun c hcol =>
      ⟨fun hin => refuses_lock hrep (free.trans (judgeWorkLock_shut hcol hin)),
        fun hin hr => refuses_lock hrep (free.trans (judgeWorkLock_stale hcol hin hr)), fun hin r hr => ?_⟩⟩
    intro place lift depth
    refine ⟨fun hp hl => ?_, fun hl hd => ?_, ?_⟩
    · exact refuses_lock hrep (free.trans (judgeWorkLock_unfit (s := heard k st s) hcol hin hr (fits_eq_none hp hl)))
    · have hf : r.fits k c = some .lift := fits_eq_some.2 hl
      exact refuses_lock hrep
        (free.trans ((judgeWorkLock_fit (s := heard k st s) hcol hin hr hf).trans (if_pos ⟨rfl, hd⟩)))
    · rintro (hp | ⟨hl, hd⟩)
      · rw [if_pos hp.2.1, if_pos hp.2.1, if_pos hp.2.1]
        exact lock_fitting hrep hk hcol hin hr (fits_eq_some.2 hp) (by simp)
      · have hne : r.state ≠ .reserved := by simp [hl.2.1]
        rw [if_neg hne, if_neg hne, if_neg hne]
        exact lock_fitting hrep hk hcol hin hr (fits_eq_some.2 hl) fun hb => hb.2.ne' hd

end Sys2Proof.Machine
end

section
/-! FAULT and the expiry of a lease (R74 to R78, R130): the end of a lock without a completion report, and an answer that
reports FAULT as that end followed by the taking of a sound answer. -/

namespace Sys2Proof.Machine

open Sys2Proof Sys2Proof.Safety

variable {s u v : State} {k j : Slot} {st : Status} {c d : Col} {h : Handle} {r : Record} {w : Work} {l : Lock} {q : Request}

/-! ### The expiry of a lease, by what the lock is held for -/

theorem expireLock_of_free (hl : s.lockOf c = none) : expireLock c s = s := by rw [expireLock, hl]

theorem expireLock_of_survey (hl : s.lockOf c = some l) (hw : l.hold = .survey) :
    expireLock c s = (s.setLockOf c none).setMark l.holder (some c) := by
  simp only [expireLock, breakLock, hl, hw, endLock]

theorem expireLock_of_work (hl : s.lockOf c = some l) (hw : l.hold = .work w h) :
    expireLock c s = (strand c l.holder w h s).setMark l.holder (some c) := by
  simp only [expireLock, breakLock, hl, hw]

theorem expireLock_mark (hl : s.lockOf c = some l) : (expireLock c s).mark l.holder = some c := by
  simp only [expireLock, hl, setMark_mark_self]

theorem expireLock_lockOf (c d : Col) : (expireLock c s).lockOf d = if c = d then none else s.lockOf d := by
  cases hl : s.lockOf c with
  | none =>
    rw [expireLock_of_free hl]
    split
    · next e => rw [← e, hl]
    · rfl
  | some l =>
    rw [expireLock, hl]
    exact breakLock_unlocks c d

theorem expireLock_waits_sublist (c d : Col) : ((expireLock c s).waitsOf d).Sublist (s.waitsOf d) := by
  cases hl : s.lockOf c with
  | none => rw [expireLock_of_free hl]
  | some l =>
    cases hw : l.hold with
    | survey => rw [expireLock_of_survey hl hw]; exact List.Sublist.refl _
    | work w h =>
      rw [expireLock_of_work hl hw, setMark_waitsOf, strand_waitsOf]
      split
      · exact List.nil_sublist _
      · exact List.Sublist.refl _

/-- R60, R5: a lock held for work names a record of its column, which is in service, and the record is not buried. -/
theorem work_of_lock (hs : Coherent s) (hl : s.lockOf c = some l) (hw : l.hold = .work w h) :
    inService s c ∧ ∃ r, s.named h = some r ∧ r.buried = false := by
  obtain ⟨hin, r, hr, -, hst⟩ := (hs.locks c l hl).1 h (by rw [hw]; rfl)
  refine ⟨hin, r, hr, (hs.buried h.idx r (live_of_named hr)).trans ?_⟩
  rcases hst with ⟨e, -⟩ | ⟨e, -⟩ <;> simp [State.isBuried, e]

/-- R147, R9: what a lock held for work leaves when it ends without a completion report. -/
theorem strand_strandedIn (hs : Coherent s) (hl : s.lockOf c = some l) (hw : l.hold = .work w h) (hr : s.named h = some r) :
    StrandedIn s (strand c l.holder w h s) c l w h r := by
  obtain ⟨hin, r', hr', hb⟩ := work_of_lock hs hl hw
  cases hr.symm.trans hr'
  refine ⟨⟨?_, ?_⟩, fun d hd => ⟨?_, ?_⟩, ?_, fun d hd => ?_, ?_, fun j hj => ?_, strand_counts ..⟩
  · rw [strand_lockOf, if_pos rfl]
  · rw [strand_waitsOf, if_pos rfl]
  · rw [strand_lockOf, if_neg hd.symm]
  · rw [strand_waitsOf, if_neg hd.symm]
  · rw [strand_col, if_pos rfl]
    rcases hin with e | e <;> simp [Column.presentAsPrior, e]
  · rw [strand_col, if_neg hd.symm]
  · rw [strand_entry, if_pos rfl, live_of_named hr, Option.map_some, ← hb]
    cases w <;> rfl
  · rw [strand_entry, if_neg hj.symm]

/-- R74: the expiry of a lease held for work. -/
theorem expireLock_strandedIn (hs : Coherent s) (hl : s.lockOf c = some l) (hw : l.hold = .work w h) :
    ∃ r, s.named h = some r ∧ StrandedIn s (expireLock c s) c l w h r ∧
      (expireLock c s).notice = afterRaising 1 s.notice := by
  obtain ⟨-, r, hr, -⟩ := work_of_lock hs hl hw
  rw [expireLock_of_work hl hw]
  obtain ⟨hlock, hlocks, hcol, hcols, hrec, hrecs, hcounts⟩ := strand_strandedIn hs hl hw hr
  exact ⟨r, hr, ⟨hlock, hlocks, hcol, hcols, hrec, hrecs, hcounts⟩, strand_notice s c _ w h⟩

theorem expireLock_mark_ne (hl : s.lockOf c = some l) (hj : j ≠ l.holder) : (expireLock c s).mark j = s.mark j := by
  cases hw : l.hold with
  | survey => rw [expireLock_of_survey hl hw, setMark_mark_ne _ hj]; rfl
  | work w h => rw [expireLock_of_work hl hw, setMark_mark_ne _ hj, strand_mark]

/-! ### The slot record of the answer (R118 stages 1 to 3) -/

theorem updRec_setSlot (i : RecIdx) (f : Record → Record) (x : SlotRec) :
    updRec i f (s.setSlot k x) = (updRec i f s).setSlot k x := by
  unfold updRec
  rw [setSlot_live]
  split <;> rfl

theorem robotId_setSlot {x : SlotRec} (hx : x.robotId = (s.slot k).robotId) (j : Slot) :
    ((s.setSlot k x).slot j).robotId = (s.slot j).robotId := by
  rw [setSlot_slot_if]
  split
  · next e => rw [hx, e]
  · rfl

theorem strand_setSlot {x : SlotRec} (hx : x.robotId = (s.slot k).robotId) :
    strand c j w h (s.setSlot k x) = (strand c j w h s).setSlot k x := by
  have hend : endLock c (s.setSlot k x) = (endLock c s).setSlot k x := rfl
  have hid := robotId_setSlot (s := updRec h.idx (fun r => { r with
    state := .stranded, strandedFrom := some w.strandedFrom, buried := false }) (endLock c s)) (x := x) (k := k)
    (by simpa using hx) j
  simp only [strand, hend, updRec_setSlot, hid]
  rfl

/-- The end of a lock reads no more of a slot record than its robot id. -/
theorem expireLock_setSlot {x : SlotRec} (hx : x.robotId = (s.slot k).robotId) :
    expireLock c (s.setSlot k x) = (expireLock c s).setSlot k x := by
  cases hl : s.lockOf c with
  | none => rw [expireLock_of_free hl, expireLock_of_free (s := s.setSlot k x) hl]
  | some l =>
    have hl' : (s.setSlot k x).lockOf c = some l := hl
    cases hw : l.hold with
    | survey => rw [expireLock_of_survey hl hw, expireLock_of_survey hl' hw]; rfl
    | work w h => rw [expireLock_of_work hl hw, expireLock_of_work hl' hw, strand_setSlot hx]; rfl

/-- R76, R77: what the condition FAULT of a slot's answer does to its lock or its wait place. -/
def fault (k : Slot) (s : State) : State :=
  match s.holding k with
  | some (c, _) => expireLock c s
  | none => s.dropWaiter k

theorem fault_holder (hone : OnePosition s) (hl : s.lockOf c = some l) (hk : l.holder = k) : fault k s = expireLock c s := by
  rw [fault, holding_of_lockOf hone hl hk]

theorem fault_free (hk : ∀ c, ∀ l ∈ s.lockOf c, l.holder ≠ k) : fault k s = s.dropWaiter k := by
  rw [fault, holding_eq_none.2 hk]

theorem fault_only (k : Slot) (s : State) : OnlyChanges [.notice, .columns, .handoff, .lock] s (fault k s) := by
  unfold fault
  split
  · exact expireLock_only ..
  · exact (s.dropWaiter_only k).mono (by decide)

theorem fault_setSlot {x : SlotRec} (hx : x.robotId = (s.slot k).robotId) :
    fault k (s.setSlot k x) = (fault k s).setSlot k x := by
  have hh : (s.setSlot k x).holding k = s.holding k := rfl
  unfold fault
  rw [hh]
  split
  · exact expireLock_setSlot hx
  · rfl

theorem cond_of_fault (h0 : st.cond ≠ 0) (h1 : st.cond ≠ 1) : ((takeStatus k st s).slot k).cond = .fault := by
  rw [takeStatus, setSlot_slot_self]
  exact (readCondition_eq st.cond).trans ((if_neg h0).trans (if_neg h1))

/-- R118 stages 1 to 4 of an answer that reports FAULT: the end of the slot's lock or wait place, and its status. -/
theorem takeCondition_fault (h0 : st.cond ≠ 0) (h1 : st.cond ≠ 1) :
    setVerdict k none (takeCondition k (takeStatus k st s)) = heard k st (fault k s) := by
  have hslot : (fault k s).slot k = s.slot k := slot_congr ((fault_only k s).line (by decide)) k
  have hcond : takeCondition k (takeStatus k st s) = fault k (takeStatus k st s) := if_pos (cond_of_fault h0 h1)
  have hcomm : fault k (takeStatus k st s) = takeStatus k st (fault k s) :=
    (fault_setSlot (x := { (s.slot k).withStatus st with miss := 0 }) rfl).trans
    (congrArg (fun x : SlotRec => (fault k s).setSlot k { x.withStatus st with miss := 0 }) hslot.symm)
  rw [hcond, hcomm, takeStatus_eq]

/-- R78: an answer that reports FAULT with a request: the mark stays if it was set for a lock of the slot. -/
theorem takeRegular_fault (h0 : st.cond ≠ 0) (h1 : st.cond ≠ 1) (q : Request) :
    takeRegular k st (some q) s = takeRequest k q (s.holding k).isSome (heard k st (fault k s)) := by
  have hmark : (takeStatus k st s).faultsHolder k = (s.holding k).isSome := by
    rw [State.faultsHolder, cond_of_fault h0 h1]
    rfl
  unfold takeRegular
  simp only [takeCondition_fault h0 h1, hmark]

/-! ### What a judgment leaves of the line controller and the expired marks -/

theorem scan_mark (c : Col) (j : Slot) (s : State) : (scan c s).mark j = s.mark j := by
  cases hf : (s.waitsOf c).find? (s.possible c) with
  | none => rw [scan_none s hf]
  | some e => rw [scan_some s hf, grant_mark, setWaitsOf_mark]

theorem judgeLock_mark (k : Slot) (col : Byte) (o : Option Handle) (j : Slot) : (judgeLock k col o s).1.mark j = s.mark j := by
  unfold judgeLock judgeSurveyLock judgeWorkLock
  split
  · split <;> rfl
  · split
    · split <;> rfl
    · split
      · split
        · rfl
        · split
          · exact grant_mark ..
          · rfl
      · split
        · rfl
        · split
          · rfl
          · split
            · rfl
            · split
              · rfl
              · split
                · rfl
                · split
                  · exact grant_mark ..
                  · split <;> rfl

theorem judgePark_mark (k : Slot) (tag : Tag) (j : Slot) : (judgePark k tag s).1.mark j = s.mark j := by
  unfold judgePark
  split
  · rfl
  · split
    · split <;> rfl
    · split
      · rfl
      · split
        · rfl
        · split
          · rfl
          · dsimp only
            split
            · rfl
            · exact mark_congr ((reservePlace_only _).lock (by decide)) j

theorem judgeSetDown_mark (k : Slot) (h : Handle) (j : Slot) : (judgeSetDown k h s).1.mark j = s.mark j := by
  unfold judgeSetDown
  split
  · rfl
  · split
    · rfl
    · split
      · split
        · rfl
        · simp [acceptSetDown, scan_mark]
      · rfl

theorem judgePickUp_mark (k : Slot) (h : Handle) (j : Slot) : (judgePickUp k h s).1.mark j = s.mark j := by
  unfold judgePickUp
  split
  · rfl
  · split
    · rfl
    · split
      · split
        · simp [acceptPickUp, scan_mark, retire_mark]
        · split
          · rfl
          · exact strand_mark ..
      · rfl

theorem judgeClaim_mark (k : Slot) (tag : Tag) (j : Slot) : (judgeClaim k tag s).1.mark j = s.mark j := by
  unfold judgeClaim
  split
  · rfl
  · split
    · split <;> rfl
    all_goals simp

theorem judgeYield_mark (k : Slot) (h : Handle) (j : Slot) : (judgeYield k h s).1.mark j = s.mark j := by
  unfold judgeYield
  split
  · rfl
  · split
    · rfl
    · split
      · split
        · split
          · simp [scan_mark]
          · rfl
        · rfl
      · split
        · exact dropWaiter_mark ..
        · rfl
      · split
        · exact parkRecord_mark ..
        · split
          · exact retire_mark ..
          · rfl

theorem judgeYieldSurvey_mark (k j : Slot) : (judgeYieldSurvey k s).1.mark j = s.mark j := by
  unfold judgeYieldSurvey
  split
  · split <;> rfl
  · rfl

/-- R152: the resolution of a stranded record leaves the expired marks. -/
theorem resolution_mark {tags : List Tag} {f : State → State} (hf : resolution c tags s = some f) (j : Slot) :
    (f u).mark j = u.mark j := by
  unfold resolution at hf
  split at hf
  · cases hf
  · split at hf
    · cases hf
    · dsimp only at hf
      split at hf
      · split at hf
        · split at hf
          · cases hf
            unfold resolveAbsentPlacement
            split
            · exact reserveRecord_mark ..
            · exact retire_mark ..
          · split at hf
            · cases hf; simp
            · cases hf
        · split at hf
          · cases hf
            unfold resolveLiftInPlace
            split <;> simp
          · split at hf
            · cases hf; simp [resolveLiftGone, retire_mark]
            · cases hf
        · cases hf
      · cases hf

theorem judgeSurvey_mark (k : Slot) (col : Byte) (tags : List Tag) (j : Slot) :
    (judgeSurvey k col tags s).1.mark j = s.mark j := by
  unfold judgeSurvey
  split
  · rfl
  · split
    · rfl
    · split
      · rfl
      · split
        · next f hf => exact (show _ = (f s).mark j from rfl).trans (resolution_mark hf j)
        · split <;> rfl

/-- A judgment leaves the line controller and the expired marks, unless it is that of a LEAVE that is accepted. -/
theorem judgeRequest_cases (k : Slot) (q : Request) (s : State) :
    ((judgeRequest k q s).1.line = s.line ∧ ∀ j, (judgeRequest k q s).1.mark j = s.mark j) ∨
      (judgeRequest k q s).1 = acceptLeave k s := by
  unfold judgeRequest
  split
  · exact .inl ⟨rfl, fun _ => rfl⟩
  · split
    · exact .inl ⟨rfl, fun _ => rfl⟩
    · split
      · exact .inl ⟨rfl, fun _ => rfl⟩
      · cases q with
        | join id => exact .inl ⟨judgeJoin_line k id, fun j => by simp only [ownerJudges, judgeJoin]; split <;> rfl⟩
        | leave =>
          simp only [ownerJudges, judgeLeave]
          split
          · exact .inl ⟨rfl, fun _ => rfl⟩
          · split
            · exact .inl ⟨rfl, fun _ => rfl⟩
            · exact .inr rfl
        | park tag => exact .inl ⟨judgePark_line k tag, judgePark_mark k tag⟩
        | lock col o => exact .inl ⟨judgeLock_line k col o, judgeLock_mark k col o⟩
        | setDown h => exact .inl ⟨judgeSetDown_line k h, judgeSetDown_mark k h⟩
        | pickUp h => exact .inl ⟨judgePickUp_line k h, judgePickUp_mark k h⟩
        | claim tag => exact .inl ⟨judgeClaim_line k tag, judgeClaim_mark k tag⟩
        | yield h => exact .inl ⟨judgeYield_line k h, judgeYield_mark k h⟩
        | yieldSurvey => exact .inl ⟨judgeYieldSurvey_line k, judgeYieldSurvey_mark k⟩
        | survey col tags => exact .inl ⟨judgeSurvey_line k col tags, judgeSurvey_mark k col tags⟩
        | bad => exact .inl ⟨rfl, fun _ => rfl⟩

theorem judgeRequest_phase (k : Slot) (q : Request) (s : State) : (judgeRequest k q s).1.line.phase = s.line.phase := by
  rcases judgeRequest_cases k q s with ⟨hl, -⟩ | hl
  · rw [hl]
  · rw [hl]
    simp [acceptLeave, State.setSlot]

/-! ### An answer without a request as received bytes (R117, R172) -/

theorem word32_bytes (x : BitVec 32) :
    word32 (x.extractLsb' 24 8) (x.extractLsb' 16 8) (x.extractLsb' 8 8) (x.extractLsb' 0 8) = x := by
  have h24 : x.extractLsb' 24 8 ++ x.extractLsb' 16 8 = x.extractLsb' 16 16 :=
    BitVec.extractLsb'_append_extractLsb'_eq_extractLsb' rfl
  have h16 : x.extractLsb' 16 16 ++ x.extractLsb' 8 8 = x.extractLsb' 8 24 :=
    BitVec.extractLsb'_append_extractLsb'_eq_extractLsb' rfl
  have h8 : x.extractLsb' 8 24 ++ x.extractLsb' 0 8 = x.extractLsb' 0 32 :=
    BitVec.extractLsb'_append_extractLsb'_eq_extractLsb' rfl
  rw [word32, h24, h16, h8, BitVec.extractLsb'_eq_self]

/-- An answer that carries no request has 11 bytes, and is read with the status it was sent with. -/
theorem readAnswer_plain (k : Slot) (st : Status) : readAnswer k (encodeAnswer k st none) false = .valid st none := by
  have hlen : (byteAt (encodeAnswer k st none) 1).toNat = 11 := rfl
  have hst : readStatus (encodeAnswer k st none) = st := by
    show Status.mk _ _ _ _ (word32 _ _ _ _) = st
    simp [encodeAnswer, byteAt, bytes32, word32_bytes]
  unfold readAnswer
  simp only [hlen]
  rw [if_neg, hst]
  · rfl
  · simp [encodeAnswer, byteAt, bytes32]
    omega

/-! ### Answers that report FAULT, as commands -/

theorem phase_of_hears {kind : CallKind} (hh : Hears s k kind) :
    ∃ x, s.line.phase = .calling x ∧ x.slot = k ∧ x.kind = kind ∧ x.receiving = true := by
  obtain ⟨x, hx, hk⟩ := hh
  refine ⟨x, ?_, hk⟩
  unfold exchangeOf at hx
  split at hx
  · next h => cases hx; exact h
  all_goals cases hx

section
variable (hh : Hears s k .regular) (h0 : st.cond ≠ 0) (h1 : st.cond ≠ 1)
include hh h0 h1

theorem exec_fault_plain : exec (.answerEnd (encodeAnswer k st none) false) s =
    .next (afterExchange k (heard k st (fault k s))) := by
  obtain ⟨x, hx, hk, hkind, hr⟩ := phase_of_hears hh
  have hreg : takeRegular k st none s = heard k st (fault k s) := takeCondition_fault h0 h1
  show Host.Outcome.next (receiveAnswer _ false s) = _
  rw [receiveAnswer, endReception, hx]
  simp only [hr, hk, if_true, readAnswer_plain, takeAnswer, hkind, hreg]

theorem exec_fault_request {i : Instr} (hi : requestOf i = some (st, q)) : exec i s =
    .next (afterExchange k (takeRequest k q (s.holding k).isSome (heard k st (fault k s)))) := by
  obtain ⟨x, -, hk, hkind, e⟩ := answered_of_hears s hh st (some q)
  rw [exec_request s hi, e, takeAnswer, hkind, hk]
  exact congrArg (fun u => Host.Outcome.next (afterExchange k u)) (takeRegular_fault h0 h1 q)

end

theorem heard_fault_phase (k : Slot) (st : Status) (s : State) : (heard k st (fault k s)).line.phase = s.line.phase :=
  (congrArg Line.phase ((fault_only k s).line (by decide)) :)

theorem takeRequest_phase (k : Slot) (q : Request) (b : Bool) (s : State) :
    (takeRequest k q b s).line.phase = s.line.phase := by
  unfold takeRequest
  dsimp only
  split <;> exact judgeRequest_phase k q s

/-- R76, R77: an answer that reports FAULT and carries no request. -/
theorem fault_plain (hs : Coherent s) (c : Col) (hh : Hears s k .regular) (h0 : st.cond ≠ 0) (h1 : st.cond ≠ 1) :
    ∃ u t, exec (.answerEnd (encodeAnswer k st none) false) s = .next t ∧ LineGoesOn u t ∧
      OnlyChanges [.line, .lock, .handoff, .columns, .notice] s u ∧ u.line = { s.line with slots := u.line.slots } ∧
      u.slot k = slotAfter (s.slot k) st none ∧ (∀ j, j ≠ k → u.slot j = s.slot j) ∧
      (∀ l w h, s.lockOf c = some l → l.holder = k → l.hold = .work w h → ∃ r, s.named h = some r ∧
        StrandedIn s u c l w h r ∧ u.notice = afterRaising 1 s.notice ∧ u.mark k = some c) ∧
      (∀ l, s.lockOf c = some l → l.holder = k → l.hold = .survey →
        u.lockOf c = none ∧ SameLocksBut c s u ∧ u.columns = s.columns ∧ u.handoff = s.handoff ∧
          u.notice = s.notice ∧ u.mark k = some c) ∧
      ((∀ d, ∀ l ∈ s.lockOf d, l.holder ≠ k) →
        u.waitsOf c = (s.waitsOf c).filter (fun e => decide (e.slot ≠ k)) ∧ u.lockOf c = s.lockOf c ∧
          u.columns = s.columns ∧ u.handoff = s.handoff ∧ u.notice = s.notice ∧ u.mark k = s.mark k) := by
  have hline : (fault k s).line = s.line := (fault_only k s).line (by decide)
  refine ⟨_, _, exec_fault_plain hh h0 h1, afterExchange_goesOn _ (slot_of_hears s hh (heard_fault_phase k st s)),
    ((fault_only k s).mono (by decide)).trans ((heard_only _ k st).mono (by decide)), ?_, ?_, fun j hj => ?_,
    fun l w h hl hk hw => ?_, fun l hl hk hw => ?_, fun hk => ?_⟩
  · exact (rfl : _ = { (fault k s).line with slots := (heard k st (fault k s)).line.slots }).trans (by rw [hline])
  · rw [heard_slot_self, slot_congr hline]
  · rw [heard_slot, if_neg hj.symm, slot_congr hline]
  · obtain ⟨r, hr, ⟨hlock, hlocks, hcol, hcols, hrec, hrecs, hcounts⟩, hn⟩ := expireLock_strandedIn hs hl hw
    rw [fault_holder hs.positions hl hk]
    exact ⟨r, hr, ⟨hlock, hlocks, hcol, hcols, hrec, hrecs, hcounts⟩, hn, hk ▸ expireLock_mark hl⟩
  · rw [fault_holder hs.positions hl hk, expireLock_of_survey hl hw]
    refine ⟨?_, fun d hd => ⟨?_, rfl⟩, rfl, rfl, rfl, ?_⟩
    · simp
    · simp [hd]
    · simp [hk]
  · rw [fault_free hk]
    exact ⟨dropWaiter_waitsOf s k c, rfl, rfl, rfl, rfl, rfl⟩

/-- R77: the request of an answer with FAULT, from a slot that holds no lock, is judged as without its wait place. -/
theorem fault_request_free {i : Instr} (hh : Hears s k .regular) (h0 : st.cond ≠ 0) (h1 : st.cond ≠ 1)
    (hi : requestOf i = some (st, q)) (hk : ∀ d, ∀ l ∈ s.lockOf d, l.holder ≠ k) :
    exec i s = exec i (s.dropWaiter k) := by
  have hdrop : fault k (s.dropWaiter k) = s.dropWaiter k :=
    (fault_free (s := s.dropWaiter k) hk).trans (dropWaiter_none (s.dropWaiter k) (dropWaiter_notWaiting s k))
  rw [exec_fault_request hh h0 h1 hi, exec_fault_request (s := s.dropWaiter k) hh h0 h1 hi, fault_free hk, hdrop]
  rfl

/-- R78: the mark that the FAULT of an answer has set stays with its slot unless its request is a LEAVE that is accepted. -/
theorem takeRequest_mark (hlive : (s.slot k).link = .live) (q : Request) :
    (takeRequest k q true s).mark k = if ((takeRequest k q true s).slot k).link = .live then s.mark k else none := by
  have hslot : ((takeRequest k q true s).slot k).link = ((judgeRequest k q s).1.slot k).link := by
    simp [takeRequest, setVerdict]
  have hmark : (takeRequest k q true s).mark k = (judgeRequest k q s).1.mark k := rfl
  rw [hslot, hmark]
  rcases judgeRequest_cases k q s with ⟨hl, hm⟩ | hl
  · rw [slot_congr hl, if_pos hlive, hm]
  · have hvac : ((acceptLeave k s).slot k).link = .vacant := by simp [acceptLeave, SlotRec.vacated]
    rw [hl, hvac]
    simp [acceptLeave]

/-- R76, R78: the request of an answer with FAULT, from the holder of a lock, is judged as after the expiry of its lease, but
for the mark that this answer has set. -/
theorem fault_request_holder {i : Instr} (hs : Coherent s) (hh : Hears s k .regular) (h0 : st.cond ≠ 0) (h1 : st.cond ≠ 1)
    (hi : requestOf i = some (st, q)) (hl : s.lockOf c = some l) (hk : l.holder = k) :
    ∃ v u t u' t', exec (.leaseExpiry c) s = .next v ∧ exec i s = .next t ∧ LineGoesOn u t ∧ exec i v = .next t' ∧
      LineGoesOn u' t' ∧ u' = u.setMark k none ∧ u.mark k = if (u.slot k).link = .live then some c else none := by
  have hline : (expireLock c s).line = s.line := (expireLock_only c s).line (by decide)
  have hfault := fault_holder hs.positions hl hk
  have hheard : Hears (expireLock c s) k .regular := by simpa only [Hears, exchangeOf, hline] using hh
  have hnone : ∀ d, ∀ m ∈ (expireLock c s).lockOf d, m.holder ≠ k := fun d m hm e => by
    rw [expireLock_lockOf] at hm
    split at hm
    · cases hm
    · next hne => exact hne (positions_column hs.positions (holder_mem hl hk) (holder_mem hm e))
  have hwaits : ∀ d, ∀ e ∈ (expireLock c s).waitsOf d, e.slot ≠ k := fun d e he =>
    waiting_eq_none.1 (waiting_of_holder hs.positions hl hk) d e ((expireLock_waits_sublist c d).subset he)
  have hagain : fault k (expireLock c s) = expireLock c s := (fault_free hnone).trans (dropWaiter_none _ hwaits)
  have e := exec_fault_request hh h0 h1 hi
  have e' := exec_fault_request (s := expireLock c s) hheard h0 h1 hi
  rw [hfault, holding_of_lockOf hs.positions hl hk] at e
  rw [hagain, holding_eq_none.2 hnone] at e'
  have hphase : (heard k st (expireLock c s)).line.phase = s.line.phase := (congrArg Line.phase hline :)
  have hlive : ((heard k st (expireLock c s)).slot k).link = .live := by
    obtain ⟨x, hx, hxk, hkind, -⟩ := phase_of_hears hh
    rw [heard_slot_self]
    show ((expireLock c s).slot k).link = .live
    rw [slot_congr hline, ← hxk]
    exact (coherent_calling hs hx).2 hkind
  refine ⟨_, _, _, _, _, rfl, e, afterExchange_goesOn _ (slot_of_hears s hh ?_), e',
    afterExchange_goesOn _ (slot_of_hears s hh ?_), rfl, ?_⟩
  · exact (takeRequest_phase ..).trans hphase
  · exact (takeRequest_phase ..).trans hphase
  · refine (takeRequest_mark hlive q).trans ?_
    rw [heard_mark, ← hk, expireLock_mark hl]
    rfl

/-- Settles O37: a lease's expiry by what the lock is held for, and an answer that reports FAULT as that expiry, or as the end
of a wait place, before the taking of a sound answer. -/
theorem leaseExpiryAndFaultEndLocks : Obligations.LeaseExpiryAndFaultEndLocks := by
  intro s c hs
  refine ⟨fun hl => ?_, fun l hl hw => ?_, fun l w h hl hw => ?_, fun k st hh h0 h1 => fault_plain hs c hh h0 h1,
    fun k st i q hh h0 h1 hi _ => ⟨fault_request_free hh h0 h1 hi, fun l hl hk => fault_request_holder hs hh h0 h1 hi hl hk⟩⟩
  · exact congrArg Host.Outcome.next (expireLock_of_free hl)
  · exact congrArg Host.Outcome.next (expireLock_of_survey hl hw)
  · obtain ⟨r, hr, hst, hn⟩ := expireLock_strandedIn hs hl hw
    exact ⟨r, _, hr, rfl, (expireLock_only c s).mono (by decide), hst, hn, expireLock_mark hl, fun j => expireLock_mark_ne hl⟩

end Sys2Proof.Machine
end

section
/-! Lock positions and slot records under every command (R61, R110, R112, R115). The first law is about the lock unit alone,
the others are about the line controller alone. Most changes shed lock positions and leave the line, so that both are kept; the
few that take a position are the grants of a lock and the queuing, and the few that touch the line are the events of a round,
the settings of the line and the answers. -/

namespace Sys2Proof.Machine

open Sys2Proof.Safety

variable {s t u : State} {c d : Col} {h : Handle} {i : RecIdx} {k : Slot} {w : Hold} {e : WaitEntry}

/-! ### Changes that shed positions -/

/-- The change from `s` to `t` frees locks and drops wait list entries, gives none to a slot, and leaves the line. -/
structure Sheds (s t : State) : Prop where
  line : t.line = s.line
  locks : ∀ c, t.lockOf c = none ∨ t.lockOf c = s.lockOf c
  waits : ∀ c, (t.waitsOf c).Sublist (s.waitsOf c)

theorem Sheds.refl (s : State) : Sheds s s := ⟨rfl, fun _ => .inr rfl, fun _ => .refl _⟩

theorem Sheds.trans (h : Sheds s t) (h' : Sheds t u) : Sheds s u := by
  refine ⟨h'.line.trans h.line, fun c => ?_, fun c => (h'.waits c).trans (h.waits c)⟩
  rcases h'.locks c with e | e
  · exact .inl e
  · rw [e]
    exact h.locks c

theorem sheds_of_lock (hline : t.line = s.line) (hlock : t.lock = s.lock) : Sheds s t :=
  ⟨hline, fun c => .inr (lockOf_congr hlock c), fun c => by rw [waitsOf_congr hlock]⟩

theorem sheds_of_only {ps : List Part} (ho : OnlyChanges ps s t) (hline : .line ∉ ps) (hlock : .lock ∉ ps) : Sheds s t :=
  sheds_of_lock (ho.line hline) (ho.lock hlock)

/-- The locks stay and wait lists lose entries. -/
theorem sheds_of_waits {ps : List Part} (ho : OnlyChanges ps s t) (hline : .line ∉ ps) (hl : ∀ c, t.lockOf c = s.lockOf c)
    (hw : ∀ c, (t.waitsOf c).Sublist (s.waitsOf c)) : Sheds s t :=
  ⟨ho.line hline, fun c => .inr (hl c), hw⟩

/-- One column's lock ends and wait lists lose entries. -/
theorem sheds_of_unlock {ps : List Part} (ho : OnlyChanges ps s t) (hline : .line ∉ ps)
    (hl : ∀ d, t.lockOf d = if c = d then none else s.lockOf d) (hw : ∀ d, (t.waitsOf d).Sublist (s.waitsOf d)) :
    Sheds s t := by
  refine ⟨ho.line hline, fun d => ?_, hw⟩
  rw [hl]
  split
  · exact .inl rfl
  · exact .inr rfl

theorem Sheds.positionsIn (h : Sheds s t) (c : Col) : (positionsIn t c).Sublist (positionsIn s c) := by
  have hw := (h.waits c).map (·.slot)
  unfold Machine.positionsIn
  rcases h.locks c with e | e <;> rw [e]
  · exact hw.trans (List.sublist_append_right _ _)
  · exact hw.append_left _

theorem Sheds.positions (h : Sheds s t) (hp : OnePosition s) : OnePosition t :=
  positions_sublist hp h.positionsIn fun c => (h.waits c).length_le

theorem mem_positions_iff : k ∈ positions s ↔ ∃ c, k ∈ positionsIn s c := by
  simp only [Safety.positions, Machine.positionsIn, List.mem_flatMap, mem_allCols, true_and]

theorem Sheds.mem (h : Sheds s t) (hk : k ∈ Safety.positions t) : k ∈ Safety.positions s := by
  obtain ⟨c, hc⟩ := mem_positions_iff.1 hk
  exact mem_positions_iff.2 ⟨c, (h.positionsIn c).subset hc⟩

theorem forEach_sheds {α : Type} {f : α → State → State} (hf : ∀ a u, Sheds u (f a u)) (l : List α) (s : State) :
    Sheds s (forEach l f s) := by
  induction l generalizing s with
  | nil => exact .refl s
  | cons a l ih => exact (hf a s).trans (ih (f a s))

/-! ### Operations that shed positions or leave the lock unit -/

theorem retire_sheds (i : RecIdx) (o : Retirement) (s : State) : Sheds s (retire i o s) :=
  sheds_of_waits (retire_only i o s) (by decide) (retire_lockOf s i o) (retire_waits_sublist i o)

theorem dropWaiter_sheds (k : Slot) (s : State) : Sheds s (s.dropWaiter k) :=
  sheds_of_waits (s.dropWaiter_only k) (by decide) (fun _ => rfl) fun c => by
    rw [dropWaiter_waitsOf]
    exact List.filter_sublist

theorem setWaitsOf_sheds {l : List WaitEntry} (hl : l.Sublist (s.waitsOf c)) : Sheds s (s.setWaitsOf c l) :=
  sheds_of_waits (setWaitsOf_only c l s) (by decide) (fun _ => rfl) fun d => by
    rw [setWaitsOf_waitsOf_if]
    split
    · next e => exact e ▸ hl
    · exact .refl _

theorem endLock_sheds (c : Col) (s : State) : Sheds s (endLock c s) :=
  sheds_of_unlock (endLock_only c s) (by decide) (endLock_lockOf s c) fun _ => .refl _

theorem expireLock_sheds (c : Col) (s : State) : Sheds s (expireLock c s) :=
  sheds_of_unlock (expireLock_only c s) (by decide) (expireLock_lockOf c) (expireLock_waits_sublist c)

theorem strand_sheds (c : Col) (k : Slot) (x : Work) (h : Handle) (s : State) : Sheds s (strand c k x h s) :=
  sheds_of_unlock (strand_only c k x h s) (by decide) (strand_lockOf s c · k x h) fun d => by
    rw [strand_waitsOf]
    split
    · exact List.nil_sublist _
    · exact .refl _

theorem breakLock_sheds (c : Col) (s : State) : Sheds s (breakLock c s) := by
  unfold breakLock
  split
  · exact .refl s
  · split
    · exact strand_sheds ..
    · exact endLock_sheds c s

theorem setMark_sheds (k : Slot) (o : Option Col) (s : State) : Sheds s (s.setMark k o) :=
  sheds_of_waits (setMark_only k o s) (by decide) (fun _ => rfl) fun _ => .refl _

theorem dropPromises_sheds (k : Slot) (s : State) : Sheds s (dropPromises k s) :=
  sheds_of_only (dropPromises_only k s) (by decide) (by decide)

theorem dropDesignations_sheds (k : Slot) (s : State) : Sheds s (dropDesignations k s) :=
  sheds_of_only (dropDesignations_only k s) (by decide) (by decide)

theorem parkRecord_sheds (i : RecIdx) (s : State) : Sheds s (parkRecord i s) :=
  sheds_of_only (parkRecord_only i s) (by decide) (by decide)

theorem promiseRecord_sheds (i : RecIdx) (k : Slot) (s : State) : Sheds s (promiseRecord i k s) :=
  sheds_of_only (promiseRecord_only i k s) (by decide) (by decide)

theorem refreshStack_sheds (c : Col) (s : State) : Sheds s (refreshStack c s) :=
  sheds_of_only (refreshStack_only c s) (by decide) (by decide)

theorem pushRecord_sheds (i : RecIdx) (c : Col) (s : State) : Sheds s (pushRecord i c s) :=
  sheds_of_only (pushRecord_only i c s) (by decide) (by decide)

theorem popStack_sheds (c : Col) (s : State) : Sheds s (popStack c s) :=
  sheds_of_only (popStack_only c s) (by decide) (by decide)

theorem settleColumn_sheds (c : Col) (s : State) : Sheds s (settleColumn c s) :=
  sheds_of_only (settleColumn_only c s) (by decide) (by decide)

theorem setRec_sheds (i : RecIdx) (r : Record) (s : State) : Sheds s (s.setRec i r) :=
  sheds_of_only (setRec_only i r s) (by decide) (by decide)

theorem makeNoted_sheds (i : RecIdx) (r : Record) (b : Bool) (s : State) : Sheds s (noteUnlisted i b (makeAt i r s)) :=
  (sheds_of_only (makeAt_only i r s) (by decide) (by decide)).trans
    (sheds_of_only (noteUnlisted_only i b _) (by decide) (by decide))

theorem retireAll_sheds (l : List RecIdx) (o : Retirement) (s : State) : Sheds s (forEach l (fun i => retire i o) s) :=
  forEach_sheds (fun i u => retire_sheds i o u) l s

theorem giveUp_sheds (k : Slot) (s : State) : Sheds s (giveUp k s) :=
  ((((dropWaiter_sheds k s).trans (retireAll_sheds _ .unplaced _)).trans (dropPromises_sheds k _)).trans
    (dropDesignations_sheds k _)).trans (setMark_sheds k none _)

theorem loseHoldings_sheds (k : Slot) (s : State) : Sheds s (loseHoldings k s) := by
  cases hh : s.holding k with
  | none => rw [loseHoldings_of_none hh]; exact giveUp_sheds k s
  | some p => rw [loseHoldings_of_holder hh]; exact (breakLock_sheds p.1 s).trans (giveUp_sheds k _)

theorem takeCondition_sheds (k : Slot) (s : State) : Sheds s (takeCondition k s) := by
  unfold takeCondition
  split
  · split
    · exact expireLock_sheds ..
    · exact dropWaiter_sheds k s
  · exact .refl s

/-! ### Operations that take a position -/

/-- R66: a slot that has no position becomes holder of a lock, in the place of another holder if there is one. -/
theorem grant_onePosition (hp : OnePosition s) (hk : k ∉ positions s) (w : Hold) : OnePosition (grant c k w s) := by
  have hfree := endLock_sheds c s
  have hgranted : OnePosition (grant c k w (endLock c s)) :=
    grant_positions (hfree.positions hp) (by rw [endLock_lockOf, if_pos rfl]) (fun hm => hk (hfree.mem hm)) w
  refine Sheds.positions ⟨?_, fun d => .inr ?_, fun d => ?_⟩ hgranted
  · rw [(grant_only c k w _).line (by decide), (grant_only c k w _).line (by decide), hfree.line]
  · rw [grant_lockOf, grant_lockOf, endLock_lockOf]
    split <;> rfl
  · rw [grant_waitsOf, grant_waitsOf, endLock_waitsOf]

/-- R67: a slot that has no position comes to the end of a wait list with room. -/
theorem queue_onePosition (hp : OnePosition s) (hk : e.slot ∉ positions s) (hlen : (s.waitsOf c).length < 4) :
    OnePosition (s.setWaitsOf c (s.waitsOf c ++ [e])) := by
  have hin : positionsIn (s.setWaitsOf c (s.waitsOf c ++ [e])) c = positionsIn s c ++ [e.slot] := by
    simp [positionsIn]
  have hne : ∀ d, d ≠ c → (s.setWaitsOf c (s.waitsOf c ++ [e])).waitsOf d = s.waitsOf d := fun d hd => by
    rw [setWaitsOf_waitsOf_if, if_neg hd.symm]
  refine positions_column_changed (c := c) hp (fun d hd => ?_) hne ?_ (fun j hj => ?_) ?_
  · simp [positionsIn, hne d hd]
  · rw [hin]
    exact List.nodup_append.2 ⟨positionsIn_nodup hp c, List.nodup_singleton _, fun a ha b hb => by
      rw [List.mem_singleton.1 hb]
      rintro rfl
      exact hk (mem_positions_iff.2 ⟨c, ha⟩)⟩
  · rw [hin, List.mem_append, List.mem_singleton] at hj
    exact hj.imp_right fun hje => by rw [hje]; exact hk
  · rw [setWaitsOf_waitsOf_if, if_pos rfl, List.length_append]
    exact hlen

/-- R70: the scan of a wait list moves one waiter to the free lock. -/
theorem scan_onePosition (hp : OnePosition s) (c : Col) : OnePosition (scan c s) := by
  cases hf : (s.waitsOf c).find? (s.possible c) with
  | none => rw [scan_none s hf]; exact hp
  | some e =>
    rw [scan_some s hf]
    have hget : (s.waitsOf c)[(s.waitsOf c).findIdx (s.possible c)]? = some e := by
      rw [← List.find?_eq_getElem?_findIdx]; exact hf
    exact grant_onePosition ((setWaitsOf_sheds (List.eraseIdx_sublist _ _)).positions hp) (erased_not_mem hp hget) _

/-! ### The requests that take a position -/

theorem judgeLock_onePosition (hp : OnePosition s) (k : Slot) (col : Byte) (o : Option Handle) :
    OnePosition (judgeLock k col o s).1 := by
  unfold judgeLock
  split
  · split <;> exact hp
  · next hw =>
    split
    · split <;> exact hp
    · next hh =>
      have hk : k ∉ positions s := not_mem_positions hh hw
      split
      · unfold judgeSurveyLock
        split
        · exact hp
        · split
          · exact grant_onePosition hp hk .survey
          · exact hp
      · unfold judgeWorkLock
        split
        · exact hp
        · split
          · exact hp
          · split
            · exact hp
            · split
              · exact hp
              · split
                · exact hp
                · split
                  · exact grant_onePosition hp hk _
                  · split
                    · next hlen => exact queue_onePosition (e := ⟨k, _, _⟩) hp hk hlen
                    · exact hp

theorem acceptSetDown_onePosition (hp : OnePosition s) (h : Handle) (c : Col) : OnePosition (acceptSetDown h c s) :=
  scan_onePosition ((((pushRecord_sheds ..).trans (endLock_sheds ..)).trans (refreshStack_sheds ..)).positions hp) c

theorem acceptPickUp_onePosition (hp : OnePosition s) (h : Handle) (c : Col) : OnePosition (acceptPickUp h c s) :=
  scan_onePosition (((((popStack_sheds ..).trans (retire_sheds ..)).trans (endLock_sheds ..)).trans
    (refreshStack_sheds ..)).positions hp) c

theorem judgeSetDown_onePosition (hp : OnePosition s) (k : Slot) (h : Handle) : OnePosition (judgeSetDown k h s).1 := by
  unfold judgeSetDown
  split
  · exact hp
  · split
    · exact hp
    · split
      · split
        · exact hp
        · exact acceptSetDown_onePosition hp h _
      · exact hp

theorem judgePickUp_onePosition (hp : OnePosition s) (k : Slot) (h : Handle) : OnePosition (judgePickUp k h s).1 := by
  unfold judgePickUp
  split
  · exact hp
  · split
    · exact hp
    · split
      · split
        · exact acceptPickUp_onePosition hp h _
        · split
          · exact hp
          · exact (strand_sheds ..).positions hp
      · exact hp

theorem judgeYield_onePosition (hp : OnePosition s) (k : Slot) (h : Handle) : OnePosition (judgeYield k h s).1 := by
  unfold judgeYield
  split
  · exact hp
  · split
    · exact hp
    · split
      · split
        · next w _ _ =>
          split
          · have hret := sheds_of_only (returnWork_only w h.idx s) (by decide) (by decide)
            exact scan_onePosition ((hret.trans (endLock_sheds ..)).positions hp) _
          · exact hp
        · exact hp
      · split
        · exact (dropWaiter_sheds k s).positions hp
        · exact hp
      · split
        · exact (parkRecord_sheds ..).positions hp
        · split
          · exact (retire_sheds ..).positions hp
          · exact hp

/-! ### The other requests -/

theorem judgePark_sheds (k : Slot) (tag : Tag) (s : State) : Sheds s (judgePark k tag s).1 := by
  unfold judgePark
  split
  · exact .refl s
  · split
    · split <;> exact .refl s
    · split
      · exact .refl s
      · split
        · exact .refl s
        · split
          · exact .refl s
          · dsimp only
            split
            · exact .refl s
            · exact makeNoted_sheds ..

theorem judgeClaim_sheds (k : Slot) (tag : Tag) (s : State) : Sheds s (judgeClaim k tag s).1 := by
  unfold judgeClaim
  split
  · exact .refl s
  · next i r _ =>
    cases r.state <;> dsimp only
    case parked => exact promiseRecord_sheds i k s
    case promised => split <;> exact .refl s
    all_goals exact .refl s

theorem judgeYieldSurvey_sheds (k : Slot) (s : State) : Sheds s (judgeYieldSurvey k s).1 := by
  unfold judgeYieldSurvey
  split
  · split
    · exact endLock_sheds ..
    · exact .refl s
  · exact .refl s

theorem resolveAbsentPlacement_sheds (i : RecIdx) (b : Bool) (s : State) : Sheds s (resolveAbsentPlacement i b s) := by
  unfold resolveAbsentPlacement
  split
  · exact sheds_of_only (reserveRecord_only i s) (by decide) (by decide)
  · exact retire_sheds ..

theorem resolveLiftInPlace_sheds (i : RecIdx) (o : Option Slot) (b : Bool) (s : State) :
    Sheds s (resolveLiftInPlace i o b s) := by
  unfold resolveLiftInPlace
  split
  · exact promiseRecord_sheds ..
  · exact parkRecord_sheds i s

theorem resolution_sheds {tags : List Tag} {f : State → State} (hf : resolution c tags s = some f) : Sheds s (f s) := by
  unfold resolution at hf
  split at hf
  · cases hf
  · split at hf
    · cases hf
    · dsimp only at hf
      split at hf
      · split at hf
        · split at hf
          · cases hf; exact resolveAbsentPlacement_sheds ..
          · split at hf
            · cases hf; exact (pushRecord_sheds ..).trans (refreshStack_sheds ..)
            · cases hf
        · split at hf
          · cases hf; exact resolveLiftInPlace_sheds ..
          · split at hf
            · cases hf; exact ((popStack_sheds ..).trans (retire_sheds ..)).trans (refreshStack_sheds ..)
            · cases hf
        · cases hf
      · cases hf

theorem judgeSurvey_sheds (k : Slot) (col : Byte) (tags : List Tag) (s : State) : Sheds s (judgeSurvey k col tags s).1 := by
  unfold judgeSurvey
  split
  · exact .refl s
  · split
    · exact .refl s
    · split
      · exact .refl s
      · split
        · next hf => exact ((resolution_sheds hf).trans (settleColumn_sheds ..)).trans (endLock_sheds ..)
        · split
          · exact (endLock_sheds _ s).trans (sheds_of_lock rfl rfl)
          · exact endLock_sheds ..

/-- R61 at a change of the line and of blocks that hold no lock. -/
theorem onePosition_of_lock (hp : OnePosition s) (hl : t.lock = s.lock) : OnePosition t := by
  simpa only [OnePosition, positions, lockOf_congr hl, waitsOf_congr hl] using hp

theorem acceptLeave_eq (k : Slot) (s : State) : ∃ u, Sheds s u ∧ acceptLeave k s = u.setSlot k (s.slot k).vacated := by
  have hu : Sheds s (dropDesignations k ((dropPromises k (s.dropWaiter k)).setMark k none)) :=
    (((dropWaiter_sheds k s).trans (dropPromises_sheds k _)).trans (setMark_sheds k none _)).trans (dropDesignations_sheds k _)
  exact ⟨_, hu, by rw [acceptLeave, slot_congr hu.line]⟩

theorem judgeLeave_onePosition (hp : OnePosition s) (k : Slot) : OnePosition (judgeLeave k s).1 := by
  unfold judgeLeave
  split
  · exact hp
  · split
    · exact hp
    · obtain ⟨u, hu, e⟩ := acceptLeave_eq k s
      rw [e]
      exact onePosition_of_lock (hu.positions hp) rfl

theorem ownerJudges_onePosition (hp : OnePosition s) (k : Slot) (q : Request) : OnePosition (ownerJudges k q s).1 := by
  cases q with
  | join id => unfold ownerJudges judgeJoin; dsimp only; split <;> exact hp
  | leave => exact judgeLeave_onePosition hp k
  | park tag => exact (judgePark_sheds k tag s).positions hp
  | lock col o => exact judgeLock_onePosition hp k col o
  | setDown h => exact judgeSetDown_onePosition hp k h
  | pickUp h => exact judgePickUp_onePosition hp k h
  | claim tag => exact (judgeClaim_sheds k tag s).positions hp
  | yield h => exact judgeYield_onePosition hp k h
  | yieldSurvey => exact (judgeYieldSurvey_sheds k s).positions hp
  | survey col tags => exact (judgeSurvey_sheds k col tags s).positions hp
  | bad => exact hp

theorem judgeRequest_onePosition (hp : OnePosition s) (k : Slot) (q : Request) : OnePosition (judgeRequest k q s).1 := by
  unfold judgeRequest
  split
  · exact hp
  · split
    · exact hp
    · split
      · exact hp
      · exact ownerJudges_onePosition hp k q

/-! ### Answers and misses -/

theorem takeRequest_onePosition (hp : OnePosition s) (k : Slot) (q : Request) (b : Bool) : OnePosition (takeRequest k q b s) := by
  have h := judgeRequest_onePosition hp k q
  unfold takeRequest
  dsimp only
  split
  · exact onePosition_of_lock h rfl
  · exact (setMark_sheds k none _).positions (onePosition_of_lock h rfl)

theorem takeRegular_onePosition (hp : OnePosition s) (k : Slot) (st : Status) (q : Option Request) :
    OnePosition (takeRegular k st q s) := by
  have taken : OnePosition (takeStatus k st s) := onePosition_of_lock hp rfl
  have h : OnePosition (setVerdict k none (takeCondition k (takeStatus k st s))) :=
    onePosition_of_lock ((takeCondition_sheds k _).positions taken) rfl
  unfold takeRegular
  dsimp only
  split
  · exact h
  · exact takeRequest_onePosition h k _ _

theorem takeProbe_lock (k : Slot) (st : Status) (q : Option Request) : (takeProbe k st q s).lock = s.lock := by
  unfold takeProbe
  split
  · split
    · rfl
    · split <;> rfl
  · rfl

theorem takeAnswer_onePosition (hp : OnePosition s) (x : Exchange) (st : Status) (q : Option Request) :
    OnePosition (takeAnswer x st q s) := by
  unfold takeAnswer
  split
  · exact takeRegular_onePosition hp _ st q
  · exact onePosition_of_lock hp (takeProbe_lock ..)

theorem missSlot_onePosition (hp : OnePosition s) (k : Slot) : OnePosition (missSlot k s) := by
  have counted : OnePosition (s.setSlot k { s.slot k with miss := min 15 ((s.slot k).miss + 1) }) := onePosition_of_lock hp rfl
  unfold missSlot
  dsimp only
  split
  · exact onePosition_of_lock ((loseHoldings_sheds k _).positions counted) rfl
  · exact counted

theorem noAnswer_onePosition (hp : OnePosition s) (x : Exchange) : OnePosition (noAnswer x s) := by
  unfold noAnswer
  split
  · exact missSlot_onePosition hp _
  · exact hp

end Sys2Proof.Machine
end

section
namespace Sys2Proof.Machine

open Sys2Proof.Safety

variable {s t u : State} {c : Col} {i : RecIdx} {k : Slot} {x : SlotRec}

/-! ### The form of the slot records (R110, R112) -/

/-- The slot records keep their form where links and robot ids stay, and the misses of VACANT slots. -/
theorem slotsInForm_of_ids (hs : SlotsInForm s) (hl : ∀ j, (t.slot j).link = (s.slot j).link)
    (hr : ∀ j, (t.slot j).robotId = (s.slot j).robotId)
    (hm : ∀ j, (s.slot j).link = .vacant → (t.slot j).miss = (s.slot j).miss) : SlotsInForm t := by
  obtain ⟨hvacant, hmiss, hids⟩ := hs
  refine ⟨fun j => ?_, fun j hv => ?_, fun i j => ?_⟩
  · rw [hl, hr]
    exact hvacant j
  · rw [hl] at hv
    exact (hm j hv).trans (hmiss j hv)
  · rw [hl, hl, hr, hr]
    exact hids i j

theorem slotsInForm_of_line (hs : SlotsInForm s) (hl : t.line = s.line) : SlotsInForm t :=
  slotsInForm_of_ids hs (fun j => by rw [slot_congr hl]) (fun j => by rw [slot_congr hl]) fun j _ => by rw [slot_congr hl]

theorem slotsInForm_of_moves (hs : SlotsInForm s) (hm : LineMoves s t) : SlotsInForm t :=
  slotsInForm_of_ids hs hm.link (fun j => congrArg SlotRec.robotId (hm.slots j) :)
    fun j _ => (congrArg SlotRec.miss (hm.slots j) :)

/-- One slot record changes in other fields, or in the misses of a slot that is not VACANT. -/
theorem setSlot_slotsInForm (hs : SlotsInForm s) (hl : x.link = (s.slot k).link) (hr : x.robotId = (s.slot k).robotId)
    (hm : (s.slot k).link = .vacant → x.miss = (s.slot k).miss) : SlotsInForm (s.setSlot k x) := by
  refine slotsInForm_of_ids hs (fun j => ?_) (fun j => ?_) fun j hv => ?_ <;> rw [setSlot_slot_if] <;> split
  · next e => exact e ▸ hl
  · rfl
  · next e => exact e ▸ hr
  · rfl
  · next e => subst e; exact hm hv
  · rfl

theorem setVerdict_slotsInForm (hs : SlotsInForm s) (k : Slot) (v : Option Verdict) : SlotsInForm (setVerdict k v s) :=
  setSlot_slotsInForm hs rfl rfl fun _ => rfl

/-- R121, R146: a slot becomes VACANT. -/
theorem vacate_slotsInForm (hs : SlotsInForm s) (k : Slot) (x : SlotRec) : SlotsInForm (s.setSlot k x.vacated) :=
  SlotsInForm.setSlot hs (by simp [SlotRec.vacated]) (fun _ => rfl) nofun

theorem loseSlot_slotsInForm (hs : SlotsInForm s) (hlive : (s.slot k).link = .live) : SlotsInForm (loseSlot k s) := by
  have hline := (loseHoldings_sheds k s).line
  have hid : (s.slot k).robotId ≠ none := fun e => by
    rw [(hs.1 k).2 e] at hlive
    cases hlive
  refine slotsInForm_of_line (SlotsInForm.setSlot (k := k) (x := { (loseHoldings k s).slot k with link := .lost, verdict := none })
    (slotsInForm_of_line hs hline) ?_ nofun nofun) rfl
  rw [slot_congr hline]
  exact iff_of_false nofun hid

theorem missSlot_slotsInForm (hs : SlotsInForm s) (hlive : (s.slot k).link = .live) : SlotsInForm (missSlot k s) := by
  have counted : SlotsInForm (s.setSlot k { s.slot k with miss := min 15 ((s.slot k).miss + 1) }) :=
    setSlot_slotsInForm hs rfl rfl fun hv => by rw [hlive] at hv; cases hv
  unfold missSlot
  dsimp only
  split
  · refine loseSlot_slotsInForm counted ?_
    rw [setSlot_slot_self]
    exact hlive
  · exact counted

theorem judgeRequest_slotsInForm (hs : SlotsInForm s) (k : Slot) (q : Request) : SlotsInForm (judgeRequest k q s).1 := by
  rcases judgeRequest_cases k q s with ⟨hline, -⟩ | e
  · exact slotsInForm_of_line hs hline
  · obtain ⟨u, hu, e'⟩ := acceptLeave_eq k s
    rw [e, e']
    exact vacate_slotsInForm (slotsInForm_of_line hs hu.line) k _

theorem takeRequest_slotsInForm (hs : SlotsInForm s) (k : Slot) (q : Request) (b : Bool) :
    SlotsInForm (takeRequest k q b s) := by
  have h := setVerdict_slotsInForm (judgeRequest_slotsInForm hs k q) k (some (judgeRequest k q s).2)
  unfold takeRequest
  dsimp only
  split
  · exact h
  · exact slotsInForm_of_line h rfl

theorem takeRegular_slotsInForm (hs : SlotsInForm s) (hlive : (s.slot k).link = .live) (st : Status) (q : Option Request) :
    SlotsInForm (takeRegular k st q s) := by
  have taken : SlotsInForm (takeStatus k st s) :=
    setSlot_slotsInForm hs rfl rfl fun hv => by rw [hlive] at hv; cases hv
  have h := setVerdict_slotsInForm (slotsInForm_of_line taken (takeCondition_sheds k _).line) k none
  unfold takeRegular
  dsimp only
  split
  · exact h
  · exact takeRequest_slotsInForm h k _ _

/-- R119, R120: a slot becomes LIVE with a robot id that no LIVE slot holds. -/
theorem takeProbe_slotsInForm (hs : SlotsInForm s) (k : Slot) (st : Status) (q : Option Request) :
    SlotsInForm (takeProbe k st q s) := by
  unfold takeProbe
  split
  · next id =>
    split
    · exact hs
    · split
      · exact setVerdict_slotsInForm hs k _
      · next hid =>
        refine SlotsInForm.setSlot hs (by simp) nofun fun _ j _ hj e => hid ?_
        simp only [State.idLive, List.any_eq_true, Bool.and_eq_true, decide_eq_true_eq, State.isLive]
        exact ⟨j, List.mem_finRange j, hj, e⟩
  · exact hs

theorem takeAnswer_slotsInForm (hs : SlotsInForm s) {x : Exchange} (hx : x.kind = .regular → (s.slot x.slot).link = .live)
    (st : Status) (q : Option Request) : SlotsInForm (takeAnswer x st q s) := by
  unfold takeAnswer
  split
  · next e => exact takeRegular_slotsInForm hs (hx e) st q
  · exact takeProbe_slotsInForm hs _ st q

theorem noAnswer_slotsInForm (hs : SlotsInForm s) {x : Exchange} (hx : x.kind = .regular → (s.slot x.slot).link = .live) :
    SlotsInForm (noAnswer x s) := by
  unfold noAnswer
  split
  · next e => exact missSlot_slotsInForm hs (hx e)
  · exact hs

/-! ### The slot records with the exchange in progress (R115, R125) -/

/-- The laws that the line controller alone is under. -/
structure LinksFit (s : State) : Prop where
  slots : SlotsInForm s
  calls : CallsFit s

/-- The slot records keep their form, and run state, phase and the link of the slot being called stay. -/
theorem LinksFit.of_slots (hs : LinksFit s) (hf : SlotsInForm t) (hp : t.line.phase = s.line.phase)
    (hr : t.line.run = s.line.run) (hl : ∀ x ∈ exchangeOf s, (t.slot x.slot).link = (s.slot x.slot).link) : LinksFit t := by
  obtain ⟨hidle, hround, hcall⟩ := hs.calls
  have hx : exchangeOf t = exchangeOf s := by simp only [exchangeOf, hp]
  refine ⟨hf, by rw [hp, hr]; exact hidle, by rw [hp, hr]; exact hround, fun x hxt => ?_⟩
  rw [hx] at hxt
  rw [hr, hl x hxt]
  exact hcall x hxt

/-- The line controller changes in other fields than slot records, run state and phase. -/
theorem LinksFit.setFields (hs : LinksFit s) (hf : t.line.slots = s.line.slots) (hp : t.line.phase = s.line.phase)
    (hr : t.line.run = s.line.run) : LinksFit t := by
  have hslot : ∀ j, t.slot j = s.slot j := fun j => by unfold State.slot; rw [hf]
  exact hs.of_slots (slotsInForm_of_ids hs.slots (fun j => by rw [hslot]) (fun j => by rw [hslot]) fun j _ => by rw [hslot])
    hp hr fun x _ => by rw [hslot]

theorem LinksFit.of_line (hs : LinksFit s) (hl : t.line = s.line) : LinksFit t :=
  hs.setFields (by rw [hl]) (by rw [hl]) (by rw [hl])

theorem LinksFit.calling (hs : LinksFit s) {x : Exchange} (hx : s.line.phase = .calling x) :
    s.line.run ≠ .stopped ∧ (x.kind = .regular → (s.slot x.slot).link = .live) ∧
      (x.kind = .probe → (s.slot x.slot).link = .vacant) :=
  hs.calls.2.2 x (by simp [exchangeOf, hx])

theorem afterExchange_linksFit (hf : SlotsInForm s) (hr : s.line.run ≠ .stopped) (k : Slot) : LinksFit (afterExchange k s) :=
  ⟨slotsInForm_of_moves hf (afterExchange_moves s k), afterExchange_callsFit k hr⟩

theorem startRound_linksFit (hf : SlotsInForm s) (hr : s.line.run = .running) : LinksFit (startRound s) :=
  ⟨slotsInForm_of_moves hf (startRound_moves s), startRound_callsFit hr⟩

/-! ### What a change keeps -/

/-- The change from `s` to `t` keeps R61 on its own, and the laws of the line controller on their own. -/
structure Keeps (s t : State) : Prop where
  positions : OnePosition s → OnePosition t
  links : LinksFit s → LinksFit t

theorem Keeps.refl (s : State) : Keeps s s := ⟨id, id⟩

theorem Keeps.trans (h : Keeps s t) (h' : Keeps t u) : Keeps s u := ⟨h'.positions ∘ h.positions, h'.links ∘ h.links⟩

theorem Sheds.keeps (h : Sheds s t) : Keeps s t := ⟨h.positions, fun hs => hs.of_line h.line⟩

theorem keeps_of_same (hline : t.line = s.line) (hlock : t.lock = s.lock) : Keeps s t := (sheds_of_lock hline hlock).keeps

/-- A change of the line controller. -/
theorem keeps_of_lock (hlock : t.lock = s.lock) (hl : LinksFit s → LinksFit t) : Keeps s t :=
  ⟨fun hp => onePosition_of_lock hp hlock, hl⟩

/-! ### The events of the line -/

/-- An answer in reception ends the exchange, with a treatment that keeps the laws. -/
theorem endReception_keeps {f : Exchange → State → State} (hp : ∀ x, OnePosition s → OnePosition (f x s))
    (hf : ∀ x, SlotsInForm s → (x.kind = .regular → (s.slot x.slot).link = .live) → SlotsInForm (f x s))
    (hr : ∀ x, (f x s).line.run = s.line.run) : Keeps s (endReception f s) := by
  unfold endReception
  split
  · next x hx =>
    split
    · refine ⟨fun h => onePosition_of_lock (hp x h) (afterExchange_lock ..), fun hs => ?_⟩
      obtain ⟨hrun, hlive, -⟩ := hs.calling hx
      exact afterExchange_linksFit (hf x hs.slots hlive) (by rw [hr]; exact hrun) _
    · exact .refl s
  all_goals exact .refl s

theorem answered_keeps (st : Status) (q : Option Request) (s : State) : Keeps s (answered st q s) :=
  endReception_keeps (fun x hp => takeAnswer_onePosition hp x st q) (fun _ hs hx => takeAnswer_slotsInForm hs hx st q)
    fun x => takeAnswer_run x st q

theorem receiveAnswer_keeps (bytes : List Byte) (b : Bool) (s : State) : Keeps s (receiveAnswer bytes b s) := by
  refine endReception_keeps (fun x hp => ?_) (fun x hs hx => ?_) fun x => ?_ <;> split
  · exact takeAnswer_onePosition hp x _ _
  · exact noAnswer_onePosition hp x
  · exact takeAnswer_slotsInForm hs hx _ _
  · exact noAnswer_slotsInForm hs hx
  · exact takeAnswer_run ..
  · exact noAnswer_run x

theorem answerOverlength_keeps (s : State) : Keeps s (endReception noAnswer s) :=
  endReception_keeps (fun x hp => noAnswer_onePosition hp x) (fun _ hs hx => noAnswer_slotsInForm hs hx) noAnswer_run

theorem expireWindow_keeps (s : State) : Keeps s (expireWindow s) := by
  unfold expireWindow
  split
  · next x hx =>
    split
    · exact .refl s
    · refine ⟨fun hp => onePosition_of_lock (noAnswer_onePosition hp x) (afterExchange_lock ..), fun hs => ?_⟩
      obtain ⟨hrun, hlive, -⟩ := hs.calling hx
      have hr : (noAnswer x s).line.run ≠ .stopped := by rw [noAnswer_run]; exact hrun
      exact (afterExchange_linksFit (noAnswer_slotsInForm hs.slots hlive) hr _).setFields rfl rfl rfl
  all_goals exact .refl s

theorem openReception_keeps (s : State) : Keeps s (openReception s) := by
  unfold openReception
  split
  · next x hx =>
    split
    · exact keeps_of_lock rfl fun hs => hs.setFields rfl rfl rfl
    · refine keeps_of_lock rfl fun hs => ⟨slotsInForm_of_moves hs.slots (.of_line rfl), nofun, nofun, fun y hy => ?_⟩
      cases hy
      have hcall := hs.calling hx
      exact hcall
  all_goals exact .refl s

theorem endEmptyRound_keeps (s : State) : Keeps s (endEmptyRound s) := by
  unfold endEmptyRound
  split
  · next hp =>
    refine keeps_of_lock (endRound_lock s) fun hs => ?_
    exact ⟨slotsInForm_of_moves hs.slots (endRound_moves s), endRound_callsFit (hs.calls.2.1 (.inl hp))⟩
  all_goals exact .refl s

theorem roundDue_keeps (s : State) : Keeps s (roundDue s) := by
  unfold roundDue
  split
  · next hp => exact keeps_of_lock (startRound_lock s) fun hs => startRound_linksFit hs.slots (hs.calls.2.1 (.inr hp))
  · split
    · exact keeps_of_lock rfl fun hs => hs.setFields rfl rfl rfl
    · exact .refl s
  · split
    · exact keeps_of_lock rfl fun hs => hs.setFields rfl rfl rfl
    · exact .refl s
  · exact .refl s

/-! ### The other events -/

theorem lowerBudget_sheds (i : RecIdx) (s : State) : Sheds s (lowerBudget i s) := by
  unfold lowerBudget
  split
  · exact .refl s
  · dsimp only
    split <;> exact sheds_of_lock rfl rfl

theorem testOverdue_sheds (i : RecIdx) (s : State) : Sheds s (testOverdue i s) := by
  unfold testOverdue
  split
  · exact .refl s
  · split
    · exact sheds_of_lock rfl rfl
    · exact .refl s

theorem ageEvent_sheds (s : State) : Sheds s (ageEvent s) := by
  unfold ageEvent
  split
  · exact .refl s
  · have hclock : Sheds s (ageClockAndBand s) := sheds_of_lock rfl rfl
    exact (hclock.trans (forEach_sheds lowerBudget_sheds _ _)).trans (forEach_sheds testOverdue_sheds _ _)

theorem mergeStep_sheds (s : State) : Sheds s (mergeStep s) := by
  unfold mergeStep
  split
  · exact .refl s
  · dsimp only
    split <;> exact sheds_of_lock rfl rfl

/-! ### RESTACK (R157) -/

theorem makeFound_sheds (c : Col) (tag : Tag) (s : State) : Sheds s (makeFound c tag s) := by
  unfold makeFound
  split
  · exact .refl s
  · exact makeNoted_sheds ..

theorem resolveStranded_sheds (c : Col) (tags : List Tag) (s0 s : State) : Sheds s (resolveStranded c tags s0 s) := by
  unfold resolveStranded
  split
  · exact .refl s
  · split
    · exact .refl s
    · split
      · split
        · exact parkRecord_sheds ..
        · exact resolveAbsentPlacement_sheds ..
      · split
        · exact resolveLiftInPlace_sheds ..
        · exact retire_sheds ..
      · exact .refl s

theorem sortRecords_sheds (c : Col) (tags : List Tag) (s : State) : Sheds s (sortRecords c tags s) :=
  (((forEach_sheds (makeFound_sheds c) _ s).trans (resolveStranded_sheds c tags s _)).trans (retireAll_sheds _ .missing _)).trans
    (forEach_sheds parkRecord_sheds _ _)

theorem setLevel_sheds (p : RecIdx × Nat) (s : State) : Sheds s (setLevel p s) :=
  sheds_of_only (updRec_only p.1 _ s) (by decide) (by decide)

theorem rewriteStack_sheds (c : Col) (tags : List Tag) (s : State) : Sheds s (rewriteStack c tags s) := by
  rw [rewriteStack_eq]
  have hstacked : Sheds s (stacked c tags s) := (forEach_sheds setLevel_sheds _ s).trans (sheds_of_lock rfl rfl)
  exact hstacked.trans (refreshStack_sheds c _)

theorem applyRestack_sheds (c : Col) (tags : List Tag) (s : State) : Sheds s (applyRestack c tags s).1 :=
  (((sortRecords_sheds c tags s).trans (rewriteStack_sheds c tags _)).trans (settleColumn_sheds c _)).trans
    (retireAll_sheds _ .unplaced _)

theorem ownRestack_sheds (col : Byte) (tags : List Tag) (s : State) : Sheds s (ownRestack col tags s).1 := by
  unfold ownRestack
  split
  · exact .refl s
  · split
    · exact .refl s
    · split
      · exact .refl s
      · split
        · exact .refl s
        · split
          · exact .refl s
          · split
            · exact .refl s
            · exact applyRestack_sheds ..

end Sys2Proof.Machine
end

section
namespace Sys2Proof.Machine

open Sys2Proof.Safety

variable {s t u : State} {c : Col} {i : RecIdx} {k : Slot} {x : Instr} {own : State → State × Response}

/-! ### The owners of host commands that leave the line -/

theorem dropCollectorWait_sheds (r : Record) (h : Handle) (s : State) : Sheds s (dropCollectorWait r h s) := by
  obtain ⟨hne, hlock, -, hwaits⟩ := dropCollectorWait_filtered r h s
  refine ⟨(dropCollectorWait_only r h s).line (by decide), fun d => .inr ?_, fun d => ?_⟩ <;> by_cases e : d = r.column
  · rw [e, hlock]
  · exact (hne d e).1
  · rw [e, hwaits]
    exact List.filter_sublist
  · rw [(hne d e).2]

theorem endSurveyLockOf_sheds (c : Col) (k : Slot) (s : State) : Sheds s (endSurveyLockOf c k s) := by
  unfold endSurveyLockOf
  split
  · exact endLock_sheds c s
  · exact .refl s

theorem ownColumnDefine_sheds (col x y capacity classes : Byte) (s : State) :
    Sheds s (ownColumnDefine col x y capacity classes s).1 := by
  unfold ownColumnDefine
  split
  · split
    · exact .refl s
    · split
      all_goals exact sheds_of_lock rfl rfl
  · exact .refl s

theorem ownColumnService_sheds (col state : Byte) (s : State) : Sheds s (ownColumnService col state s).1 := by
  unfold ownColumnService
  split
  · next c asked _ _ =>
    cases (s.col c).service <;> dsimp only
    case opened | draining | out =>
      split
      · exact .refl s
      · split
        · exact .refl s
        · exact sheds_of_lock rfl rfl
    all_goals exact .refl s
  · exact .refl s

theorem ownAgeStart_sheds (s : State) : Sheds s (ownAgeStart s).1 := by
  unfold ownAgeStart
  split <;> exact sheds_of_lock rfl rfl

theorem ownPageWrite_sheds (row op : Byte) (tag : Tag) (cls : Byte) (dueSpan budget orderRef : BitVec 16) (keep : Byte)
    (s : State) : Sheds s (ownPageWrite row op tag cls dueSpan budget orderRef keep s).1 := by
  unfold ownPageWrite
  split <;> exact sheds_of_lock rfl rfl

theorem ownPageMerge_sheds (count : Byte) (s : State) : Sheds s (ownPageMerge count s).1 := by
  unfold ownPageMerge
  dsimp only
  split
  · exact .refl s
  · split
    all_goals exact sheds_of_lock rfl rfl

theorem ownManifestClear_sheds (s : State) : Sheds s (ownManifestClear s).1 := by
  unfold ownManifestClear
  split <;> exact sheds_of_lock rfl rfl

theorem ownAssign_sheds (idx gen slot : Byte) (s : State) : Sheds s (ownAssign idx gen slot s).1 := by
  unfold ownAssign
  split
  · split
    · exact .refl s
    · next r _ =>
      cases r.state <;> dsimp only
      case parked =>
        split
        · exact promiseRecord_sheds ..
        · exact .refl s
      case promised =>
        split
        · split
          · exact .refl s
          · exact (dropCollectorWait_sheds r _ s).trans (promiseRecord_sheds ..)
        · exact .refl s
      all_goals exact .refl s
  · exact .refl s

theorem ownUnassign_sheds (idx gen : Byte) (s : State) : Sheds s (ownUnassign idx gen s).1 := by
  unfold ownUnassign
  split
  · exact .refl s
  · split
    · exact .refl s
    · next r _ =>
      cases r.state <;> dsimp only
      case promised => exact (dropCollectorWait_sheds r _ s).trans (parkRecord_sheds ..)
      all_goals exact .refl s

theorem ownCancel_sheds (idx gen : Byte) (s : State) : Sheds s (ownCancel idx gen s).1 := by
  unfold ownCancel
  split
  · exact .refl s
  · split
    · exact .refl s
    · next r _ =>
      cases r.state <;> dsimp only
      case reserved => exact retire_sheds ..
      all_goals exact .refl s

theorem ownRebudget_sheds (idx gen : Byte) (budget : BitVec 16) (s : State) : Sheds s (ownRebudget idx gen budget s).1 := by
  unfold ownRebudget
  split
  · exact .refl s
  · split
    · exact .refl s
    · exact setRec_sheds ..

theorem ownSurveyAsk_sheds (col slot : Byte) (s : State) : Sheds s (ownSurveyAsk col slot s).1 := by
  unfold ownSurveyAsk
  split
  · split
    · exact .refl s
    · split
      · exact .refl s
      · split
        · exact sheds_of_lock rfl rfl
        · split
          · exact .refl s
          · exact (endSurveyLockOf_sheds _ _ s).trans (sheds_of_lock rfl rfl)
  · exact .refl s

/-! ### The settings of the line (R111, R114, R123, R124, R146, R163, R164) -/

theorem ownSlotMode_keeps (slot mode : Byte) (s : State) : Keeps s (ownSlotMode slot mode s).1 := by
  unfold ownSlotMode
  split
  · next k m _ _ =>
    refine keeps_of_lock rfl fun hs => hs.of_slots (setSlot_slotsInForm (k := k) hs.slots rfl rfl fun _ => rfl) rfl rfl
      fun y _ => ?_
    change ((s.setSlot k { s.slot k with nextMode := m }).slot y.slot).link = _
    rw [setSlot_slot_if]
    split
    · next e => rw [e]
    · rfl
  · exact .refl s

theorem ownBlockMode_keeps (mode a b : Byte) (s : State) : Keeps s (ownBlockMode mode a b s).1 := by
  unfold ownBlockMode
  split
  · exact keeps_of_lock rfl fun hs => hs.setFields rfl rfl rfl
  · split
    · exact keeps_of_lock rfl fun hs => hs.setFields rfl rfl rfl
    · exact .refl s
  · exact .refl s

/-- R146: the slot that is called is not LOST, so it is not the one that becomes VACANT. -/
theorem ownClearLost_keeps (slot : Byte) (s : State) : Keeps s (ownClearLost slot s).1 := by
  unfold ownClearLost
  split
  · exact .refl s
  · next k _ =>
    cases hl : (s.slot k).link <;> dsimp only
    case lost =>
      refine keeps_of_lock rfl fun hs => hs.of_slots (vacate_slotsInForm hs.slots k _) rfl rfl fun y hy => ?_
      have hne : k ≠ y.slot := by
        obtain ⟨-, hlive, hvacant⟩ := hs.calls.2.2 y hy
        rintro rfl
        cases hkind : y.kind with
        | regular => rw [hlive hkind] at hl; cases hl
        | probe => rw [hvacant hkind] at hl; cases hl
      change ((s.setSlot k (s.slot k).vacated).slot y.slot).link = _
      rw [setSlot_slot_if, if_neg hne]
    all_goals exact .refl s

theorem ownLinkStart_keeps (s : State) : Keeps s (ownLinkStart s).1 := by
  unfold ownLinkStart
  split
  · exact keeps_of_lock (startRound_lock _) fun hs => startRound_linksFit (slotsInForm_of_moves hs.slots (.of_line rfl)) rfl
  · exact .refl s
  · next hrun =>
    refine keeps_of_lock rfl fun hs => ⟨slotsInForm_of_moves hs.slots (.of_line rfl), fun h => ?_, fun _ => rfl,
      fun y hy => ⟨nofun, (hs.calls.2.2 y hy).2⟩⟩
    have hstopped := hs.calls.1 h
    rw [hrun] at hstopped
    cases hstopped

theorem ownLinkStop_keeps (s : State) : Keeps s (ownLinkStop s).1 := by
  have stopped : Keeps s (stopLink s) :=
    keeps_of_lock (stopLink_lock s) fun hs => ⟨slotsInForm_of_moves hs.slots (.of_line rfl), stopLink_callsFit s⟩
  unfold ownLinkStop
  split
  · exact .refl s
  · exact .refl s
  · split
    · next y hy =>
      refine keeps_of_lock rfl fun hs => ⟨slotsInForm_of_moves hs.slots (.of_line rfl), fun h => ?_, fun h => ?_,
        fun z hz => ⟨nofun, (hs.calls.2.2 z hz).2⟩⟩
      · change s.line.phase = _ at h
        rw [hy] at h
        cases h
      · change s.line.phase = _ ∨ s.line.phase = _ at h
        rw [hy] at h
        rcases h with h | h <;> cases h
    all_goals exact stopped

theorem ownZoneSetup_keeps (p : ZoneParams) (s : State) : Keeps s (ownZoneSetup p s).1 := by
  unfold ownZoneSetup
  split
  · exact ⟨fun hp => hp, fun hs => hs.setFields rfl rfl rfl⟩
  · exact .refl s

/-- R164: no lock and no wait list entry is left, and every slot is VACANT; the link is STOPPED, so no slot is called. -/
theorem ownZoneClear_keeps (s : State) : Keeps s (ownZoneClear s).1 := by
  unfold ownZoneClear
  split
  · next hstop =>
    have hrun : s.line.run = .stopped := by
      simp only [State.bothStopped, Bool.and_eq_true, decide_eq_true_eq] at hstop
      exact hstop.1
    change Keeps s (clearZone s)
    refine ⟨fun hp => ?_, fun hs => hs.of_slots ⟨fun j => ?_, fun j _ => ?_, fun j l hj => ?_⟩ rfl rfl fun y hy => ?_⟩
    · exact positions_sublist hp (fun c => by simp [positionsIn, clearZone_lockOf, clearZone_waitsOf])
        fun c => by simp [clearZone_waitsOf]
    · simp [clearZone_slot, SlotRec.cleared, SlotRec.vacated]
    · simp [clearZone_slot, SlotRec.cleared, SlotRec.vacated]
    · simp [clearZone_slot, SlotRec.cleared, SlotRec.vacated] at hj
    · exact absurd hrun (hs.calls.2.2 y hy).1
  · exact .refl s

/-- Every owner of a host command keeps the laws. -/
theorem hostOwner_keeps (hx : hostOwner x = some own) (s : State) : Keeps s (own s).1 := by
  cases x <;> cases hx
  case zoneSetup p => exact ownZoneSetup_keeps p s
  case zoneClear => exact ownZoneClear_keeps s
  case columnDefine c x y k m => exact (ownColumnDefine_sheds c x y k m s).keeps
  case columnService c v => exact (ownColumnService_sheds c v s).keeps
  case readColumn c => rw [ownReadColumn_state]; exact .refl s
  case slotMode k m => exact ownSlotMode_keeps k m s
  case blockMode m a b => exact ownBlockMode_keeps m a b s
  case readSlot k => rw [ownReadSlot_state]; exact .refl s
  case clearLost k => exact ownClearLost_keeps k s
  case linkStart => exact ownLinkStart_keeps s
  case linkStop => exact ownLinkStop_keeps s
  case ageStart => exact (ownAgeStart_sheds s).keeps
  case rebudget i g b => exact (ownRebudget_sheds i g b s).keeps
  case pageWrite r o t c d b n k => exact (ownPageWrite_sheds r o t c d b n k s).keeps
  case pageMerge n => exact (ownPageMerge_sheds n s).keeps
  case manifestClear => exact (ownManifestClear_sheds s).keeps
  case readHandoff i g => rw [ownReadHandoff_state]; exact .refl s
  case assign i g k => exact (ownAssign_sheds i g k s).keeps
  case unassign i g => exact (ownUnassign_sheds i g s).keeps
  case cancel i g => exact (ownCancel_sheds i g s).keeps
  case surveyAsk c k => exact (ownSurveyAsk_sheds c k s).keeps
  case restack c tags => exact (ownRestack_sheds c tags s).keeps
  case blockEndEnable | statsClear => exact keeps_of_lock rfl fun hs => hs.setFields rfl rfl rfl
  case ageStop | surveyClear | noticeAck | noticeEnable => exact keeps_of_same rfl rfl
  case readStats | readAge | mergeResult | manifestFind | manifestCount | findTag | freeCount | surveyRead | notices =>
    exact .refl s

/-! ### The planner port and the phases of reset -/

theorem takeCommand_keeps (hx : hostOwner x = some own) (s : State) : Keeps s (takeCommand own s) :=
  (hostOwner_keeps hx s).trans (keeps_of_same rfl rfl)

theorem endFrame_keeps {f : State → State} (hf : ∀ u, Keeps u (f u)) (n : Nat) (s : State) : Keeps s (endFrame n f s) := by
  have port : ∀ p, Keeps s (s.setPort p) := fun _ => keeps_of_same rfl rfl
  unfold endFrame
  split
  · exact port _
  · exact port _
  · split
    · exact port _
    · exact port _
    · exact port _
    · exact (port _).trans (hf _)

theorem hostFrame_keeps {f : State → State} (hf : ∀ u, Keeps u (f u)) (n : Nat) (s : State) : Keeps s (hostFrame n f s) := by
  unfold hostFrame
  split
  · exact endFrame_keeps hf _ s
  · exact endFrame_keeps (f := discardFrame .over) (fun _ => keeps_of_same rfl rfl) _ s

theorem judgeFrame_keeps (bytes : List Byte) (s : State) : Keeps s (judgeFrame bytes s) := by
  unfold judgeFrame
  split
  · exact keeps_of_same rfl rfl
  · exact keeps_of_same rfl rfl
  · exact keeps_of_same rfl rfl
  · exact keeps_of_same rfl rfl
  · split
    · next hx => exact takeCommand_keeps hx s
    · exact keeps_of_same rfl rfl

theorem beginFrameTooSoon_keeps (s : State) : Keeps s (beginFrameTooSoon s) := by
  unfold beginFrameTooSoon
  split
  · exact keeps_of_same rfl rfl
  · exact keeps_of_same rfl rfl
  · split <;> exact keeps_of_same rfl rfl

theorem finishCommand_keeps (s : State) : Keeps s (finishCommand s) := by
  unfold finishCommand
  split <;> exact keeps_of_same rfl rfl

theorem raiseResetN_keeps (s : State) : Keeps s (raiseResetN s) := by
  unfold raiseResetN
  split <;> exact keeps_of_same rfl rfl

theorem becomeReady_keeps (s : State) : Keeps s (becomeReady s) := by
  unfold becomeReady
  split <;> exact keeps_of_same rfl rfl

/-- R169: the power-on state is under the laws, from whatever state the part is reset. -/
theorem resetPart_keeps (s : State) : Keeps s (resetPart s) :=
  have hs := resetPart_coherent s
  ⟨fun _ => hs.positions, fun _ => ⟨hs.slots, hs.calls⟩⟩

/-! ### Every command -/

theorem exec_keeps (x : Instr) (s : State) : ∃ t, exec x s = .next t ∧ Keeps s t := by
  cases hx : hostOwner x with
  | some own =>
    obtain ⟨n, hn⟩ := exec_hostOwner (s := s) hx
    exact ⟨_, hn, hostFrame_keeps (takeCommand_keeps hx) n s⟩
  | none =>
    cases x
    case nop filler => exact ⟨_, rfl, hostFrame_keeps (f := takeNop) (fun _ => keeps_of_same rfl rfl) _ s⟩
    case frameEnd bytes leftover => exact ⟨_, rfl, endFrame_keeps (judgeFrame_keeps bytes) _ s⟩
    case frameBegunTooSoon => exact ⟨_, rfl, beginFrameTooSoon_keeps s⟩
    case commandFinish => exact ⟨_, rfl, finishCommand_keeps s⟩
    case reset => exact ⟨_, rfl, resetPart_keeps s⟩
    case partReady => exact ⟨_, rfl, becomeReady_keeps s⟩
    case resetNRise => exact ⟨_, rfl, raiseResetN_keeps s⟩
    case roundPeriodDue => exact ⟨_, rfl, roundDue_keeps s⟩
    case replyWindowExpiry => exact ⟨_, rfl, expireWindow_keeps s⟩
    case answerEnd bytes b => exact ⟨_, rfl, receiveAnswer_keeps bytes b s⟩
    case answerOverlength => exact ⟨_, rfl, answerOverlength_keeps s⟩
    case emptyRoundEnd => exact ⟨_, rfl, endEmptyRound_keeps s⟩
    case answerStartBit => exact ⟨_, rfl, openReception_keeps s⟩
    case leaseExpiry c => exact ⟨_, rfl, (expireLock_sheds c s).keeps⟩
    case ageEvent => exact ⟨_, rfl, (ageEvent_sheds s).keeps⟩
    case mergeStep => exact ⟨_, rfl, (mergeStep_sheds s).keeps⟩
    case join | leave | park | lock | setDown | pickUp | claim | yield | yieldSurvey | survey =>
      exact ⟨_, rfl, answered_keeps _ _ s⟩
    all_goals cases hx

theorem step_keeps (h : step s = .next t) : Keeps s t := by
  unfold step at h
  split at h
  · cases h
    exact keeps_of_same rfl rfl
  · next x rest _ =>
    obtain ⟨u, hu, hkeeps⟩ := exec_keeps x (s.setPending rest)
    rw [hu] at h
    cases h
    have hqueue : Keeps s (s.setPending rest) := keeps_of_same rfl rfl
    exact hqueue.trans hkeeps

/-- Settles O58: the law of lock positions and the laws of the line controller are each kept by every command on their own. -/
theorem positionsAndSlotsKept : Obligations.PositionsAndSlotsKept := by
  refine ⟨fun s t hp hstep => (step_keeps hstep).positions hp, fun s t hf hc hstep => ?_⟩
  obtain ⟨hslots, hcalls⟩ := (step_keeps hstep).links ⟨hf, hc⟩
  exact ⟨hslots, hcalls⟩

end Sys2Proof.Machine
end

section
/-! The manifest (chapter 6): the load pages and the map, what one merge step does to them, and the host commands that write
them. -/

namespace Sys2Proof

theorem Page.other_ne (p : Page) : p.other ≠ p := by cases p <;> decide

@[simp] theorem Page.other_other (p : Page) : p.other.other = p := by cases p <;> rfl

/-- There are two pages (R97). -/
theorem Page.eq_other {p q : Page} (h : q ≠ p) : q = p.other := by revert h; cases p <;> cases q <;> decide

end Sys2Proof

namespace Sys2Proof.Machine

open Sys2Proof Sys2Proof.Safety

/-! ### The load pages (R97) -/

section
variable {s : State} {m : Manifest} {p : Page} {l : LoadPage}

@[simp] theorem setPage_page_self : (m.setPage p l).page p = l := by cases p <;> rfl

@[simp] theorem setPage_page_other : (m.setPage p l).page p.other = m.page p.other := by cases p <;> rfl

/-- A page written with its state kept leaves every page's state. -/
theorem setPage_state (h : l.state = (m.page p).state) (q : Page) : ((m.setPage p l).page q).state = (m.page q).state := by
  by_cases hq : q = p
  · rw [hq, setPage_page_self, h]
  · rw [Page.eq_other hq, setPage_page_other]

@[simp] theorem setPage_map : (m.setPage p l).map = m.map := by cases p <;> rfl

@[simp] theorem setPage_merge : (m.setPage p l).merge = m.merge := by cases p <;> rfl

/-- The page that is FILLING when the other one is not. -/
theorem filling_eq (hp : (m.page p).state = .filling) (ho : (m.page p.other).state ≠ .filling) : m.filling = p := by
  cases p
  · exact if_pos hp
  · exact if_neg ho

/-- The filling page and the other one follow the pages' states. -/
theorem filling_congr {n : Manifest} (h : ∀ p, (n.page p).state = (m.page p).state) : n.filling = m.filling := by
  have h0 : n.p0.state = m.p0.state := h .p0
  rw [Manifest.filling, h0, Manifest.filling]

/-- R97: the page beside the FILLING one is EMPTY or MERGING. -/
theorem other_state_of_pagesInForm (h : PagesInForm s) :
    (s.manifest.page s.manifest.filling.other).state = .empty ∨ (s.manifest.page s.manifest.filling.other).state = .merging := by
  obtain ⟨-, hidle, hmerging⟩ := h
  cases hg : s.manifest.merge with
  | none => exact .inl (hidle hg)
  | some g =>
    obtain ⟨hpage, hstate, -⟩ := hmerging g hg
    exact .inr (hpage ▸ hstate)

/-- R97: one page only is FILLING. -/
theorem filling_eq_of_pagesInForm (h : PagesInForm s) (hp : (s.manifest.page p).state = .filling) : s.manifest.filling = p := by
  by_contra hne
  rw [Page.eq_other (Ne.symm hne)] at hp
  rcases other_state_of_pagesInForm h with ho | ho <;> rw [ho] at hp <;> cases hp

/-- The pages agree with the merge when they do so about some page that is FILLING. -/
theorem pagesInForm_of_filling (hp : (s.manifest.page p).state = .filling)
    (hidle : s.manifest.merge = none → (s.manifest.page p.other).state = .empty)
    (hmerge : ∀ g ∈ s.manifest.merge, g.page = p.other ∧ (s.manifest.page p.other).state = .merging ∧ g.taken < g.count ∧
      g.count ≤ Config.pageRows ∧
      g.tally.inserted + g.tally.replaced + g.tally.deleted + g.tally.absent + g.tally.refused = g.taken) :
    PagesInForm s := by
  have ho : (s.manifest.page p.other).state ≠ .filling := by
    cases hg : s.manifest.merge with
    | none => rw [hidle hg]; decide
    | some g =>
      obtain ⟨-, hstate, -⟩ := hmerge g hg
      rw [hstate]
      decide
  have hf := filling_eq hp ho
  refine ⟨hf ▸ hp, fun hg => hf ▸ hidle hg, fun g hg => ?_⟩
  obtain ⟨hpage, hstate, hrest⟩ := hmerge g hg
  exact ⟨hpage.trans (by rw [hf]), hpage ▸ hstate, hrest⟩

/-- Pages and merge stay in agreement while the states of the pages and the merge stay. -/
theorem pagesInForm_congr {t : State} (h : PagesInForm s)
    (hp : ∀ p, (t.manifest.page p).state = (s.manifest.page p).state) (hg : t.manifest.merge = s.manifest.merge) :
    PagesInForm t := by
  have hf : t.manifest.filling = s.manifest.filling := filling_congr hp
  simp only [PagesInForm, hf, hp, hg]
  exact h

end

/-! ### PAGE_WRITE (R98) -/

section
variable {s : State} {row op : Byte} {tag : Tag} {cls : Byte} {span budget order : BitVec 16} {keep : Byte} {n : Fin 16}

theorem ownPageWrite_range (h : 15 < row.toNat ∨ 1 < op.toNat ∨ 2 < cls.toNat) :
    ownPageWrite row op tag cls span budget order keep s = answer .range s := by
  unfold ownPageWrite
  split
  · next hrow hop hcls =>
    rcases h with h | h | h
    · rw [readRowNo_none h] at hrow; cases hrow
    · rw [readRowOp_none h] at hop; cases hop
    · rw [readClass_none h] at hcls; cases hcls
  · rfl

/-- The row that PAGE_WRITE's operands spell (R98). -/
abbrev rowWritten (op : Byte) (tag : Tag) (cls : Byte) (span budget order : BitVec 16) (keep : Byte) : Row :=
  ⟨if op = 0 then .upsert else .delete, tag, if cls = 0 then .ambient else if cls = 1 then .chilled else .frozen, span.toNat,
    if 4095 < budget.toNat then 4095 else budget.toNat, order.toNat, decide (keep ≠ 0)⟩

theorem ownPageWrite_inRange (hrow : row.toNat = n.val) (hop : op.toNat ≤ 1) (hcls : cls.toNat ≤ 2) :
    ownPageWrite row op tag cls span budget order keep s =
      (s.setManifest (s.manifest.setPage s.manifest.filling
        { s.manifest.page s.manifest.filling with
          rows := (s.manifest.page s.manifest.filling).rows.set n (rowWritten op tag cls span budget order keep) }),
        ⟨.ok, [Config.pageCode s.manifest.filling]⟩) := by
  have hbudget : min budget.toNat 4095 = if 4095 < budget.toNat then 4095 else budget.toNat := by split <;> omega
  simp only [ownPageWrite, readRowNo_eq hrow, readRowOp_eq hop, readClass_eq hcls, hbudget]

end

/-- Settles O21: a free port hands the frame to the owner, and the page named FILLING is the one page that is. -/
theorem pageWriteJudged : Obligations.PageWriteJudged := by
  intro s row op tag cls span budget order keep hp
  have taken : ∀ {u r}, ownPageWrite row op tag cls span budget order keep s = (u, r) →
      exec (.pageWrite row op tag cls span budget order keep) s = .next (commandTaken s u 14 r) :=
    next_taken hp (by decide) (ownPageWrite_blind row op tag cls span budget order keep)
  refine ⟨fun h => taken (ownPageWrite_range h), fun hform n p hrow hop hcls hfill => taken ?_⟩
  rw [ownPageWrite_inRange hrow hop hcls, filling_eq_of_pagesInForm hform hfill]

/-! ### PAGE_MERGE and MANIFEST_CLEAR (R99, R107) -/

section
variable {s : State} {count : Byte} {p : Page}

theorem ownPageMerge_range (h : count.toNat = 0 ∨ 16 < count.toNat) : ownPageMerge count s = answer .range s := if_pos h

theorem ownPageMerge_busy (h : ¬ (count.toNat = 0 ∨ 16 < count.toNat))
    (hm : (s.manifest.page s.manifest.filling.other).state = .merging) : ownPageMerge count s = answer .busy s :=
  (if_neg h).trans (if_pos hm)

/-- The manifest after an accepted PAGE_MERGE of the page `p` (R99). -/
def Manifest.turned (m : Manifest) (p : Page) (count : Nat) : Manifest :=
  { (m.setPage p { m.page p with state := .merging }).setPage p.other ⟨.filling, Vector.replicate 16 Row.cleared⟩ with
    merge := some ⟨p, count, 0, Tally.zero⟩ }

theorem turned_map {m : Manifest} {count : Nat} : (m.turned p count).map = m.map := by cases p <;> rfl

theorem ownPageMerge_accepted (h : ¬ (count.toNat = 0 ∨ 16 < count.toNat))
    (hm : (s.manifest.page s.manifest.filling.other).state ≠ .merging) :
    ownPageMerge count s = (s.setManifest (s.manifest.turned s.manifest.filling count.toNat),
      ⟨.ok, [Config.pageCode s.manifest.filling]⟩) :=
  (if_neg h).trans (if_neg hm)

theorem somePage_merging {m : Manifest} :
    (m.p0.state = .merging ∨ m.p1.state = .merging) ↔ ∃ p, (m.page p).state = .merging :=
  ⟨fun h => h.elim (fun h => ⟨.p0, h⟩) (fun h => ⟨.p1, h⟩), fun ⟨p, h⟩ => by cases p; exacts [.inl h, .inr h]⟩

theorem ownManifestClear_busy (h : ∃ p, (s.manifest.page p).state = .merging) : ownManifestClear s = answer .busy s :=
  if_pos (somePage_merging.2 h)

theorem ownManifestClear_accepted (h : ∀ p, (s.manifest.page p).state ≠ .merging) :
    ownManifestClear s = answer .ok (s.setManifest { s.manifest with map := [] }) :=
  if_neg fun hm => (somePage_merging.1 hm).elim h

end

/-- Settles O22: both owners check in the order of their rules, and the page beside the FILLING one is EMPTY or MERGING. -/
theorem pageMergeAndMapClear : Obligations.PageMergeAndMapClear := by
  intro s hp hform
  have merged : ∀ {count u r}, ownPageMerge count s = (u, r) → exec (.pageMerge count) s = .next (commandTaken s u 1 r) :=
    fun {count} => next_taken hp (by decide) (ownPageMerge_blind count)
  have cleared : ∀ {u r}, ownManifestClear s = (u, r) → exec .manifestClear s = .next (commandTaken s u 0 r) :=
    next_taken hp (by decide) ownManifestClear_blind
  refine ⟨fun count p hfill => ⟨fun h => merged (ownPageMerge_range h), fun hlo hhi => ?_⟩,
    fun h => cleared (ownManifestClear_busy h), fun h => cleared (ownManifestClear_accepted h)⟩
  obtain rfl := filling_eq_of_pagesInForm hform hfill
  have hrange : ¬ (count.toNat = 0 ∨ 16 < count.toNat) := by omega
  refine ⟨fun ho => merged (ownPageMerge_busy hrange ho), fun ho => merged (ownPageMerge_accepted hrange ?_)⟩
  rw [ho]
  decide

end Sys2Proof.Machine
end

section
/-! The manifest map as a list with rising tags (R95), and the merge steps that write it (R100 to R103). -/

namespace Sys2Proof.Machine

open Sys2Proof Sys2Proof.Safety

/-! ### Entries put in and dropped (R95) -/

/-- R95 of the map as a list. -/
abbrev MapOk (l : List BinFacts) : Prop :=
  l.Pairwise (fun a b => a.tag.toNat < b.tag.toNat) ∧ (∀ e ∈ l, e.tag ≠ 0) ∧ l.length ≤ 256

/-- The map holds an entry of this tag. -/
abbrev Listed (tag : Tag) (l : List BinFacts) : Prop := ∃ e ∈ l, e.tag = tag

section
variable {e f : BinFacts} {l l' : List BinFacts} {tag : Tag}

theorem MapOk.sublist (h : MapOk l) (hs : l'.Sublist l) : MapOk l' := by
  obtain ⟨hrise, hzero, hlen⟩ := h
  exact ⟨hrise.sublist hs, fun e he => hzero e (hs.subset he), hs.length_le.trans hlen⟩

theorem MapOk.length_le (h : MapOk l) : l.length ≤ 256 := h.2.2

theorem dropEntry_sublist : (dropEntry tag l).Sublist l := List.filter_sublist

/-- What is put in is the entry, before, in place of, or behind the entries that stand. -/
theorem mem_putEntry (h : f ∈ putEntry e l) : f = e ∨ f ∈ l := by
  induction l with
  | nil => exact .inl (List.mem_singleton.1 h)
  | cons a l ih =>
    unfold putEntry at h
    split at h
    · exact List.mem_cons.1 h
    · split at h
      · exact (List.mem_cons.1 h).imp_right (List.mem_cons_of_mem a)
      · rcases List.mem_cons.1 h with rfl | h
        · exact .inr List.mem_cons_self
        · exact (ih h).imp_right (List.mem_cons_of_mem a)

theorem putEntry_rises (h : l.Pairwise (fun a b => a.tag.toNat < b.tag.toNat)) :
    (putEntry e l).Pairwise (fun a b => a.tag.toNat < b.tag.toNat) := by
  induction l with
  | nil => exact List.pairwise_singleton _ e
  | cons a l ih =>
    obtain ⟨hhead, htail⟩ := List.pairwise_cons.1 h
    unfold putEntry
    split
    · next hlt => exact List.pairwise_cons.2 ⟨fun b hb => (List.mem_cons.1 hb).elim (fun e => e ▸ hlt)
        fun hb => hlt.trans (hhead b hb), h⟩
    · next hge =>
      split
      · next heq => exact List.pairwise_cons.2 ⟨fun b hb => heq ▸ hhead b hb, htail⟩
      · next hne =>
        have hlt : a.tag.toNat < e.tag.toNat := by
          have := mt BitVec.eq_of_toNat_eq hne
          omega
        exact List.pairwise_cons.2 ⟨fun b hb => (mem_putEntry hb).elim (fun e => e ▸ hlt) (hhead b), ih htail⟩

theorem putEntry_length_le : (putEntry e l).length ≤ l.length + 1 := by
  induction l with
  | nil => exact Nat.le_refl 1
  | cons a l ih =>
    unfold putEntry
    split
    · exact Nat.le_refl _
    · split
      · exact Nat.le_succ _
      · exact Nat.succ_le_succ ih

/-- In a map with rising tags, the entry of a listed tag is replaced. -/
theorem putEntry_length_of_listed (h : l.Pairwise (fun a b => a.tag.toNat < b.tag.toNat)) (hl : Listed e.tag l) :
    (putEntry e l).length = l.length := by
  induction l with
  | nil => exact absurd hl (by simp [Listed])
  | cons a l ih =>
    obtain ⟨hhead, htail⟩ := List.pairwise_cons.1 h
    obtain ⟨b, hb, hbe⟩ := hl
    unfold putEntry
    split
    · next hlt =>
      have hle : a.tag.toNat ≤ b.tag.toNat := (List.mem_cons.1 hb).elim (fun e => e ▸ Nat.le_refl _) fun hb => (hhead b hb).le
      rw [hbe] at hle
      omega
    · split
      · rfl
      · next hne =>
        have hin : b ∈ l := (List.mem_cons.1 hb).resolve_left fun e => hne (e ▸ hbe.symm)
        exact congrArg (· + 1) (ih htail ⟨b, hin, hbe⟩)

/-- R95, R101: an entry goes into a map that lists its tag or has room. -/
theorem MapOk.putEntry (h : MapOk l) (h0 : e.tag ≠ 0) (hroom : Listed e.tag l ∨ l.length < 256) : MapOk (putEntry e l) := by
  obtain ⟨hrise, hzero, hlen⟩ := h
  refine ⟨putEntry_rises hrise, fun b hb => (mem_putEntry hb).elim (fun e => e ▸ h0) (hzero b), ?_⟩
  rcases hroom with hl | hlt
  · exact (putEntry_length_of_listed hrise hl).trans_le hlen
  · exact putEntry_length_le.trans hlt

theorem putEntry_find_self : (putEntry e l).find? (fun b => b.tag = e.tag) = some e := by
  induction l with
  | nil => simp [Machine.putEntry]
  | cons a l ih =>
    unfold Machine.putEntry
    split
    · simp
    · split
      · simp
      · next hne => rw [List.find?_cons_of_neg (by simpa using Ne.symm hne), ih]

theorem putEntry_find_ne (h : tag ≠ e.tag) :
    (putEntry e l).find? (fun b => b.tag = tag) = l.find? fun b => b.tag = tag := by
  have hskip : ∀ k : List BinFacts, (e :: k).find? (fun b => b.tag = tag) = k.find? fun b => b.tag = tag := fun k =>
    List.find?_cons_of_neg (by simpa using Ne.symm h)
  induction l with
  | nil => exact hskip []
  | cons a l ih =>
    unfold Machine.putEntry
    split
    · exact hskip _
    · split
      · next heq => rw [hskip, List.find?_cons_of_neg (by simpa [← heq] using Ne.symm h)]
      · rw [List.find?_cons, List.find?_cons, ih]

theorem dropEntry_find_self : (dropEntry tag l).find? (fun b => b.tag = tag) = none :=
  List.find?_eq_none.2 fun b hb => by simpa using (List.mem_filter.1 hb).2

theorem dropEntry_find_ne {t : Tag} (h : t ≠ tag) :
    (dropEntry tag l).find? (fun b => b.tag = t) = l.find? fun b => b.tag = t := by
  rw [dropEntry, List.find?_filter]
  congr 1
  funext b
  by_cases hb : b.tag = t <;> simp [hb, h]

end

/-! ### One row (R101, R102) -/

section
variable {clock : Nat} {r : Row} {l : List BinFacts} {y : Tally} {tag : Tag}

/-- R101, R102: the rows that a merge step refuses. -/
abbrev RowRefused (r : Row) (l : List BinFacts) : Prop :=
  r.tag = 0 ∨ (r.op = .upsert ∧ ¬ Listed r.tag l ∧ l.length = 256)

/-- The steps that a tally counts (R100). -/
def Tally.total (y : Tally) : Nat := y.inserted + y.replaced + y.deleted + y.absent + y.refused

/-- R101: the deadline of an entry counts from the age clock, and stays below the value of no deadline. -/
theorem rowEntry_eq : r.entry clock = ⟨r.tag, r.cls,
    if r.dueSpan = 65535 then 4294967295
    else if 4294967294 < clock + r.dueSpan then 4294967294 else clock + r.dueSpan,
    r.budget, r.orderRef, r.keep⟩ := by
  have hmin : min (clock + r.dueSpan) lastClock =
      if 4294967294 < clock + r.dueSpan then 4294967294 else clock + r.dueSpan := by
    rw [lastClock]
    split <;> omega
  rw [Row.entry, deadlineAfter, hmin, noDeadline]

theorem any_eq_listed : (l.any fun e => e.tag = tag) = decide (Listed tag l) := by
  rw [Bool.eq_iff_iff]
  simp

theorem stepRow_refused (h : RowRefused r l) : stepRow clock r l y = (l, { y with refused := y.refused + 1 }) := by
  rcases h with h0 | ⟨hop, hl, hfull⟩
  · exact if_pos h0
  · simp [stepRow, hop, any_eq_listed, hl, hfull]

/-- R101: an UPSERT row that is not refused puts its entry in. -/
theorem stepRow_upsert (hlen : l.length ≤ 256) (h : ¬ RowRefused r l) (hop : r.op = .upsert) :
    stepRow clock r l y = (putEntry (r.entry clock) l,
      if Listed r.tag l then { y with replaced := y.replaced + 1 } else { y with inserted := y.inserted + 1 }) := by
  obtain ⟨h0, hroom⟩ := not_or.1 h
  rw [stepRow, if_neg h0, hop, any_eq_listed]
  dsimp only
  by_cases hl : Listed r.tag l
  · simp only [hl, decide_true, if_true]
  · have hlt : l.length < 256 := hlen.lt_of_ne fun e => hroom ⟨hop, hl, e⟩
    simp only [hl, decide_false, Bool.false_eq_true, if_false, hlt, if_true]

/-- R102: a DELETE row that is not refused leaves no entry of its tag. -/
theorem stepRow_delete (h : ¬ RowRefused r l) (hop : r.op = .delete) :
    stepRow clock r l y = (dropEntry r.tag l,
      if Listed r.tag l then { y with deleted := y.deleted + 1 } else { y with absent := y.absent + 1 }) := by
  obtain ⟨h0, -⟩ := not_or.1 h
  rw [stepRow, if_neg h0, hop, any_eq_listed]
  dsimp only
  by_cases hl : Listed r.tag l
  · simp only [hl, decide_true, if_true]
  · have hdrop : dropEntry r.tag l = l := List.filter_eq_self.2 fun e he => by simpa using fun ht => hl ⟨e, he, ht⟩
    simp only [hl, decide_false, Bool.false_eq_true, if_false, hdrop]

theorem stepRow_mapOk (h : MapOk l) : MapOk (stepRow clock r l y).1 := by
  by_cases href : RowRefused r l
  · rw [stepRow_refused href]
    exact h
  · cases hop : r.op with
    | upsert =>
      rw [stepRow_upsert h.length_le href hop]
      obtain ⟨h0, hroom⟩ := not_or.1 href
      exact h.putEntry h0 (or_iff_not_imp_left.2 fun hl => h.length_le.lt_of_ne fun hfull => hroom ⟨hop, hl, hfull⟩)
    | delete =>
      rw [stepRow_delete href hop]
      exact h.sublist dropEntry_sublist

/-- R100: each step adds one to one of the five counts. -/
theorem stepRow_total : (stepRow clock r l y).2.total = y.total + 1 := by
  unfold stepRow Tally.total
  dsimp only
  repeat' split
  all_goals (dsimp only; omega)

/-- R101, R102: a step writes nothing about another tag, and a refused row nothing at all. -/
theorem stepRow_find_ne (hlen : l.length ≤ 256) (h : tag ≠ r.tag ∨ RowRefused r l) :
    (stepRow clock r l y).1.find? (fun e => e.tag = tag) = l.find? fun e => e.tag = tag := by
  by_cases href : RowRefused r l
  · rw [stepRow_refused href]
  · have hne := h.resolve_right href
    cases hop : r.op with
    | upsert => rw [stepRow_upsert hlen href hop]; exact putEntry_find_ne hne
    | delete => rw [stepRow_delete href hop]; exact dropEntry_find_ne hne

end

/-! ### One merge step (R100, R103) -/

section
variable {s : State} {g : Merge}

/-- The row that the next step of a merge takes (R100). -/
def Manifest.nextRow (m : Manifest) (g : Merge) : Row := ((m.page g.page).rows.toList[g.taken]?).getD Row.cleared

/-- The map and the tally that the next step of a merge leaves. -/
def State.stepped (s : State) (g : Merge) : List BinFacts × Tally :=
  stepRow s.age.clock (s.manifest.nextRow g) s.manifest.map g.tally

theorem mergeStep_idle (h : s.manifest.merge = none) : mergeStep s = s := by simp only [mergeStep, h]

theorem mergeStep_goesOn (h : s.manifest.merge = some g) (hlt : g.taken + 1 < g.count) :
    mergeStep s = s.setManifest { s.manifest with
      map := (s.stepped g).1, merge := some { g with taken := g.taken + 1, tally := (s.stepped g).2 } } := by
  simp only [mergeStep, h, if_pos hlt]
  rfl

/-- R103: the manifest after the last step of a merge. -/
def State.mergeEnded (s : State) (g : Merge) : Manifest :=
  { s.manifest.setPage g.page { s.manifest.page g.page with state := .empty } with
    map := (s.stepped g).1, merge := none, report := ⟨g.page, g.count, (s.stepped g).2⟩ }

theorem mergeStep_ends (h : s.manifest.merge = some g) (hge : ¬ g.taken + 1 < g.count) :
    mergeStep s = raise .merged (s.setManifest (s.mergeEnded g)) := by
  simp only [mergeStep, h, if_neg hge]
  rfl

theorem setManifest_only (m : Manifest) (s : State) : OnlyChanges [.manifest] s (s.setManifest m) :=
  ⟨rfl, rfl, fun p h => by cases p <;> first | rfl | simp at h⟩

theorem mergeStep_only (s : State) : OnlyChanges [.manifest, .notice] s (mergeStep s) := by
  have written : ∀ m, OnlyChanges [.manifest, .notice] s (s.setManifest m) := fun m => (setManifest_only m s).mono (by decide)
  cases h : s.manifest.merge with
  | none => rw [mergeStep_idle h]; exact .refl _ s
  | some g =>
    by_cases hlt : g.taken + 1 < g.count
    · rw [mergeStep_goesOn h hlt]; exact written _
    · rw [mergeStep_ends h hlt]
      exact (written _).trans ((raise_only .merged _).mono (by decide))

theorem mergeStep_map (h : s.manifest.merge = some g) : (mergeStep s).manifest.map = (s.stepped g).1 := by
  by_cases hlt : g.taken + 1 < g.count
  · rw [mergeStep_goesOn h hlt]; rfl
  · rw [mergeStep_ends h hlt]; rfl

theorem mergeStep_mapInForm (hs : MapInForm s) : MapInForm (mergeStep s) := by
  cases h : s.manifest.merge with
  | none => rw [mergeStep_idle h]; exact hs
  | some g =>
    change MapOk (mergeStep s).manifest.map
    rw [mergeStep_map h]
    exact stepRow_mapOk hs

end

/-- Settles O23: the step takes the row it finds into the map, and goes on or ends by the number of rows taken. -/
theorem mergeStepTakesOneRow : Obligations.MergeStepTakesOneRow := by
  intro s hmap _
  refine ⟨fun h => congrArg _ (mergeStep_idle h), fun g hg row hrow => ?_⟩
  intro present refused
  have hlen : s.manifest.map.length ≤ 256 := MapOk.length_le hmap
  have hstep : s.stepped g = stepRow s.age.clock row s.manifest.map g.tally := by
    rw [State.stepped, Manifest.nextRow, hrow, Option.getD_some]
  have hfind : ∀ tag, (mergeStep s).manifest.find tag =
      (stepRow s.age.clock row s.manifest.map g.tally).1.find? fun e => e.tag = tag := fun tag => by
    rw [Manifest.find, mergeStep_map hg, hstep]
  refine ⟨mergeStep s, (s.stepped g).2, rfl, mergeStep_only s, mergeStep_mapInForm hmap,
    fun tag h => (hfind tag).trans (stepRow_find_ne hlen h), fun h => ?_, fun h hop => ?_, fun h hop => ?_, fun hlt => ?_,
    fun hlast => ?_⟩
  · rw [hstep, stepRow_refused h]
  · rw [hfind, hstep, stepRow_upsert hlen h hop]
    exact ⟨(putEntry_find_self (e := row.entry s.age.clock)).trans (congrArg some rowEntry_eq), fun hl => if_pos hl,
      fun hl => if_neg hl⟩
  · rw [hfind, hstep, stepRow_delete h hop]
    exact ⟨dropEntry_find_self, fun hl => if_pos hl, fun hl => if_neg hl⟩
  · rw [mergeStep_goesOn hg hlt]
    exact ⟨rfl, rfl, fun p => by cases p <;> rfl, rfl⟩
  · rw [mergeStep_ends hg (by omega)]
    exact ⟨rfl, rfl, congrArg LoadPage.state setPage_page_self, setPage_page_other, rfl⟩

end Sys2Proof.Machine
end

section
/-! The manifest under every command (R95, R97, R100). Requests, answers and losses of slots at most take entries from its map;
only the manifest's own commands, its merge step and reset do more. -/

namespace Sys2Proof.Machine

open Sys2Proof Sys2Proof.Safety

variable {s t u : State} {c : Col} {i : RecIdx} {k : Slot}

/-! ### What the merge and the pages keep -/

/-- The laws of the manifest. -/
structure ManifestFits (s : State) : Prop where
  map : MapInForm s
  pages : PagesInForm s

/-- R100, R103: a step goes on with the merge whose counts sum to the steps taken, or ends it with its page EMPTY. -/
theorem mergeStep_pagesInForm (hs : PagesInForm s) : PagesInForm (mergeStep s) := by
  obtain ⟨hfill, -, hmerge⟩ := id hs
  cases h : s.manifest.merge with
  | none => rw [mergeStep_idle h]; exact hs
  | some g =>
    obtain ⟨hpage, hstate, -, hcount, hsum⟩ := hmerge g h
    by_cases hlt : g.taken + 1 < g.count
    · rw [mergeStep_goesOn h hlt]
      refine pagesInForm_of_filling (p := s.manifest.filling) hfill nofun fun g' hg' => ?_
      cases hg'
      exact ⟨hpage, hpage ▸ hstate, hlt, hcount, (stepRow_total (y := g.tally)).trans (congrArg (· + 1) hsum)⟩
    · rw [mergeStep_ends h hlt]
      have hself : (s.mergeEnded g).page g.page.other = s.manifest.page g.page.other := setPage_page_other
      refine pagesInForm_of_filling (p := g.page.other) ?_ (fun _ => ?_) nofun
      · change ((s.mergeEnded g).page g.page.other).state = _
        rw [hself, hpage, Page.other_other]
        exact hfill
      · rw [Page.other_other]
        exact congrArg LoadPage.state setPage_page_self

theorem mergeStep_fits (hs : ManifestFits s) : ManifestFits (mergeStep s) :=
  ⟨mergeStep_mapInForm hs.map, mergeStep_pagesInForm hs.pages⟩

/-- R99: the FILLING page becomes MERGING, and the EMPTY one FILLING. -/
theorem turned_pagesInForm {count : Nat} (hlo : 0 < count) (hhi : count ≤ 16) (p : Page) :
    PagesInForm (s.setManifest (s.manifest.turned p count)) := by
  have hself : (s.manifest.turned p count).page p =
      ((s.manifest.setPage p { s.manifest.page p with state := .merging }).setPage p.other
        ⟨.filling, Vector.replicate 16 Row.cleared⟩).page p.other.other := by
    rw [Page.other_other]; cases p <;> rfl
  rw [setPage_page_other, Page.other_other, setPage_page_self] at hself
  refine pagesInForm_of_filling (p := p.other) (congrArg LoadPage.state setPage_page_self) nofun fun g hg => ?_
  cases hg
  exact ⟨p.other_other.symm, by rw [Page.other_other]; exact congrArg LoadPage.state hself, hlo, hhi, rfl⟩

/-! ### Entries taken from the map -/

/-- The manifest of `t` is that of `s`, with entries of its map left out. -/
def Trims (s t : State) : Prop := ∃ l, l.Sublist s.manifest.map ∧ t.manifest = { s.manifest with map := l }

theorem Trims.of_manifest (h : t.manifest = s.manifest) : Trims s t := ⟨s.manifest.map, .refl _, h⟩

theorem Trims.refl (s : State) : Trims s s := .of_manifest rfl

theorem Trims.of_only {ps : List Part} (ho : OnlyChanges ps s t) (hp : .manifest ∉ ps) : Trims s t :=
  .of_manifest (ho.manifest hp)

theorem Trims.trans (h : Trims s t) (h' : Trims t u) : Trims s u := by
  obtain ⟨l, hl, ht⟩ := h
  obtain ⟨l', hl', hu⟩ := h'
  rw [ht] at hl' hu
  exact ⟨l', hl'.trans hl, hu⟩

theorem Trims.fits (h : Trims s t) (hs : ManifestFits s) : ManifestFits t := by
  obtain ⟨l, hl, ht⟩ := h
  refine ⟨?_, pagesInForm_congr hs.pages (fun p => ?_) (by rw [ht])⟩
  · change MapOk t.manifest.map
    rw [ht]
    exact MapOk.sublist hs.map hl
  · rw [ht]
    cases p <;> rfl

theorem forEach_trims {α : Type} {f : α → State → State} (hf : ∀ a u, Trims u (f a u)) (l : List α) (s : State) :
    Trims s (forEach l f s) := by
  induction l generalizing s with
  | nil => exact .refl s
  | cons a l ih => exact (hf a s).trans (ih (f a s))

/-- R36, R105: a delivery takes the tag's entry, or leaves the map. -/
theorem consume_trims (tag : Tag) (s : State) : Trims s (consume tag s) := by
  unfold consume
  split
  · split
    · exact .refl s
    · exact ⟨_, dropEntry_sublist, rfl⟩
  · exact .refl s

theorem retire_trims (i : RecIdx) (o : Retirement) (s : State) : Trims s (retire i o s) := by
  cases hr : s.live i with
  | none => rw [retire_none s hr]; exact .refl s
  | some r =>
    obtain ⟨u, hu, honly, -⟩ := retire_eq s hr o
    have hsu : Trims s u := .of_only honly (by decide)
    rw [hu]
    split
    · exact hsu.trans (consume_trims r.tag u)
    · exact hsu

theorem retireAll_trims (l : List RecIdx) (o : Retirement) (s : State) : Trims s (forEach l (fun i => retire i o) s) :=
  forEach_trims (fun i u => retire_trims i o u) l s

/-! ### Requests -/

theorem judgePark_manifest (k : Slot) (tag : Tag) (s : State) : (judgePark k tag s).1.manifest = s.manifest := by
  have made : ∀ i f d, (reservePlace i k tag f d s).manifest = s.manifest := fun i f d => by
    rw [reservePlace, noteUnlisted_manifest, makeAt_manifest]
  unfold judgePark
  split
  · rfl
  · split
    · split <;> rfl
    · split
      · rfl
      · split
        · rfl
        · split
          · rfl
          · dsimp only
            split
            · rfl
            · exact made ..

theorem judgeLock_manifest (k : Slot) (col : Byte) (o : Option Handle) (s : State) :
    (judgeLock k col o s).1.manifest = s.manifest := by
  unfold judgeLock judgeSurveyLock judgeWorkLock
  repeat' split
  all_goals simp

theorem judgeSetDown_manifest (k : Slot) (h : Handle) (s : State) : (judgeSetDown k h s).1.manifest = s.manifest := by
  unfold judgeSetDown acceptSetDown
  repeat' split
  all_goals simp

/-- R36, R137: an accepted PICK_UP consumes the tag's entry. -/
theorem judgePickUp_trims (k : Slot) (h : Handle) (s : State) : Trims s (judgePickUp k h s).1 := by
  have accepted : ∀ d, Trims s (acceptPickUp h d s) := fun d => by
    have hpop : Trims s (popStack d s) := .of_only (popStack_only d s) (by decide)
    exact (hpop.trans (retire_trims h.idx .delivered _)).trans (.of_manifest (by simp [acceptPickUp]))
  unfold judgePickUp
  split
  · exact .refl s
  · split
    · exact .refl s
    · split
      · split
        · exact accepted _
        · split
          · exact .refl s
          · exact .of_manifest (strand_manifest ..)
      · exact .refl s

theorem judgeClaim_manifest (k : Slot) (tag : Tag) (s : State) : (judgeClaim k tag s).1.manifest = s.manifest := by
  unfold judgeClaim
  split
  · rfl
  · next r _ =>
    cases r.state <;> dsimp only
    case parked => exact promiseRecord_manifest ..
    case promised => split <;> rfl

theorem judgeYield_trims (k : Slot) (h : Handle) (s : State) : Trims s (judgeYield k h s).1 := by
  unfold judgeYield
  split
  · exact .refl s
  · split
    · exact .refl s
    · split
      · split
        · split
          · exact .of_manifest (by simp)
          · exact .refl s
        · exact .refl s
      · split
        · exact .of_manifest (State.dropWaiter_manifest ..)
        · exact .refl s
      · split
        · exact .of_manifest (parkRecord_manifest ..)
        · split
          · exact retire_trims ..
          · exact .refl s

theorem judgeYieldSurvey_manifest (k : Slot) (s : State) : (judgeYieldSurvey k s).1.manifest = s.manifest := by
  unfold judgeYieldSurvey
  repeat' split
  all_goals simp

theorem judgeLeave_manifest (k : Slot) (s : State) : (judgeLeave k s).1.manifest = s.manifest := by
  unfold judgeLeave
  repeat' split
  all_goals simp

theorem judgeJoin_manifest (k : Slot) (id : RobotId) (s : State) : (judgeJoin k id s).1.manifest = s.manifest := by
  unfold judgeJoin
  split <;> rfl

/-! ### Surveys (R32, R152 to R154) -/

theorem resolveAbsentPlacement_trims (i : RecIdx) (b : Bool) (s : State) : Trims s (resolveAbsentPlacement i b s) := by
  unfold resolveAbsentPlacement
  split
  · exact .of_manifest (reserveRecord_manifest ..)
  · exact retire_trims ..

theorem resolveLiftInPlace_trims (i : RecIdx) (o : Option Slot) (b : Bool) (s : State) :
    Trims s (resolveLiftInPlace i o b s) := by
  unfold resolveLiftInPlace
  split
  · exact .of_manifest (promiseRecord_manifest ..)
  · exact .of_manifest (parkRecord_manifest ..)

theorem resolution_trims {tags : List Tag} {f : State → State} (hf : resolution c tags s = some f) : Trims s (f s) := by
  unfold resolution at hf
  split at hf
  · cases hf
  · next h _ =>
    split at hf
    · cases hf
    · dsimp only at hf
      split at hf
      · split at hf
        · split at hf
          · cases hf; exact resolveAbsentPlacement_trims ..
          · split at hf
            · cases hf; exact .of_manifest (by simp)
            · cases hf
        · split at hf
          · cases hf; exact resolveLiftInPlace_trims ..
          · split at hf
            · cases hf
              have hpop : Trims s (popStack c s) := .of_only (popStack_only c s) (by decide)
              exact (hpop.trans (retire_trims h.idx _ _)).trans (.of_manifest (refreshStack_manifest ..))
            · cases hf
        · cases hf
      · cases hf

theorem judgeSurvey_trims (k : Slot) (col : Byte) (tags : List Tag) (s : State) : Trims s (judgeSurvey k col tags s).1 := by
  unfold judgeSurvey
  split
  · exact .refl s
  · split
    · exact .refl s
    · split
      · exact .refl s
      · split
        · next hf => exact (resolution_trims hf).trans (.of_manifest (by simp [matchSurvey]))
        · split
          · exact .of_manifest (by simp [recordMismatch])
          · exact .of_manifest (endLock_manifest ..)

/-! ### Answers, misses and losses -/

theorem ownerJudges_trims (k : Slot) (q : Request) (s : State) : Trims s (ownerJudges k q s).1 := by
  cases q with
  | join id => exact .of_manifest (judgeJoin_manifest k id s)
  | leave => exact .of_manifest (judgeLeave_manifest k s)
  | park tag => exact .of_manifest (judgePark_manifest k tag s)
  | lock col o => exact .of_manifest (judgeLock_manifest k col o s)
  | setDown h => exact .of_manifest (judgeSetDown_manifest k h s)
  | pickUp h => exact judgePickUp_trims k h s
  | claim tag => exact .of_manifest (judgeClaim_manifest k tag s)
  | yield h => exact judgeYield_trims k h s
  | yieldSurvey => exact .of_manifest (judgeYieldSurvey_manifest k s)
  | survey col tags => exact judgeSurvey_trims k col tags s
  | bad => exact .refl s

theorem judgeRequest_trims (k : Slot) (q : Request) (s : State) : Trims s (judgeRequest k q s).1 := by
  unfold judgeRequest
  split
  · exact .refl s
  · split
    · exact .refl s
    · split
      · exact .refl s
      · exact ownerJudges_trims k q s

theorem takeRequest_trims (k : Slot) (q : Request) (b : Bool) (s : State) : Trims s (takeRequest k q b s) := by
  unfold takeRequest
  dsimp only
  split
  all_goals exact (judgeRequest_trims k q s).trans (.of_manifest (by simp))

theorem takeRegular_trims (k : Slot) (st : Status) (q : Option Request) (s : State) : Trims s (takeRegular k st q s) := by
  have h : Trims s (setVerdict k none (takeCondition k (takeStatus k st s))) := .of_manifest (by simp [takeStatus])
  unfold takeRegular
  dsimp only
  split
  · exact h
  · exact h.trans (takeRequest_trims ..)

theorem takeProbe_manifest (k : Slot) (st : Status) (q : Option Request) (s : State) :
    (takeProbe k st q s).manifest = s.manifest := by
  unfold takeProbe
  repeat' split
  all_goals rfl

theorem takeAnswer_trims (x : Exchange) (st : Status) (q : Option Request) (s : State) : Trims s (takeAnswer x st q s) := by
  unfold takeAnswer
  split
  · exact takeRegular_trims ..
  · exact .of_manifest (takeProbe_manifest ..)

/-- R145: the reservations that a lost slot gives up are retired, and the rest stays in other blocks. -/
theorem loseHoldings_trims (k : Slot) (s : State) : Trims s (loseHoldings k s) := by
  have given : ∀ u, Trims u (giveUp k u) := fun u => by
    have hdrop : Trims u (u.dropWaiter k) := .of_manifest (State.dropWaiter_manifest ..)
    exact (((hdrop.trans (retireAll_trims _ .unplaced _)).trans (.of_manifest (dropPromises_manifest k _))).trans
      (.of_manifest (dropDesignations_manifest k _))).trans (.of_manifest rfl)
  cases hh : s.holding k with
  | none => rw [loseHoldings_of_none hh]; exact given s
  | some p =>
    rw [loseHoldings_of_holder hh]
    exact (Trims.of_manifest (breakLock_manifest ..)).trans (given _)

theorem loseSlot_trims (k : Slot) (s : State) : Trims s (loseSlot k s) :=
  ((loseHoldings_trims k s).trans (.of_only (setSlot_only k _ _) (by decide))).trans (.of_only (raise_only .lost _) (by decide))

theorem missSlot_trims (k : Slot) (s : State) : Trims s (missSlot k s) := by
  have counted : Trims s (s.setSlot k { s.slot k with miss := min 15 ((s.slot k).miss + 1) }) :=
    .of_only (setSlot_only k _ s) (by decide)
  unfold missSlot
  dsimp only
  split
  · exact counted.trans (loseSlot_trims k _)
  · exact counted

theorem noAnswer_trims (x : Exchange) (s : State) : Trims s (noAnswer x s) := by
  unfold noAnswer
  split
  · exact missSlot_trims ..
  · exact .refl s

/-! ### The events of the line -/

theorem endReception_trims {f : Exchange → State → State} (hf : ∀ x, Trims s (f x s)) : Trims s (endReception f s) := by
  unfold endReception
  split
  · split
    · exact (hf _).trans (.of_manifest (afterExchange_manifest ..))
    · exact .refl s
  all_goals exact .refl s

theorem receiveAnswer_trims (bytes : List Byte) (b : Bool) (s : State) : Trims s (receiveAnswer bytes b s) := by
  refine endReception_trims fun x => ?_
  split
  · exact takeAnswer_trims ..
  · exact noAnswer_trims x s

theorem expireWindow_trims (s : State) : Trims s (expireWindow s) := by
  unfold expireWindow
  split
  · next x _ =>
    split
    · exact .refl s
    · exact (noAnswer_trims x s).trans (.of_manifest (by simp))
  all_goals exact .refl s

theorem openReception_manifest (s : State) : (openReception s).manifest = s.manifest := by
  unfold openReception
  repeat' split
  all_goals rfl

theorem endEmptyRound_manifest (s : State) : (endEmptyRound s).manifest = s.manifest := by
  unfold endEmptyRound
  split
  all_goals simp

theorem roundDue_manifest (s : State) : (roundDue s).manifest = s.manifest := by
  unfold roundDue
  repeat' split
  all_goals simp

/-! ### Age events and RESTACK -/

theorem lowerBudget_manifest (i : RecIdx) (s : State) : (lowerBudget i s).manifest = s.manifest := by
  unfold lowerBudget
  split
  · rfl
  · dsimp only
    split <;> rfl

theorem testOverdue_manifest (i : RecIdx) (s : State) : (testOverdue i s).manifest = s.manifest := by
  unfold testOverdue
  repeat' split
  all_goals rfl

theorem ageEvent_trims (s : State) : Trims s (ageEvent s) := by
  unfold ageEvent
  split
  · exact .refl s
  · have clocked : Trims s (ageClockAndBand s) := .of_manifest rfl
    exact (clocked.trans (forEach_trims (fun i u => .of_manifest (lowerBudget_manifest i u)) _ _)).trans
      (forEach_trims (fun i u => .of_manifest (testOverdue_manifest i u)) _ _)

theorem makeFound_manifest (c : Col) (tag : Tag) (s : State) : (makeFound c tag s).manifest = s.manifest := by
  unfold makeFound
  split
  all_goals simp

theorem resolveStranded_trims (c : Col) (tags : List Tag) (s0 s : State) : Trims s (resolveStranded c tags s0 s) := by
  unfold resolveStranded
  split
  · exact .refl s
  · split
    · exact .refl s
    · split
      · split
        · exact .of_manifest (parkRecord_manifest ..)
        · exact resolveAbsentPlacement_trims ..
      · split
        · exact resolveLiftInPlace_trims ..
        · exact retire_trims ..
      · exact .refl s

theorem sortRecords_trims (c : Col) (tags : List Tag) (s : State) : Trims s (sortRecords c tags s) :=
  (((forEach_trims (fun tag u => .of_manifest (makeFound_manifest c tag u)) _ s).trans
    (resolveStranded_trims c tags s _)).trans (retireAll_trims _ .missing _)).trans
      (forEach_trims (fun i u => .of_manifest (parkRecord_manifest i u)) _ _)

theorem rewriteStack_trims (c : Col) (tags : List Tag) (s : State) : Trims s (rewriteStack c tags s) := by
  have leveled := forEach_trims (f := setLevel) (fun p u => .of_manifest (updRec_manifest p.1 _ u)) (s.foundAt tags).zipIdx s
  exact leveled.trans (.of_manifest (by simp [rewriteStack_eq, stacked]))

theorem restackRecords_trims (c : Col) (tags : List Tag) (s : State) : Trims s (restackRecords c tags s) := by
  rw [restackRecords_eq]
  exact ((sortRecords_trims c tags s).trans (rewriteStack_trims c tags _)).trans (.of_manifest (settleColumn_manifest c _))

theorem applyRestack_trims (c : Col) (tags : List Tag) (s : State) : Trims s (applyRestack c tags s).1 :=
  (restackRecords_trims c tags s).trans (retireAll_trims (trimmedReservations c (restackRecords c tags s)) .unplaced _)

theorem ownRestack_trims (col : Byte) (tags : List Tag) (s : State) : Trims s (ownRestack col tags s).1 := by
  unfold ownRestack
  split
  · exact .refl s
  · split
    · exact .refl s
    · split
      · exact .refl s
      · split
        · exact .refl s
        · split
          · exact .refl s
          · split
            · exact .refl s
            · exact applyRestack_trims ..

end Sys2Proof.Machine
end

section
/-! The laws of the manifest (R95, R97, R100) under the owners of host commands, the planner port and every step. -/

namespace Sys2Proof.Machine

open Sys2Proof Sys2Proof.Safety

variable {s t : State} {x : Instr} {own : State → State × Response}

/-! ### The manifest's own commands (R98, R99, R107) -/

theorem ManifestFits.of_manifest (hs : ManifestFits s) (h : t.manifest = s.manifest) : ManifestFits t :=
  (Trims.of_manifest h).fits hs

/-- R98: a row is written, and the page keeps its state. -/
theorem ownPageWrite_fits (hs : ManifestFits s) (row op : Byte) (tag : Tag) (cls : Byte) (span budget order : BitVec 16)
    (keep : Byte) : ManifestFits (ownPageWrite row op tag cls span budget order keep s).1 := by
  unfold ownPageWrite
  split
  · refine ⟨?_, pagesInForm_congr hs.pages (setPage_state rfl) setPage_merge⟩
    change MapOk (Manifest.setPage _ _ s.manifest).map
    rw [setPage_map]
    exact hs.map
  · exact hs

theorem ownPageMerge_fits (hs : ManifestFits s) (count : Byte) : ManifestFits (ownPageMerge count s).1 := by
  by_cases hrange : count.toNat = 0 ∨ 16 < count.toNat
  · rw [ownPageMerge_range hrange]
    exact hs
  · by_cases hm : (s.manifest.page s.manifest.filling.other).state = .merging
    · rw [ownPageMerge_busy hrange hm]
      exact hs
    · rw [ownPageMerge_accepted hrange hm]
      refine ⟨?_, turned_pagesInForm (by omega) (by omega) _⟩
      change MapOk (s.manifest.turned s.manifest.filling count.toNat).map
      rw [turned_map]
      exact hs.map

theorem ownManifestClear_trims (s : State) : Trims s (ownManifestClear s).1 := by
  unfold ownManifestClear
  split
  · exact .refl s
  · exact ⟨[], List.nil_sublist _, rfl⟩

/-! ### The owners that retire a record or leave the manifest -/

theorem ownCancel_trims (idx gen : Byte) (s : State) : Trims s (ownCancel idx gen s).1 := by
  unfold ownCancel
  split
  · exact .refl s
  · split
    · exact .refl s
    · next r _ =>
      cases r.state <;> dsimp only
      case reserved => exact retire_trims ..
      all_goals exact .refl s

theorem ownAssign_manifest (idx gen slot : Byte) (s : State) : (ownAssign idx gen slot s).1.manifest = s.manifest := by
  unfold ownAssign answer
  repeat' split
  all_goals simp

theorem ownUnassign_manifest (idx gen : Byte) (s : State) : (ownUnassign idx gen s).1.manifest = s.manifest := by
  unfold ownUnassign answer
  repeat' split
  all_goals simp

theorem ownRebudget_manifest (idx gen : Byte) (budget : BitVec 16) (s : State) :
    (ownRebudget idx gen budget s).1.manifest = s.manifest := by
  unfold ownRebudget
  repeat' split
  all_goals rfl

theorem ownSurveyAsk_manifest (col slot : Byte) (s : State) : (ownSurveyAsk col slot s).1.manifest = s.manifest := by
  unfold ownSurveyAsk answer
  repeat' split
  all_goals simp

theorem ownZoneSetup_manifest (p : ZoneParams) (s : State) : (ownZoneSetup p s).1.manifest = s.manifest := by
  unfold ownZoneSetup
  split <;> rfl

/-- R108: ZONE_CLEAR leaves the map and the pages. -/
theorem ownZoneClear_manifest (s : State) : (ownZoneClear s).1.manifest = s.manifest := by
  unfold ownZoneClear
  split <;> rfl

theorem ownColumnDefine_manifest (col x y capacity classes : Byte) (s : State) :
    (ownColumnDefine col x y capacity classes s).1.manifest = s.manifest := by
  unfold ownColumnDefine
  repeat' split
  all_goals rfl

theorem ownColumnService_manifest (col state : Byte) (s : State) :
    (ownColumnService col state s).1.manifest = s.manifest := by
  unfold ownColumnService
  repeat' split
  all_goals rfl

theorem ownSlotMode_manifest (slot mode : Byte) (s : State) : (ownSlotMode slot mode s).1.manifest = s.manifest := by
  unfold ownSlotMode
  split <;> rfl

theorem ownBlockMode_manifest (mode a b : Byte) (s : State) : (ownBlockMode mode a b s).1.manifest = s.manifest := by
  unfold ownBlockMode
  repeat' split
  all_goals rfl

theorem ownClearLost_manifest (slot : Byte) (s : State) : (ownClearLost slot s).1.manifest = s.manifest := by
  unfold ownClearLost
  repeat' split
  all_goals rfl

theorem ownLinkStart_manifest (s : State) : (ownLinkStart s).1.manifest = s.manifest := by
  unfold ownLinkStart answer
  split
  all_goals simp

theorem ownLinkStop_manifest (s : State) : (ownLinkStop s).1.manifest = s.manifest := by
  unfold ownLinkStop
  repeat' split
  all_goals rfl

theorem ownAgeStart_manifest (s : State) : (ownAgeStart s).1.manifest = s.manifest := by
  unfold ownAgeStart
  split <;> rfl

/-- Every owner of a host command keeps the laws of the manifest. -/
theorem hostOwner_fits (hs : ManifestFits s) (hx : hostOwner x = some own) : ManifestFits (own s).1 := by
  cases x <;> cases hx
  case pageWrite r o t c d b n k => exact ownPageWrite_fits hs r o t c d b n k
  case pageMerge n => exact ownPageMerge_fits hs n
  case manifestClear => exact (ownManifestClear_trims s).fits hs
  case cancel i g => exact (ownCancel_trims i g s).fits hs
  case restack c tags => exact (ownRestack_trims c tags s).fits hs
  case assign i g k => exact hs.of_manifest (ownAssign_manifest i g k s)
  case unassign i g => exact hs.of_manifest (ownUnassign_manifest i g s)
  case rebudget i g b => exact hs.of_manifest (ownRebudget_manifest i g b s)
  case surveyAsk c k => exact hs.of_manifest (ownSurveyAsk_manifest c k s)
  case zoneSetup p => exact hs.of_manifest (ownZoneSetup_manifest p s)
  case zoneClear => exact hs.of_manifest (ownZoneClear_manifest s)
  case columnDefine c x y k m => exact hs.of_manifest (ownColumnDefine_manifest c x y k m s)
  case columnService c v => exact hs.of_manifest (ownColumnService_manifest c v s)
  case slotMode k m => exact hs.of_manifest (ownSlotMode_manifest k m s)
  case blockMode m a b => exact hs.of_manifest (ownBlockMode_manifest m a b s)
  case clearLost k => exact hs.of_manifest (ownClearLost_manifest k s)
  case linkStart => exact hs.of_manifest (ownLinkStart_manifest s)
  case linkStop => exact hs.of_manifest (ownLinkStop_manifest s)
  case ageStart => exact hs.of_manifest (ownAgeStart_manifest s)
  case readColumn c => rw [ownReadColumn_state]; exact hs
  case readSlot k => rw [ownReadSlot_state]; exact hs
  case readHandoff i g => rw [ownReadHandoff_state]; exact hs
  case blockEndEnable | statsClear | ageStop | surveyClear | noticeAck | noticeEnable => exact hs.of_manifest rfl
  case readStats | readAge | mergeResult | manifestFind | manifestCount | findTag | freeCount | surveyRead | notices => exact hs

/-! ### The planner port and reset (R159 to R161, R169) -/

theorem takeCommand_fits (hx : hostOwner x = some own) (hs : ManifestFits s) : ManifestFits (takeCommand own s) :=
  (hostOwner_fits hs hx).of_manifest rfl

theorem endFrame_fits {f : State → State} (hf : ∀ {u}, ManifestFits u → ManifestFits (f u)) (n : Nat) (hs : ManifestFits s) :
    ManifestFits (endFrame n f s) := by
  have port : ∀ p, ManifestFits (s.setPort p) := fun _ => hs.of_manifest rfl
  unfold endFrame
  split
  · exact port _
  · exact port _
  · split
    · exact port _
    · exact port _
    · exact port _
    · exact hf (port _)

theorem hostFrame_fits {f : State → State} (hf : ∀ {u}, ManifestFits u → ManifestFits (f u)) (n : Nat) (hs : ManifestFits s) :
    ManifestFits (hostFrame n f s) := by
  unfold hostFrame
  split
  · exact endFrame_fits hf _ hs
  · exact endFrame_fits (f := discardFrame .over) (fun hu => hu.of_manifest rfl) _ hs

theorem judgeFrame_fits (bytes : List Byte) (hs : ManifestFits s) : ManifestFits (judgeFrame bytes s) := by
  unfold judgeFrame
  split
  · exact hs.of_manifest rfl
  · exact hs.of_manifest rfl
  · exact hs.of_manifest rfl
  · exact hs.of_manifest rfl
  · split
    · next hx => exact takeCommand_fits hx hs
    · exact hs.of_manifest rfl

theorem beginFrameTooSoon_manifest (s : State) : (beginFrameTooSoon s).manifest = s.manifest := by
  unfold beginFrameTooSoon
  repeat' split
  all_goals rfl

theorem finishCommand_manifest (s : State) : (finishCommand s).manifest = s.manifest := by
  unfold finishCommand
  split <;> rfl

theorem raiseResetN_manifest (s : State) : (raiseResetN s).manifest = s.manifest := by
  unfold raiseResetN
  split <;> rfl

theorem becomeReady_manifest (s : State) : (becomeReady s).manifest = s.manifest := by
  unfold becomeReady
  split <;> rfl

theorem manifestFits_reset : ManifestFits State.reset :=
  have ⟨_, _, hmap, hpages, _⟩ := resetStateIsLawful
  ⟨hmap, hpages⟩

/-! ### Every command -/

theorem exec_manifestFits (x : Instr) (hs : ManifestFits s) : ∃ t, exec x s = .next t ∧ ManifestFits t := by
  cases hx : hostOwner x with
  | some own =>
    obtain ⟨n, hn⟩ := exec_hostOwner (s := s) hx
    exact ⟨_, hn, hostFrame_fits (takeCommand_fits hx) n hs⟩
  | none =>
    cases x
    case nop filler => exact ⟨_, rfl, hostFrame_fits (f := takeNop) (fun hu => hu.of_manifest rfl) _ hs⟩
    case frameEnd bytes leftover => exact ⟨_, rfl, endFrame_fits (judgeFrame_fits bytes) _ hs⟩
    case frameBegunTooSoon => exact ⟨_, rfl, hs.of_manifest (beginFrameTooSoon_manifest s)⟩
    case commandFinish => exact ⟨_, rfl, hs.of_manifest (finishCommand_manifest s)⟩
    case reset => exact ⟨_, rfl, manifestFits_reset.of_manifest rfl⟩
    case partReady => exact ⟨_, rfl, hs.of_manifest (becomeReady_manifest s)⟩
    case resetNRise => exact ⟨_, rfl, hs.of_manifest (raiseResetN_manifest s)⟩
    case roundPeriodDue => exact ⟨_, rfl, hs.of_manifest (roundDue_manifest s)⟩
    case replyWindowExpiry => exact ⟨_, rfl, (expireWindow_trims s).fits hs⟩
    case answerEnd bytes b => exact ⟨_, rfl, (receiveAnswer_trims bytes b s).fits hs⟩
    case answerOverlength => exact ⟨_, rfl, (endReception_trims fun y => noAnswer_trims y s).fits hs⟩
    case emptyRoundEnd => exact ⟨_, rfl, hs.of_manifest (endEmptyRound_manifest s)⟩
    case answerStartBit => exact ⟨_, rfl, hs.of_manifest (openReception_manifest s)⟩
    case leaseExpiry c => exact ⟨_, rfl, hs.of_manifest (expireLock_manifest c s)⟩
    case ageEvent => exact ⟨_, rfl, (ageEvent_trims s).fits hs⟩
    case mergeStep => exact ⟨_, rfl, mergeStep_fits hs⟩
    case join | leave | park | lock | setDown | pickUp | claim | yield | yieldSurvey | survey =>
      exact ⟨_, rfl, (endReception_trims fun y => takeAnswer_trims y _ _ s).fits hs⟩
    all_goals cases hx

/-- Settles O55: entries leave the map, merge steps put them in at their place, and PAGE_MERGE and the last merge step alone
turn the pages. -/
theorem manifestStaysInForm : Obligations.ManifestStaysInForm := by
  intro s t hmap hpages hstep
  have hs : ManifestFits s := ⟨hmap, hpages⟩
  suffices ht : ManifestFits t from ⟨ht.map, ht.pages⟩
  unfold step at hstep
  split at hstep
  · cases hstep
    exact hs.of_manifest rfl
  · next x rest _ =>
    obtain ⟨u, hu, hfits⟩ := exec_manifestFits x (hs.of_manifest (t := s.setPending rest) rfl)
    rw [hu] at hstep
    cases hstep
    exact hfits

end Sys2Proof.Machine
end

section
/-! The host commands of the line controller (R111, R114, R123 to R125), and the events that begin and end its rounds (R113,
R122). -/

namespace Sys2Proof.Machine

open Sys2Proof Sys2Proof.Safety

variable {s : State} {b m : Byte} {k : Slot}

/-! ### SLOT_MODE and BLOCK_MODE (R111, R114) -/

theorem ownSlotMode_range (h : 63 < b.toNat ∨ 2 < m.toNat) : ownSlotMode b m s = answer .range s := by
  unfold ownSlotMode
  rcases h with h | h
  · rw [readSlotNo_none h]
  · rw [readSlotMode_none h]
    cases readSlotNo b <;> rfl

theorem ownSlotMode_inRange (hk : b.toNat = k.val) (hm : m.toNat ≤ 2) : ownSlotMode b m s =
    answer .ok (s.setSlot k { s.slot k with nextMode := if m = 0 then .off else if m = 1 then .quiet else .on }) := by
  unfold ownSlotMode
  rw [readSlotNo_eq hk, readSlotMode_eq hm]

theorem ownBlockMode_range {a c : Byte} (h : 1 < m.toNat ∨ (m = 1 ∧ (7 < a.toNat ∨ 7 < c.toNat))) :
    ownBlockMode m a c s = answer .range s := by
  rcases h with h | ⟨rfl, h | h⟩
  · unfold ownBlockMode
    split
    · omega
    · omega
    · rfl
  · simp [ownBlockMode, readBlockNo_none h]
  · cases ha : readBlockNo a <;> simp [ownBlockMode, readBlockNo_none h, ha]

theorem ownBlockMode_paired {a c : Byte} {x y : Block} (ha : a.toNat = x.val) (hc : c.toNat = y.val) :
    ownBlockMode 1 a c s = answer .ok (s.setLine { s.line with nextBlockMode := .paired x y }) := by
  simp [ownBlockMode, readBlockNo_eq ha, readBlockNo_eq hc]

/-- Settles O15: a free port hands each frame to its owner, which checks its operands and writes. -/
theorem lineSettingsAreStored : Obligations.LineSettingsAreStored := by
  intro s hp
  have slot : ∀ {b m u r}, ownSlotMode b m s = (u, r) → exec (.slotMode b m) s = .next (commandTaken s u 2 r) :=
    next_taken hp (by decide) (ownSlotMode_blind _ _)
  have block : ∀ {m a b u r}, ownBlockMode m a b s = (u, r) → exec (.blockMode m a b) s = .next (commandTaken s u 3 r) :=
    next_taken hp (by decide) (ownBlockMode_blind _ _ _)
  refine ⟨fun b m h => slot (ownSlotMode_range h), fun b m k hk hm => slot (ownSlotMode_inRange hk hm),
    fun m a b h => block (ownBlockMode_range h), fun a b => block rfl,
    fun a b x y ha hb => block (ownBlockMode_paired ha hb), fun mask => ?_, ?_⟩
  · exact next_taken hp (by decide) (ownBlockEndEnable_blind mask) rfl
  · exact next_taken hp (by decide) ownStatsClear_blind rfl

/-! ### The phase of the line -/

theorem exchangeOf_eq_some {x : Exchange} : exchangeOf s = some x ↔ s.line.phase = .calling x := by
  unfold exchangeOf
  split <;> simp_all

theorem exchangeOf_eq_none : exchangeOf s = none ↔ ∀ x, s.line.phase ≠ .calling x := by
  simp only [Option.eq_none_iff_forall_ne_some, ne_eq, exchangeOf_eq_some]

/-! ### LINK_START and LINK_STOP (R125) -/

theorem ownLinkStart_stopped (h : s.line.run = .stopped) :
    ownLinkStart s = answer .ok (startRound (s.setLine { s.line with run := .running })) := by
  rw [ownLinkStart, h]

theorem ownLinkStart_running (h : s.line.run = .running) : ownLinkStart s = answer .ok s := by
  rw [ownLinkStart, h]

theorem ownLinkStart_stopping (h : s.line.run = .stopping) :
    ownLinkStart s = answer .ok (s.setLine { s.line with run := .running }) := by
  rw [ownLinkStart, h]

theorem ownLinkStop_notRunning (h : s.line.run ≠ .running) : ownLinkStop s = answer .ok s := by
  unfold ownLinkStop
  split
  · rfl
  · rfl
  · contradiction

theorem ownLinkStop_calling {x : Exchange} (h : s.line.run = .running) (hx : exchangeOf s = some x) :
    ownLinkStop s = answer .ok (s.setLine { s.line with run := .stopping }) := by
  rw [ownLinkStop, h]
  simp only [exchangeOf_eq_some.1 hx]

theorem ownLinkStop_between (h : s.line.run = .running) (hx : exchangeOf s = none) :
    ownLinkStop s = answer .ok (stopLink s) := by
  rw [ownLinkStop, h]
  dsimp only
  split
  · next x hp => exact absurd hp (exchangeOf_eq_none.1 hx x)
  all_goals rfl

/-! ### ROUND_PERIOD_DUE and EMPTY_ROUND_END (R122) -/

theorem roundDue_waiting (h : s.line.phase = .waiting) : roundDue s = startRound s := by rw [roundDue, h]

theorem roundDue_idle (h : s.line.phase = .idle) : roundDue s = s := by rw [roundDue, h]

/-- A round in progress keeps the first moment at which its successor comes due, if there is a round period. -/
theorem roundDue_inRound (h : s.line.phase = .emptyRound ∨ (exchangeOf s).isSome) : roundDue s =
    if s.line.roundPeriod = 0 then s else { s with line := { s.line with dueAt := some (s.line.dueAt.getD s.now) } } := by
  have kept : roundDue s = if s.line.roundPeriod ≠ 0 ∧ s.line.dueAt.isNone then
      s.setLine { s.line with dueAt := some s.now } else s := by
    rcases h with h | h
    · rw [roundDue, h]
    · obtain ⟨x, hx⟩ := Option.isSome_iff_exists.1 h
      rw [roundDue, exchangeOf_eq_some.1 hx]
  rw [kept]
  by_cases hp : s.line.roundPeriod = 0
  · rw [if_pos hp, if_neg fun hn => hn.1 hp]
  · rw [if_neg hp]
    cases hd : s.line.dueAt with
    | none => rw [if_pos ⟨hp, rfl⟩]; rfl
    | some n => rw [if_neg (by simp), Option.getD_some, ← hd]

/-- Settles O17: both commands begin the round by `startRound`, and a round in progress keeps the moment. -/
theorem roundsBegin : Obligations.RoundsBegin := by
  refine fun s => ⟨fun hp hr => ⟨_, ?_, startRound_begun _⟩, fun hw => ⟨_, ?_, startRound_begun s⟩, fun h => ?_, fun hi => ?_⟩
  · exact next_taken hp (by decide) ownLinkStart_blind (ownLinkStart_stopped hr)
  · exact congrArg Host.Outcome.next (roundDue_waiting hw)
  · exact congrArg Host.Outcome.next (roundDue_inRound h)
  · exact congrArg Host.Outcome.next (roundDue_idle hi)

theorem endEmptyRound_emptyRound (h : s.line.phase = .emptyRound) : endEmptyRound s = endRound s := by rw [endEmptyRound, h]

theorem endEmptyRound_elsewhere (h : s.line.phase ≠ .emptyRound) : endEmptyRound s = s := by
  unfold endEmptyRound
  split
  · contradiction
  all_goals rfl

/-- Settles O36: the round ends as `endRound` says, and the event means nothing elsewhere. -/
theorem emptyRoundEnds : Obligations.EmptyRoundEnds :=
  fun s => ⟨fun h => congrArg Host.Outcome.next (endEmptyRound_elsewhere h),
    fun h => ⟨_, congrArg Host.Outcome.next (endEmptyRound_emptyRound h), endRound_ended s⟩⟩

end Sys2Proof.Machine
end

section
/-! JOIN (R119, R120) on a probe and on a regular CALL, and LEAVE (R121) with what an accepted one leaves of each table. -/

namespace Sys2Proof.Machine

open Sys2Proof Sys2Proof.Safety

variable {s : State} {k : Slot} {st : Status} {id : RobotId}

/-! ### An answer to a probe (R119) -/

/-- R129: a slot record after the status of an answer, in the terms of the statements. -/
theorem withStatus_eq (r : SlotRec) (st : Status) (v : Option Verdict) :
    { r.withStatus st with miss := 0, verdict := v } = slotAfter r st v := by
  simp [SlotRec.withStatus, slotAfter, min_eq_ite, readCondition_eq]

theorem idLive_iff : s.idLive id = true ↔ ∃ j, (s.slot j).link = .live ∧ (s.slot j).robotId = some id := by
  simp [State.idLive, State.isLive]

theorem takeProbe_noId : takeProbe k st (some (.join 0)) s = s := rfl

theorem takeProbe_idLive (h0 : id ≠ 0) (hid : ∃ j, (s.slot j).link = .live ∧ (s.slot j).robotId = some id) :
    takeProbe k st (some (.join id)) s = setVerdict k (some .refusedId) s :=
  (if_neg h0).trans (if_pos (idLive_iff.2 hid))

theorem takeProbe_welcome (h0 : id ≠ 0) (hid : ∀ j, (s.slot j).link = .live → (s.slot j).robotId ≠ some id) :
    takeProbe k st (some (.join id)) s =
      s.setSlot k { slotAfter (s.slot k) st (some .welcome) with link := .live, robotId := some id } := by
  have hfree : ¬ s.idLive id = true := fun h =>
    have ⟨j, hlive, e⟩ := idLive_iff.1 h
    hid j hlive e
  rw [← withStatus_eq]
  exact (if_neg h0).trans (if_neg hfree)

theorem takeProbe_other {q : Request} (hq : ∀ id, q ≠ .join id) : takeProbe k st (some q) s = s := by
  unfold takeProbe
  split
  · next id h => exact absurd (Option.some.inj h) (hq id)
  · rfl

/-- A request heard on a probe: `takeProbe` judges it, and the line goes on. -/
theorem probe_goesOn {i : Instr} {q : Request} {u : State} (hh : Hears s k .probe) (hi : requestOf i = some (st, q))
    (hu : takeProbe k st (some q) s = u) (hp : u.line.phase = s.line.phase) :
    ∃ t, exec i s = .next t ∧ LineGoesOn u t := by
  obtain ⟨x, -, hk, hkind, e⟩ := answered_of_hears s hh st (some q)
  refine ⟨afterExchange k u, ?_, afterExchange_goesOn u (slot_of_hears s hh hp)⟩
  rw [exec_request s hi, e, takeAnswer, hkind, hk, ← hu]

/-- R120: JOIN on a regular CALL. -/
theorem join_regular (hh : Hears s k .regular) (hc : Sound s k st) :
    Refuses s (.join st id) k st (if (s.slot k).robotId = some id then .welcome else .wrongState) := by
  refine refuses_of_judge s rfl hh hc ?_
  have hid : ((heard k st s).slot k).robotId = (s.slot k).robotId := by rw [heard_slot_self]; rfl
  have hjudge : judgeRequest k (.join id) (heard k st s) = judgeJoin k id (heard k st s) := by
    simp [judgeRequest, Request.unreadable, Request.isJoin, Request.busyForWaiter, ownerJudges]
  rw [hjudge, judgeJoin, hid]
  split <;> rfl

/-- Settles O40: the four outcomes of a probe's answer are those of `takeProbe`. -/
theorem joinJudged : Obligations.JoinJudged := by
  refine fun s k st id => ⟨fun hh => ⟨?_, fun h0 hid => ?_, fun h0 hid => ?_, fun i q hi hq => ?_⟩, join_regular⟩
  · rintro rfl
    exact probe_goesOn hh rfl takeProbe_noId rfl
  · exact probe_goesOn hh rfl (takeProbe_idLive h0 hid) rfl
  · exact probe_goesOn hh rfl (takeProbe_welcome h0 hid) rfl
  · exact probe_goesOn hh hi (takeProbe_other hq) rfl

/-! ### What an accepted LEAVE makes of each table (R121) -/

theorem acceptLeave_line (k : Slot) (s : State) :
    (acceptLeave k s).line = { s.line with slots := (acceptLeave k s).line.slots } := by
  simp [acceptLeave, State.setSlot]

theorem acceptLeave_slot (k j : Slot) (s : State) :
    (acceptLeave k s).slot j = if k = j then (s.slot j).vacated else s.slot j := by
  simp only [acceptLeave, setSlot_slot_if, dropDesignations_slot, setMark_slot, dropPromises_slot, State.dropWaiter_slot]
  split
  · next e => rw [e]
  · rfl

theorem acceptLeave_mark (k j : Slot) (s : State) : (acceptLeave k s).mark j = if j = k then none else s.mark j := by
  split
  · next e => subst e; simp [acceptLeave]
  · next e => simp [acceptLeave, e]

theorem acceptLeave_lockOf (k : Slot) (c : Col) (s : State) : (acceptLeave k s).lockOf c = s.lockOf c := by
  simp [acceptLeave]

theorem acceptLeave_waitsOf (k : Slot) (c : Col) (s : State) :
    (acceptLeave k s).waitsOf c = (s.waitsOf c).filter fun e => decide (e.slot ≠ k) := by
  simp [acceptLeave, dropWaiter_waitsOf]

theorem acceptLeave_surveyor (k : Slot) (c : Col) (s : State) :
    (acceptLeave k s).surveyor c = if s.surveyor c = some k then none else s.surveyor c := by
  simp [acceptLeave, dropDesignations_surveyor]

theorem acceptLeave_box (k : Slot) (s : State) : (acceptLeave k s).survey.box = s.survey.box := by
  simp [acceptLeave]

theorem acceptLeave_handoff (k : Slot) (s : State) : (acceptLeave k s).handoff = (dropPromises k (s.dropWaiter k)).handoff :=
  rfl

theorem acceptLeave_counts (k : Slot) (s : State) : SameCounts s (acceptLeave k s) :=
  dropPromises_counts (s.dropWaiter k) k

/-- A promise to the slot that leaves is dropped. -/
theorem acceptLeave_promised {i : RecIdx} {r : Record} (hr : s.live i = some r) (hst : r.state = .promised)
    (hk : r.collector = some k) : (acceptLeave k s).entry i = { s.entry i with
      live := some { r with state := .parked, collector := none, strandedFrom := none, buried := false } } := by
  rw [entry_congr (acceptLeave_handoff k s), dropPromises_entry, State.dropWaiter_live, hr]
  simp [hst, hk]

theorem acceptLeave_unpromised {i : RecIdx} (h : ∀ r ∈ s.live i, ¬ (r.state = .promised ∧ r.collector = some k)) :
    (acceptLeave k s).entry i = s.entry i := by
  rw [entry_congr (acceptLeave_handoff k s), dropPromises_entry, State.dropWaiter_live, if_neg, State.dropWaiter_entry]
  simpa [Option.any_eq_true] using h

/-! ### LEAVE (R121) -/

theorem judgeLeave_holds (h : ∃ c, ∃ l ∈ s.lockOf c, l.holder = k) : judgeLeave k s = (s, .wrongState) := by
  refine if_pos ?_
  rw [Option.isSome_iff_ne_none, ne_eq, holding_eq_none]
  simpa using h

theorem reservedBy_iff {r : Record} :
    r.reservedBy k = true ↔ (r.state = .reserved ∨ r.state = .placing) ∧ r.releaser = some k := by
  simp [Record.reservedBy, Record.reserves]

/-- The slot is releaser of a RESERVED or PLACING record, as the list of such records. -/
theorem reservations_ne_nil_iff : s.recordsWhere (·.reservedBy k) ≠ [] ↔
    ∃ i, ∃ r ∈ s.live i, (r.state = .reserved ∨ r.state = .placing) ∧ r.releaser = some k := by
  simp [recordsWhere_eq_nil, reservedBy_iff]

theorem judgeLeave_refused (h : (∃ c, ∃ l ∈ s.lockOf c, l.holder = k) ∨
    ∃ i, ∃ r ∈ s.live i, (r.state = .reserved ∨ r.state = .placing) ∧ r.releaser = some k) :
    judgeLeave k s = (s, .wrongState) := by
  rcases h with h | h
  · exact judgeLeave_holds h
  · unfold judgeLeave
    split
    · rfl
    · exact if_pos (reservations_ne_nil_iff.2 h)

theorem judgeLeave_accepted (hl : ¬ ∃ c, ∃ l ∈ s.lockOf c, l.holder = k)
    (hr : ¬ ∃ i, ∃ r ∈ s.live i, (r.state = .reserved ∨ r.state = .placing) ∧ r.releaser = some k) :
    judgeLeave k s = (acceptLeave k s, .left) := by
  have hnone : s.holding k = none := holding_eq_none.2 fun c l hc hk => hl ⟨c, l, hc, hk⟩
  unfold judgeLeave
  rw [hnone, if_neg (by simp), if_neg (mt reservations_ne_nil_iff.1 hr)]

/-- A LEAVE from a slot that is not QUIET reaches its owner. -/
theorem judgeRequest_leave (h : Reports s k st) :
    judgeRequest k .leave (heard k st s) = judgeLeave k (heard k st s) := judge_heard s h rfl nofun

/-- The state in which an accepted LEAVE of slot `k` has been taken, before the line goes on. -/
def leaveTaken (k : Slot) (st : Status) (s : State) : State :=
  (setVerdict k (some .left) (acceptLeave k (heard k st s))).setMark k none

theorem exec_leave (h : Reports s k st) (hl : ¬ ∃ c, ∃ l ∈ s.lockOf c, l.holder = k)
    (hr : ¬ ∃ i, ∃ r ∈ s.live i, (r.state = .reserved ∨ r.state = .placing) ∧ r.releaser = some k) :
    exec (.leave st) s = .next (afterExchange k (leaveTaken k st s)) := by
  have hexec := exec_heard s (i := .leave st) rfl h.1 h.2.2
  rwa [judgeRequest_leave h, judgeLeave_accepted (s := heard k st s) hl hr] at hexec

theorem leaveTaken_only (k : Slot) (st : Status) (s : State) :
    OnlyChanges [.line, .lock, .handoff, .survey] s (leaveTaken k st s) :=
  (((heard_only s k st).mono (by decide)).trans ((acceptLeave_only k _).mono (by decide))).trans
    (((setVerdict_only k (some .left) _).mono (by decide)).trans ((setMark_only k none _).mono (by decide)))

theorem leaveTaken_line (k : Slot) (st : Status) (s : State) :
    (leaveTaken k st s).line = { s.line with slots := (leaveTaken k st s).line.slots } := by
  simp only [leaveTaken, setMark_line, setVerdict, State.setSlot, setLine_line]
  rw [acceptLeave_line]
  rfl

theorem leaveTaken_slot_self (k : Slot) (st : Status) (s : State) : (leaveTaken k st s).slot k =
    { slotAfter (s.slot k) st (some .left) with link := .vacant, robotId := none } := by
  simp [leaveTaken, setVerdict, acceptLeave_slot, heard_slot_self, SlotRec.vacated, slotAfter]

theorem leaveTaken_slot_ne {j : Slot} (hj : j ≠ k) : (leaveTaken k st s).slot j = s.slot j := by
  simp [leaveTaken, setVerdict, hj, acceptLeave_slot, hj.symm, heard_slot]

theorem leaveTaken_mark (k j : Slot) (st : Status) (s : State) :
    (leaveTaken k st s).mark j = if j = k then none else s.mark j := by
  by_cases hj : j = k
  · subst hj; simp [leaveTaken]
  · simp [leaveTaken, setVerdict, hj, acceptLeave_mark]

theorem leaveTaken_locks (k : Slot) (st : Status) (s : State) (c : Col) : (leaveTaken k st s).lockOf c = s.lockOf c ∧
    (leaveTaken k st s).waitsOf c = (s.waitsOf c).filter fun e => decide (e.slot ≠ k) :=
  ⟨acceptLeave_lockOf k c (heard k st s), acceptLeave_waitsOf k c (heard k st s)⟩

/-- Settles O41: the two refusals in their order, and an accepted LEAVE table by table. -/
theorem leaveJudged : Obligations.LeaveJudged := by
  intro s k st h holds reserves
  obtain ⟨hh, -, hc⟩ := id h
  refine ⟨fun hno => refuses_of_judge s rfl hh hc ((judgeRequest_leave h).trans (judgeLeave_refused hno)), fun hl hr => ?_⟩
  have hline := leaveTaken_line k st s
  refine ⟨leaveTaken k st s, _, exec_leave h hl hr, afterExchange_goesOn _ (slot_of_hears s hh ?_), leaveTaken_only k st s,
    hline, leaveTaken_slot_self k st s, fun j hj => ⟨leaveTaken_slot_ne hj, ?_⟩, ?_, acceptLeave_counts k (heard k st s),
    leaveTaken_locks k st s, fun c => acceptLeave_surveyor k c (heard k st s), acceptLeave_box k (heard k st s),
    fun i r hr => acceptLeave_promised (s := heard k st s) hr, fun i => acceptLeave_unpromised (s := heard k st s)⟩
  · rw [hline]
  · rw [leaveTaken_mark, if_neg hj]
  · rw [leaveTaken_mark, if_pos rfl]

end Sys2Proof.Machine
end

section
/-! What the end of an exchange leaves alone, whatever the answer: the modes of the slots, the round and its figures, the notices
of the rounds, the lease limits, and the blocks of other chapters (R118, R145). It is one part of the state, its backdrop, and
each operation has one equation that says it stays. -/

namespace Sys2Proof.Machine

open Sys2Proof Sys2Proof.Safety

variable {s t u : State} {c : Col} {k : Slot}

/-- The pending flags of the notices that a round raises, LATE_ROUND and BLOCK_END (R165). -/
def roundFlags : BitVec 11 := NoticeKind.lateRound.mask ||| NoticeKind.blockEnd.mask

/-- The part of the state that the taking of an answer does not change; the rest is blanked out. -/
def State.backdrop (s : State) : State :=
  { State.reset with
    pending := s.pending, now := s.now, power := s.power, port := s.port, placement := s.placement, age := s.age
    notice := { NoticeUnit.reset with
      pending := s.notice.pending &&& roundFlags
      enabled := s.notice.enabled, blockEnd := s.notice.blockEnd, frameError := s.notice.frameError }
    line := { s.line with
      slots := s.line.slots.map fun r => { SlotRec.reset with mode := r.mode, nextMode := r.nextMode } }
    lock := { LockUnit.reset with
      placeLimit := s.lock.placeLimit, liftLimit := s.lock.liftLimit, surveyLimit := s.lock.surveyLimit } }

theorem modes_of_backdrop (h : t.backdrop = s.backdrop) (j : Slot) :
    (t.slot j).mode = (s.slot j).mode ∧ (t.slot j).nextMode = (s.slot j).nextMode := by
  have hrec := congrArg (fun v : State => v.slot j) h
  simp only [State.backdrop, State.slot, Fin.getElem_fin, Vector.getElem_map] at hrec
  exact ⟨(congrArg SlotRec.mode hrec :), (congrArg SlotRec.nextMode hrec :)⟩

theorem line_of_backdrop (h : t.backdrop = s.backdrop) : t.line = { s.line with slots := t.line.slots } :=
  (congrArg (fun v : State => { v.line with slots := t.line.slots }) h :)

/-- Two of the pending flags are in the backdrop. -/
theorem flag_of_backdrop (h : t.backdrop = s.backdrop) {b : Nat} (hb : b = 8 ∨ b = 9) :
    t.notice.pending.getLsbD b = s.notice.pending.getLsbD b := by
  have hflag : (t.notice.pending &&& roundFlags).getLsbD b = (s.notice.pending &&& roundFlags).getLsbD b :=
    congrArg (fun v : State => v.notice.pending.getLsbD b) h
  have hset : roundFlags.getLsbD b = true := by rcases hb with rfl | rfl <;> decide
  rwa [BitVec.getLsbD_and, BitVec.getLsbD_and, hset, Bool.and_true, Bool.and_true] at hflag

/-- A change that keeps the backdrop is the taking of the end of an exchange. -/
theorem endTaken_of_backdrop (h : u.backdrop = s.backdrop) : EndTaken s u where
  rest := ⟨(congrArg State.pending h :), (congrArg State.now h :), fun p hp => by
    cases p
    case power => exact (congrArg State.power h :)
    case port => exact (congrArg State.port h :)
    case placement => exact (congrArg State.placement h :)
    case age => exact (congrArg State.age h :)
    all_goals simp at hp⟩
  line := line_of_backdrop h
  modes := modes_of_backdrop h
  notices := ⟨flag_of_backdrop h (.inl rfl), flag_of_backdrop h (.inr rfl),
    (congrArg (fun v : State => v.notice.blockEnd) h :), (congrArg (fun v : State => v.notice.frameError) h :),
    (congrArg (fun v : State => v.notice.enabled) h :)⟩

/-! ### Rows, notices and records -/

theorem backdrop_of_only (h : OnlyChanges [.columns, .handoff, .manifest, .survey] s t) : t.backdrop = s.backdrop := by
  unfold State.backdrop
  rw [h.1, h.2.1, h.power (by decide), h.port (by decide), h.placement (by decide), h.age (by decide), h.notice (by decide),
    h.line (by decide), h.lock (by decide)]

theorem forEach_backdrop {α : Type} {f : α → State → State} (hf : ∀ a u, (f a u).backdrop = u.backdrop) (l : List α)
    (s : State) : (forEach l f s).backdrop = s.backdrop := by
  induction l generalizing s with
  | nil => rfl
  | cons a l ih => exact (ih (f a s)).trans (hf a s)

@[simp] theorem setCol_backdrop (c : Col) (x : Column) (s : State) : (s.setCol c x).backdrop = s.backdrop := rfl
@[simp] theorem setEntry_backdrop (i : RecIdx) (e : Entry) (s : State) : (s.setEntry i e).backdrop = s.backdrop := rfl
@[simp] theorem setRec_backdrop (i : RecIdx) (r : Record) (s : State) : (s.setRec i r).backdrop = s.backdrop := rfl
@[simp] theorem setHandoff_backdrop (x : Handoff) (s : State) : (s.setHandoff x).backdrop = s.backdrop := rfl
@[simp] theorem setSurvey_backdrop (x : SurveyUnit) (s : State) : (s.setSurvey x).backdrop = s.backdrop := rfl
@[simp] theorem setSurveyor_backdrop (c : Col) (o : Option Slot) (s : State) : (s.setSurveyor c o).backdrop = s.backdrop := rfl
@[simp] theorem setMark_backdrop (k : Slot) (o : Option Col) (s : State) : (s.setMark k o).backdrop = s.backdrop := rfl
@[simp] theorem setLockOf_backdrop (c : Col) (o : Option Lock) (s : State) : (s.setLockOf c o).backdrop = s.backdrop := rfl
@[simp] theorem setWaitsOf_backdrop (c : Col) (l : List WaitEntry) (s : State) :
    (s.setWaitsOf c l).backdrop = s.backdrop := rfl
@[simp] theorem dropWaiter_backdrop (k : Slot) (s : State) : (s.dropWaiter k).backdrop = s.backdrop := rfl
@[simp] theorem dropWaitFor_backdrop (c : Col) (h : Handle) (s : State) : (s.dropWaitFor c h).backdrop = s.backdrop := rfl

/-- A slot record changes in other fields than its modes. -/
theorem setSlot_backdrop {x : SlotRec} (hm : x.mode = (s.slot k).mode) (hn : x.nextMode = (s.slot k).nextMode) :
    (s.setSlot k x).backdrop = s.backdrop := by
  have hslots : (s.line.slots.set k x).map (fun r => { SlotRec.reset with mode := r.mode, nextMode := r.nextMode }) =
      s.line.slots.map fun r => { SlotRec.reset with mode := r.mode, nextMode := r.nextMode } := by
    refine Vector.ext fun i hi => ?_
    simp only [Vector.getElem_map, Vector.getElem_set]
    split
    · next e => subst e; rw [hm, hn]; rfl
    · rfl
  simp only [State.backdrop, State.setSlot, setLine_line, hslots]
  rfl

/-- A kind other than LATE_ROUND and BLOCK_END is raised, with a subject other than BLOCK_END's and FRAME_ERROR's. -/
theorem afterRaising_backdrop {n : NoticeUnit} {b : Nat} (hb : b < 8) (hp : n.pending = s.notice.pending)
    (he : n.enabled = s.notice.enabled) (hk : n.blockEnd = s.notice.blockEnd) (hf : n.frameError = s.notice.frameError) :
    (s.setNotice (afterRaising b n)).backdrop = s.backdrop := by
  have hmask : ∀ p : BitVec 11, (p ||| BitVec.twoPow 11 b) &&& roundFlags = p &&& roundFlags := fun p => by
    have hnone : BitVec.twoPow 11 b &&& roundFlags = 0 := by
      revert b; decide
    rw [BitVec.and_comm, BitVec.and_or_distrib_left, BitVec.and_comm _ p, BitVec.and_comm _ (BitVec.twoPow 11 b), hnone]
    exact BitVec.or_zero
  simp only [State.backdrop, setNotice_notice, afterRaising, hp, he, hk, hf, hmask]
  rfl

@[simp] theorem raiseLost_backdrop (s : State) : (raise .lost s).backdrop = s.backdrop :=
  afterRaising_backdrop (b := 0) (by decide) rfl rfl rfl rfl
@[simp] theorem raiseStranded_backdrop (s : State) : (raise .stranded s).backdrop = s.backdrop :=
  afterRaising_backdrop (b := 1) (by decide) rfl rfl rfl rfl
@[simp] theorem raiseFault_backdrop (s : State) : (raise .fault s).backdrop = s.backdrop :=
  afterRaising_backdrop (b := 2) (by decide) rfl rfl rfl rfl
@[simp] theorem raiseBuried_backdrop (h : Handle) (s : State) : (raiseBuried h s).backdrop = s.backdrop :=
  afterRaising_backdrop (b := 5) (by decide) rfl rfl rfl rfl
@[simp] theorem raiseUnlisted_backdrop (h : Handle) (s : State) : (raiseUnlisted h s).backdrop = s.backdrop :=
  afterRaising_backdrop (b := 6) (by decide) rfl rfl rfl rfl

@[simp] theorem updRec_backdrop (i : RecIdx) (f : Record → Record) (s : State) : (updRec i f s).backdrop = s.backdrop :=
  backdrop_of_only ((updRec_only i f s).mono (by decide))
@[simp] theorem parkRecord_backdrop (i : RecIdx) (s : State) : (parkRecord i s).backdrop = s.backdrop := updRec_backdrop ..
@[simp] theorem reserveRecord_backdrop (i : RecIdx) (s : State) : (reserveRecord i s).backdrop = s.backdrop :=
  updRec_backdrop ..
@[simp] theorem pushRecord_backdrop (i : RecIdx) (c : Col) (s : State) : (pushRecord i c s).backdrop = s.backdrop :=
  backdrop_of_only ((pushRecord_only i c s).mono (by decide))
@[simp] theorem popStack_backdrop (c : Col) (s : State) : (popStack c s).backdrop = s.backdrop := rfl
@[simp] theorem makeAt_backdrop (i : RecIdx) (r : Record) (s : State) : (makeAt i r s).backdrop = s.backdrop := rfl
@[simp] theorem consume_backdrop (tag : Tag) (s : State) : (consume tag s).backdrop = s.backdrop :=
  backdrop_of_only ((consume_only tag s).mono (by decide))

@[simp] theorem refreshBuried_backdrop (i : RecIdx) (s : State) : (refreshBuried i s).backdrop = s.backdrop := by
  unfold refreshBuried
  split
  · rfl
  · dsimp only
    split <;> simp

@[simp] theorem refreshStack_backdrop (c : Col) (s : State) : (refreshStack c s).backdrop = s.backdrop :=
  forEach_backdrop (f := fun h : Handle => refreshBuried h.idx) (fun h u => refreshBuried_backdrop h.idx u) _ s

@[simp] theorem promiseRecord_backdrop (i : RecIdx) (k : Slot) (s : State) : (promiseRecord i k s).backdrop = s.backdrop := by
  simp [promiseRecord]

@[simp] theorem noteUnlisted_backdrop (i : RecIdx) (b : Bool) (s : State) : (noteUnlisted i b s).backdrop = s.backdrop := by
  cases b
  · rfl
  · exact raiseUnlisted_backdrop ..

@[simp] theorem retire_backdrop (i : RecIdx) (o : Retirement) (s : State) : (retire i o s).backdrop = s.backdrop := by
  unfold retire
  split
  · rfl
  · dsimp only
    split <;> simp

theorem retireAll_backdrop (l : List RecIdx) (o : Retirement) (s : State) :
    (forEach l (fun i => retire i o) s).backdrop = s.backdrop := forEach_backdrop (fun i u => retire_backdrop i o u) l s

/-! ### Locks and columns -/

@[simp] theorem grant_backdrop (c : Col) (k : Slot) (w : Hold) (s : State) : (grant c k w s).backdrop = s.backdrop := by
  unfold grant
  split <;> simp

@[simp] theorem scan_backdrop (c : Col) (s : State) : (scan c s).backdrop = s.backdrop := by
  unfold scan
  split
  · rfl
  · split <;> simp

@[simp] theorem endLock_backdrop (c : Col) (s : State) : (endLock c s).backdrop = s.backdrop := rfl

@[simp] theorem strand_backdrop (c : Col) (k : Slot) (w : Work) (h : Handle) (s : State) :
    (strand c k w h s).backdrop = s.backdrop := by
  simp [strand]

@[simp] theorem breakLock_backdrop (c : Col) (s : State) : (breakLock c s).backdrop = s.backdrop := by
  unfold breakLock
  split
  · rfl
  · split <;> simp

@[simp] theorem expireLock_backdrop (c : Col) (s : State) : (expireLock c s).backdrop = s.backdrop := by
  unfold expireLock
  split <;> simp

@[simp] theorem settleColumn_backdrop (c : Col) (s : State) : (settleColumn c s).backdrop = s.backdrop := rfl

@[simp] theorem returnWork_backdrop (w : Work) (i : RecIdx) (s : State) : (returnWork w i s).backdrop = s.backdrop := by
  cases w <;> simp [returnWork]

@[simp] theorem dropDesignations_backdrop (k : Slot) (s : State) : (dropDesignations k s).backdrop = s.backdrop := rfl

@[simp] theorem dropPromises_backdrop (k : Slot) (s : State) : (dropPromises k s).backdrop = s.backdrop :=
  forEach_backdrop parkRecord_backdrop _ s

/-! ### The stranded record (R32, R152) -/

@[simp] theorem resolveAbsentPlacement_backdrop (i : RecIdx) (b : Bool) (s : State) :
    (resolveAbsentPlacement i b s).backdrop = s.backdrop := by
  unfold resolveAbsentPlacement
  split <;> simp

@[simp] theorem resolveLiftInPlace_backdrop (i : RecIdx) (o : Option Slot) (b : Bool) (s : State) :
    (resolveLiftInPlace i o b s).backdrop = s.backdrop := by
  unfold resolveLiftInPlace
  split <;> simp

@[simp] theorem resolveLiftGone_backdrop (i : RecIdx) (b : Bool) (s : State) : (resolveLiftGone i b s).backdrop = s.backdrop :=
  retire_backdrop ..

theorem resolution_backdrop {tags : List Tag} {f : State → State} (hf : resolution c tags s = some f) (u : State) :
    (f u).backdrop = u.backdrop := by
  unfold resolution at hf
  split at hf
  · cases hf
  · split at hf
    · cases hf
    · dsimp only at hf
      split at hf
      · split at hf
        · split at hf
          · cases hf; simp
          · split at hf
            · cases hf; simp
            · cases hf
        · split at hf
          · cases hf; simp
          · split at hf
            · cases hf; simp
            · cases hf
        · cases hf
      · cases hf

/-! ### The judging of a request (R131, R132) -/

theorem reservePlace_backdrop (i : RecIdx) (k : Slot) (tag : Tag) (f : BinFacts × Bool) (c : Col) (s : State) :
    (reservePlace i k tag f c s).backdrop = s.backdrop := by
  simp [reservePlace]

theorem judgePark_backdrop (k : Slot) (tag : Tag) (s : State) : (judgePark k tag s).1.backdrop = s.backdrop := by
  unfold judgePark
  split
  · rfl
  · split
    · split <;> rfl
    · split
      · rfl
      · split
        · rfl
        · split
          · rfl
          · dsimp only
            split
            · rfl
            · exact reservePlace_backdrop ..

theorem judgeLock_backdrop (k : Slot) (col : Byte) (o : Option Handle) (s : State) :
    (judgeLock k col o s).1.backdrop = s.backdrop := by
  unfold judgeLock judgeSurveyLock judgeWorkLock
  repeat' split
  all_goals simp

theorem judgeSetDown_backdrop (k : Slot) (h : Handle) (s : State) : (judgeSetDown k h s).1.backdrop = s.backdrop := by
  unfold judgeSetDown acceptSetDown
  repeat' split
  all_goals simp

theorem judgePickUp_backdrop (k : Slot) (h : Handle) (s : State) : (judgePickUp k h s).1.backdrop = s.backdrop := by
  unfold judgePickUp acceptPickUp
  repeat' split
  all_goals simp

theorem judgeClaim_backdrop (k : Slot) (tag : Tag) (s : State) : (judgeClaim k tag s).1.backdrop = s.backdrop := by
  unfold judgeClaim
  repeat' split
  all_goals simp

theorem judgeYield_backdrop (k : Slot) (h : Handle) (s : State) : (judgeYield k h s).1.backdrop = s.backdrop := by
  unfold judgeYield
  repeat' split
  all_goals simp

theorem judgeYieldSurvey_backdrop (k : Slot) (s : State) : (judgeYieldSurvey k s).1.backdrop = s.backdrop := by
  unfold judgeYieldSurvey
  repeat' split
  all_goals simp

theorem judgeSurvey_backdrop (k : Slot) (col : Byte) (tags : List Tag) (s : State) :
    (judgeSurvey k col tags s).1.backdrop = s.backdrop := by
  unfold judgeSurvey
  split
  · rfl
  · split
    · rfl
    · split
      · rfl
      · split
        · next f hf => exact resolution_backdrop hf s
        · split <;> simp [recordMismatch]

theorem acceptLeave_backdrop (k : Slot) (s : State) : (acceptLeave k s).backdrop = s.backdrop := by
  unfold acceptLeave
  dsimp only
  rw [setSlot_backdrop]
  · simp
  all_goals rfl

theorem judgeLeave_backdrop (k : Slot) (s : State) : (judgeLeave k s).1.backdrop = s.backdrop := by
  unfold judgeLeave
  split
  · rfl
  · split
    · rfl
    · exact acceptLeave_backdrop k s

theorem judgeJoin_backdrop (k : Slot) (id : RobotId) (s : State) : (judgeJoin k id s).1.backdrop = s.backdrop := by
  unfold judgeJoin
  split <;> rfl

theorem ownerJudges_backdrop (k : Slot) (q : Request) (s : State) : (ownerJudges k q s).1.backdrop = s.backdrop := by
  cases q with
  | join id => exact judgeJoin_backdrop k id s
  | leave => exact judgeLeave_backdrop k s
  | park tag => exact judgePark_backdrop k tag s
  | lock col o => exact judgeLock_backdrop k col o s
  | setDown h => exact judgeSetDown_backdrop k h s
  | pickUp h => exact judgePickUp_backdrop k h s
  | claim tag => exact judgeClaim_backdrop k tag s
  | yield h => exact judgeYield_backdrop k h s
  | yieldSurvey => exact judgeYieldSurvey_backdrop k s
  | survey col tags => exact judgeSurvey_backdrop k col tags s
  | bad => rfl

theorem judgeRequest_backdrop (k : Slot) (q : Request) (s : State) : (judgeRequest k q s).1.backdrop = s.backdrop := by
  unfold judgeRequest
  split
  · rfl
  · split
    · rfl
    · split
      · rfl
      · exact ownerJudges_backdrop k q s

/-! ### Answers, misses and losses (R118, R119, R145) -/

theorem setVerdict_backdrop (k : Slot) (v : Option Verdict) (s : State) : (setVerdict k v s).backdrop = s.backdrop :=
  setSlot_backdrop rfl rfl

theorem takeCondition_backdrop (k : Slot) (s : State) : (takeCondition k s).backdrop = s.backdrop := by
  unfold takeCondition
  split
  · split <;> simp
  · rfl

theorem takeRequest_backdrop (k : Slot) (q : Request) (b : Bool) (s : State) : (takeRequest k q b s).backdrop = s.backdrop := by
  have h := (setVerdict_backdrop k (some (judgeRequest k q s).2) _).trans (judgeRequest_backdrop k q s)
  unfold takeRequest
  dsimp only
  split <;> exact h

theorem takeRegular_backdrop (k : Slot) (st : Status) (q : Option Request) (s : State) :
    (takeRegular k st q s).backdrop = s.backdrop := by
  have taken : (takeStatus k st s).backdrop = s.backdrop := setSlot_backdrop rfl rfl
  have h := ((setVerdict_backdrop k none _).trans (takeCondition_backdrop k _)).trans taken
  unfold takeRegular
  dsimp only
  split
  · exact h
  · exact (takeRequest_backdrop k _ _ _).trans h

theorem takeProbe_backdrop (k : Slot) (st : Status) (q : Option Request) (s : State) :
    (takeProbe k st q s).backdrop = s.backdrop := by
  unfold takeProbe
  split
  · split
    · rfl
    · split
      · exact setVerdict_backdrop ..
      · exact setSlot_backdrop rfl rfl
  · rfl

theorem takeAnswer_backdrop (x : Exchange) (st : Status) (q : Option Request) (s : State) :
    (takeAnswer x st q s).backdrop = s.backdrop := by
  unfold takeAnswer
  split
  · exact takeRegular_backdrop ..
  · exact takeProbe_backdrop ..

theorem giveUp_backdrop (k : Slot) (s : State) : (giveUp k s).backdrop = s.backdrop := by
  simp [giveUp, retireAll_backdrop]

theorem loseHoldings_backdrop (k : Slot) (s : State) : (loseHoldings k s).backdrop = s.backdrop := by
  cases hh : s.holding k with
  | none => rw [loseHoldings_of_none hh]; exact giveUp_backdrop k s
  | some p =>
    rw [loseHoldings_of_holder hh]
    exact (giveUp_backdrop k _).trans (breakLock_backdrop p.1 s)

theorem loseSlot_backdrop (k : Slot) (s : State) : (loseSlot k s).backdrop = s.backdrop := by
  unfold loseSlot
  dsimp only
  rw [raiseLost_backdrop, setSlot_backdrop, loseHoldings_backdrop]
  all_goals rfl

theorem missSlot_backdrop (k : Slot) (s : State) : (missSlot k s).backdrop = s.backdrop := by
  have counted : (s.setSlot k { s.slot k with miss := min 15 ((s.slot k).miss + 1) }).backdrop = s.backdrop :=
    setSlot_backdrop rfl rfl
  unfold missSlot
  dsimp only
  split
  · exact (loseSlot_backdrop k _).trans counted
  · exact counted

theorem noAnswer_backdrop (x : Exchange) (s : State) : (noAnswer x s).backdrop = s.backdrop := by
  unfold noAnswer
  split
  · exact missSlot_backdrop ..
  · rfl

end Sys2Proof.Machine
end

section
/-! The end of an exchange (R116 to R118, R125): with or without a valid answer, what is taken of it keeps the backdrop, and the
line then goes on as R113 and R125 say. -/

namespace Sys2Proof.Machine

open Sys2Proof Sys2Proof.Safety

variable {s t u : State} {x : Exchange} {i : Instr} {k : Slot}

/-! ### The end of a window (R116) -/

/-- The moment of the latest expiry of a window is written. -/
def noted (o : Option Nat) (s : State) : State := s.setLine { s.line with lastExpiry := o }

theorem noted_self (s : State) : noted s.line.lastExpiry s = s := rfl

/-- The moment of the latest expiry after the command `i`: only an expiry writes it. -/
def expiryAfter (i : Instr) (s : State) : Option Nat := if i = .replyWindowExpiry then some s.now else s.line.lastExpiry

theorem expireWindow_open (hx : exchangeOf s = some x) (hr : x.receiving = false) :
    expireWindow s = noted (some s.now) (afterExchange x.slot (noAnswer x s)) := by
  rw [expireWindow, exchangeOf_eq_some.1 hx]
  exact if_neg (by simp [hr])

theorem expireWindow_receiving (hx : exchangeOf s = some x) (hr : x.receiving = true) : expireWindow s = s := by
  rw [expireWindow, exchangeOf_eq_some.1 hx]
  exact if_pos hr

theorem expireWindow_outside (hx : exchangeOf s = none) : expireWindow s = s := by
  unfold expireWindow
  split
  · next x hp => exact absurd hp (exchangeOf_eq_none.1 hx x)
  all_goals rfl

/-! ### The end of a reception (R116, R117) -/

theorem endReception_receiving {f : Exchange → State → State} (hx : exchangeOf s = some x) (hr : x.receiving = true) :
    endReception f s = afterExchange x.slot (f x s) := by
  rw [endReception, exchangeOf_eq_some.1 hx]
  exact if_pos hr

theorem endReception_silent {f : Exchange → State → State} (hx : exchangeOf s = some x) (hr : x.receiving = false) :
    endReception f s = s := by
  rw [endReception, exchangeOf_eq_some.1 hx]
  exact if_neg (by simp [hr])

theorem endReception_outside {f : Exchange → State → State} (hx : exchangeOf s = none) : endReception f s = s := by
  unfold endReception
  split
  · next x hp => exact absurd hp (exchangeOf_eq_none.1 hx x)
  all_goals rfl

/-- R117: an answer is spoiled exactly when it fails a line check. -/
theorem readAnswer_spoiled_iff {bytes : List Byte} {bad : Bool} :
    readAnswer k bytes bad = .spoiled ↔ Spoiled k bytes bad := by
  refine ⟨fun h => ?_, fun h => if_pos h⟩
  by_contra hn
  cases h.symm.trans (if_neg hn)

theorem receiveAnswer_spoiled {bytes : List Byte} {bad : Bool} (hx : exchangeOf s = some x) (hr : x.receiving = true)
    (hread : readAnswer x.slot bytes bad = .spoiled) : receiveAnswer bytes bad s = afterExchange x.slot (noAnswer x s) := by
  rw [receiveAnswer, endReception_receiving hx hr, hread]

theorem receiveAnswer_valid {bytes : List Byte} {bad : Bool} {st : Status} {q : Option Request} (hx : exchangeOf s = some x)
    (hr : x.receiving = true) (hread : readAnswer x.slot bytes bad = .valid st q) :
    receiveAnswer bytes bad s = afterExchange x.slot (takeAnswer x st q s) := by
  rw [receiveAnswer, endReception_receiving hx hr, hread]

/-- A command that ends a reception leaves the moment of the latest expiry, since the line's going on does. -/
theorem next_noted (hb : u.backdrop = s.backdrop) (hi : i ≠ .replyWindowExpiry)
    (h : exec i s = .next (afterExchange k u)) : exec i s = .next (noted (expiryAfter i s) (afterExchange k u)) := by
  have hkept : (afterExchange k u).line.lastExpiry = s.line.lastExpiry := by
    rw [afterExchange_lastExpiry, line_of_backdrop hb]
  rw [h, expiryAfter, if_neg hi, ← hkept, noted_self]

/-- R116, R117: an exchange that ends without a valid answer is a miss, and the line goes on. -/
theorem exec_endsUnanswered (h : EndsUnanswered s x i) :
    exec i s = .next (noted (expiryAfter i s) (afterExchange x.slot (noAnswer x s))) := by
  have hb := noAnswer_backdrop x s
  obtain ⟨hx, ⟨rfl, hr⟩ | ⟨rfl, hr⟩ | ⟨bytes, bad, rfl, hr, hspoiled⟩⟩ := h
  · exact congrArg Host.Outcome.next (expireWindow_open hx hr)
  · exact next_noted hb (by decide) (congrArg Host.Outcome.next (endReception_receiving hx hr))
  · exact next_noted hb (by simp) (congrArg Host.Outcome.next (receiveAnswer_spoiled hx hr (readAnswer_spoiled_iff.2 hspoiled)))

/-- R116 to R119: what is taken at the end of an exchange keeps the backdrop, and the line goes on. -/
theorem exec_endsExchange (h : EndsExchange s x i) : ∃ u, u.backdrop = s.backdrop ∧
    exec i s = .next (noted (expiryAfter i s) (afterExchange x.slot u)) := by
  have missed : EndsUnanswered s x i → ∃ u, u.backdrop = s.backdrop ∧
      exec i s = .next (noted (expiryAfter i s) (afterExchange x.slot u)) :=
    fun hu => ⟨_, noAnswer_backdrop x s, exec_endsUnanswered hu⟩
  have valid : ∀ st q, i ≠ .replyWindowExpiry → exec i s = .next (afterExchange x.slot (takeAnswer x st q s)) →
      ∃ u, u.backdrop = s.backdrop ∧ exec i s = .next (noted (expiryAfter i s) (afterExchange x.slot u)) :=
    fun st q hi he => ⟨_, takeAnswer_backdrop x st q s, next_noted (takeAnswer_backdrop x st q s) hi he⟩
  obtain ⟨hx, hwindow | ⟨hr, rfl | ⟨bytes, bad, rfl⟩ | hi⟩⟩ := h
  · exact missed ⟨hx, .inl hwindow⟩
  · exact missed ⟨hx, .inr (.inl ⟨rfl, hr⟩)⟩
  · cases hread : readAnswer x.slot bytes bad with
    | spoiled => exact missed ⟨hx, .inr (.inr ⟨bytes, bad, rfl, hr, readAnswer_spoiled_iff.1 hread⟩)⟩
    | valid st q => exact valid st q (by simp) (congrArg Host.Outcome.next (receiveAnswer_valid hx hr hread))
  · obtain ⟨⟨st, q⟩, hq⟩ := Option.isSome_iff_exists.1 hi
    refine valid st (some q) (by rintro rfl; cases hq) ((exec_request s hq).trans ?_)
    exact congrArg Host.Outcome.next (endReception_receiving hx hr)

/-! ### What follows the exchange (R113, R125) -/

theorem exchangeOf_backdrop (h : u.backdrop = s.backdrop) : exchangeOf u = exchangeOf s := by
  unfold exchangeOf
  rw [line_of_backdrop h]

theorem noted_goesOn (hx : exchangeOf u = some x) (o : Option Nat) : LineGoesOn u (noted o (afterExchange x.slot u)) :=
  (afterExchange_goesOn u fun y hy => by rw [hx] at hy; cases hy; rfl).noted o

/-- R125: on a STOPPING link the line stops, with no notice and no measure. -/
theorem afterExchange_stopping (h : u.line.run = .stopping) (k : Slot) : afterExchange k u = stopLink u := if_pos h

theorem noted_stopped (hb : u.backdrop = s.backdrop) (hr : s.line.run = .stopping) (k : Slot) (o : Option Nat) :
    (noted o (afterExchange k u)).line =
      { s.line with slots := u.line.slots, run := .stopped, phase := .idle, lastExpiry := o } ∧
    (noted o (afterExchange k u)).notice = u.notice := by
  have hrun : u.line.run = .stopping := by rw [line_of_backdrop hb]; exact hr
  rw [afterExchange_stopping hrun]
  refine ⟨?_, rfl⟩
  show { u.line with run := .stopped, phase := .idle, lastExpiry := o } = _
  rw [line_of_backdrop hb]

/-- Settles O18: the host commands by the run state, and the end of an exchange as what is taken of it, which keeps the backdrop,
and the line's going on. -/
theorem linkStopsAndGoesOn : Obligations.LinkStopsAndGoesOn := by
  refine fun s => ⟨fun hp => ?_, fun x i h => ?_⟩
  · have start : ∀ {v r}, ownLinkStart s = (v, r) → exec .linkStart s = .next (commandTaken s v 0 r) :=
      next_taken hp (by decide) ownLinkStart_blind
    have stop : ∀ {v r}, ownLinkStop s = (v, r) → exec .linkStop s = .next (commandTaken s v 0 r) :=
      next_taken hp (by decide) ownLinkStop_blind
    refine ⟨fun hr => start (ownLinkStart_running hr), fun hr => start (ownLinkStart_stopping hr),
      fun hr => stop (ownLinkStop_notRunning hr), fun hr hx => ?_, fun hr hx => stop (ownLinkStop_between hr hx)⟩
    obtain ⟨x, hx⟩ := Option.isSome_iff_exists.1 hx
    exact stop (ownLinkStop_calling hr hx)
  · obtain ⟨u, hb, he⟩ := exec_endsExchange h
    have hx : exchangeOf u = some x := (exchangeOf_backdrop hb).trans h.1
    have htaken := endTaken_of_backdrop hb
    refine ⟨u, _, he, htaken, noted_goesOn hx _, rfl, fun hr => ?_⟩
    obtain ⟨hline, hnotice⟩ := noted_stopped hb hr x.slot (expiryAfter i s)
    obtain ⟨hlate, hend, hsubject, -⟩ := htaken.notices
    rw [hnotice]
    exact ⟨hline, rfl, hlate, hend, hsubject⟩

/-! ### Start bits and misses (R116, R118, R119) -/

/-- R116: a start bit is late when it falls while the CALL begun at the expiry of its own window is still being sent, which
takes 150 bit times, of 2 µs each at the line rate of code 0. -/
theorem startsLate_iff (hx : exchangeOf s = some x) : s.startsLate x = true ↔
    x.receiving = false ∧ s.line.lastExpiry = some x.startedAt ∧ (s.now - x.startedAt) * 2 ^ s.line.lineRate < 300 := by
  have hsending : s.lineDE = true ↔ (s.now - x.startedAt) * 2 ^ s.line.lineRate < 300 := by
    rw [State.lineDE, exchangeOf_eq_some.1 hx, decide_eq_true_eq, Nat.mul_assoc]
    omega
  simp only [State.startsLate, Bool.and_eq_true, Bool.not_eq_true', decide_eq_true_eq, hsending]
  tauto

theorem openReception_late (hx : exchangeOf s = some x) (hl : s.startsLate x = true) :
    openReception s = { s with line := { s.line with lastExpiry := none } } := by
  rw [openReception, exchangeOf_eq_some.1 hx]
  exact if_pos hl

theorem openReception_intime (hx : exchangeOf s = some x) (hl : ¬ s.startsLate x = true) :
    openReception s = s.setPhase (.calling { x with receiving := true }) := by
  rw [openReception, exchangeOf_eq_some.1 hx]
  exact if_neg hl

theorem openReception_outside (hx : exchangeOf s = none) : openReception s = s := by
  unfold openReception
  split
  · next x hp => exact absurd hp (exchangeOf_eq_none.1 hx x)
  all_goals rfl

/-- R118: a miss below the loss threshold is counted, and that is all. -/
theorem missSlot_counted (h : min 15 ((s.slot k).miss + 1) < s.line.lossThreshold) :
    missSlot k s = s.setSlot k { s.slot k with miss := min 15 ((s.slot k).miss + 1) } := by
  unfold missSlot
  dsimp only
  refine if_neg ?_
  rw [setSlot_slot_self]
  exact Nat.not_le.2 h

theorem noAnswer_probe (hk : x.kind = .probe) : noAnswer x s = s := by rw [noAnswer, hk]

theorem noAnswer_regular (hk : x.kind = .regular) : noAnswer x s = missSlot x.slot s := by rw [noAnswer, hk]

/-- Settles O33: start bits by whether they are late, and the end of an exchange without a valid answer by `noAnswer`. -/
theorem missIsCounted : Obligations.MissIsCounted := by
  refine fun s => ⟨fun x hx => ⟨fun hl => ?_, fun hl => ?_, fun hr => ?_, fun hr => ⟨?_, fun bytes bad => ?_⟩⟩,
    fun hx => ⟨?_, ?_, ?_, fun bytes bad => ?_⟩, fun x i h => ?_⟩
  · exact congrArg Host.Outcome.next (openReception_intime hx (mt (startsLate_iff hx).1 hl))
  · exact congrArg Host.Outcome.next (openReception_late hx ((startsLate_iff hx).2 hl))
  · exact congrArg Host.Outcome.next (expireWindow_receiving hx hr)
  · exact congrArg Host.Outcome.next (endReception_silent hx hr)
  · exact congrArg Host.Outcome.next (endReception_silent hx hr)
  · exact congrArg Host.Outcome.next (openReception_outside hx)
  · exact congrArg Host.Outcome.next (expireWindow_outside hx)
  · exact congrArg Host.Outcome.next (endReception_outside hx)
  · exact congrArg Host.Outcome.next (endReception_outside hx)
  · have hmoved : exchangeOf (noAnswer x s) = some x := (exchangeOf_backdrop (noAnswer_backdrop x s)).trans h.1
    have hgoes := noted_goesOn hmoved (expiryAfter i s)
    refine ⟨fun hk hm => ⟨_, exec_endsUnanswered h, ?_⟩, fun hk => ⟨_, exec_endsUnanswered h, ?_⟩⟩
    · rwa [noAnswer_regular hk, missSlot_counted hm] at hgoes ⊢
    · rwa [noAnswer_probe hk] at hgoes ⊢

end Sys2Proof.Machine
end

section
/-! The settings of the zone (R57, R73, R92, R126, R163), the reset line's phase, the model's clock and its queue under every
command. -/

namespace Sys2Proof.Machine

open Sys2Proof Sys2Proof.Safety

variable {s t u : State} {x : Instr} {own : State → State × Response}

/-- What only ZONE_SETUP and RESET write, with the phase of the reset line, the clock and the queue; the rest is blanked
out. -/
def State.settings (s : State) : State :=
  { State.reset with
    pending := s.pending, now := s.now, power := s.power, placement := s.placement
    lock := { LockUnit.reset with
      placeLimit := s.lock.placeLimit, liftLimit := s.lock.liftLimit, surveyLimit := s.lock.surveyLimit }
    line := { Line.reset with
      lossThreshold := s.line.lossThreshold, probeInterval := s.line.probeInterval, replyWindow := s.line.replyWindow
      lineRate := s.line.lineRate, roundPeriod := s.line.roundPeriod }
    age := { Age.reset with
      period := s.age.period, mode := s.age.mode, fixedBand := s.age.fixedBand
      t1 := s.age.t1, t2 := s.age.t2, t3 := s.age.t3, guardGap := s.age.guardGap } }

/-- The settings are part of the backdrop of an answer. -/
theorem settings_of_backdrop (h : t.backdrop = s.backdrop) : t.settings = s.settings :=
  (congrArg State.settings h :)

theorem settings_of_only (h : OnlyChanges [.port, .notice, .columns, .handoff, .manifest, .survey] s t) :
    t.settings = s.settings := by
  unfold State.settings
  rw [h.1, h.2.1, h.power (by decide), h.placement (by decide), h.lock (by decide), h.line (by decide), h.age (by decide)]

theorem forEach_settings {α : Type} {f : α → State → State} (hf : ∀ a u, (f a u).settings = u.settings) (l : List α)
    (s : State) : (forEach l f s).settings = s.settings := by
  induction l generalizing s with
  | nil => rfl
  | cons a l ih => exact (ih (f a s)).trans (hf a s)

/-! ### Rounds (R113, R122 to R125) -/

theorem sendCall_settings (k : Slot) (kind : CallKind) (s : State) : (sendCall k kind s).settings = s.settings := by
  cases kind <;> rfl

theorem passBlocks_settings (l : List Block) (s : State) : (passBlocks l s).1.settings = s.settings :=
  settings_of_only ((passBlocks_only l s).mono (by decide))

theorem startRound_settings (s : State) : (startRound s).settings = s.settings := by
  have hpass := passBlocks_settings allBlocks (openRound s)
  unfold startRound
  split
  · next h => rw [h] at hpass; exact (sendCall_settings ..).trans hpass
  · next h => rw [h] at hpass; exact hpass

theorem endRound_settings (s : State) : (endRound s).settings = s.settings := by
  have measured : (if s.roundLate then raise .lateRound (measureRound s) else measureRound s).settings = s.settings := by
    split <;> rfl
  unfold endRound
  dsimp only
  split
  · exact (startRound_settings _).trans measured
  · exact measured

theorem continueRound_settings (k : Slot) (s : State) : (continueRound k s).settings = s.settings := by
  unfold continueRound
  dsimp only
  split
  · exact sendCall_settings ..
  · have hpass := (passBlocks_settings (allBlocks.filter fun c => (⟨k.val / 8, by omega⟩ : Block) < c)
      (blockEnd ⟨k.val / 8, by omega⟩ s)).trans (settings_of_only ((blockEnd_only _ s).mono (by decide)))
    split
    · next h => rw [h] at hpass; exact (sendCall_settings ..).trans hpass
    · next h => rw [h] at hpass; exact (endRound_settings _).trans hpass

theorem afterExchange_settings (k : Slot) (s : State) : (afterExchange k s).settings = s.settings := by
  unfold afterExchange
  split
  · rfl
  · exact continueRound_settings k s

/-! ### The events -/

theorem endReception_settings {f : Exchange → State → State} (hf : ∀ y, (f y s).backdrop = s.backdrop) :
    (endReception f s).settings = s.settings := by
  unfold endReception
  split
  · split
    · exact (afterExchange_settings ..).trans (settings_of_backdrop (hf _))
    · rfl
  all_goals rfl

theorem receiveAnswer_settings (bytes : List Byte) (b : Bool) (s : State) : (receiveAnswer bytes b s).settings = s.settings := by
  refine endReception_settings fun y => ?_
  split
  · exact takeAnswer_backdrop ..
  · exact noAnswer_backdrop ..

theorem expireWindow_settings (s : State) : (expireWindow s).settings = s.settings := by
  unfold expireWindow
  split
  · next y _ =>
    split
    · rfl
    · exact (afterExchange_settings y.slot _).trans (settings_of_backdrop (noAnswer_backdrop y s))
  all_goals rfl

theorem openReception_settings (s : State) : (openReception s).settings = s.settings := by
  unfold openReception
  split
  · split <;> rfl
  all_goals rfl

theorem endEmptyRound_settings (s : State) : (endEmptyRound s).settings = s.settings := by
  unfold endEmptyRound
  split
  · exact endRound_settings s
  all_goals rfl

theorem roundDue_settings (s : State) : (roundDue s).settings = s.settings := by
  unfold roundDue
  split
  · exact startRound_settings s
  · split <;> rfl
  · split <;> rfl
  · rfl

theorem lowerBudget_settings (i : RecIdx) (s : State) : (lowerBudget i s).settings = s.settings := by
  unfold lowerBudget
  split
  · rfl
  · dsimp only
    split <;> rfl

theorem testOverdue_settings (i : RecIdx) (s : State) : (testOverdue i s).settings = s.settings := by
  unfold testOverdue
  split
  · rfl
  · split <;> rfl

theorem ageEvent_settings (s : State) : (ageEvent s).settings = s.settings := by
  unfold ageEvent
  split
  · rfl
  · exact (forEach_settings testOverdue_settings _ _).trans (forEach_settings lowerBudget_settings _ (ageClockAndBand s))

theorem mergeStep_settings (s : State) : (mergeStep s).settings = s.settings :=
  settings_of_only ((mergeStep_only s).mono (by decide))

theorem beginFrameTooSoon_settings (s : State) : (beginFrameTooSoon s).settings = s.settings := by
  unfold beginFrameTooSoon
  split
  · rfl
  · rfl
  · split <;> rfl

theorem finishCommand_settings (s : State) : (finishCommand s).settings = s.settings := by
  unfold finishCommand
  split <;> rfl

/-! ### RESTACK (R157) -/

theorem makeFound_backdrop (c : Col) (tag : Tag) (s : State) : (makeFound c tag s).backdrop = s.backdrop := by
  unfold makeFound
  split
  · rfl
  · simp

theorem resolveStranded_backdrop (c : Col) (tags : List Tag) (s0 s : State) :
    (resolveStranded c tags s0 s).backdrop = s.backdrop := by
  unfold resolveStranded
  split
  · rfl
  · split
    · rfl
    · split
      · split <;> simp
      · split <;> simp
      · rfl

theorem sortRecords_backdrop (c : Col) (tags : List Tag) (s : State) : (sortRecords c tags s).backdrop = s.backdrop := by
  rw [sortRecords, forEach_backdrop parkRecord_backdrop, retireAll_backdrop, resolveStranded_backdrop,
    forEach_backdrop (makeFound_backdrop c)]

theorem rewriteStack_backdrop (c : Col) (tags : List Tag) (s : State) : (rewriteStack c tags s).backdrop = s.backdrop := by
  rw [rewriteStack_eq, refreshStack_backdrop, stacked, setCol_backdrop]
  exact forEach_backdrop (f := setLevel) (fun p u => updRec_backdrop p.1 _ u) _ s

theorem applyRestack_backdrop (c : Col) (tags : List Tag) (s : State) : (applyRestack c tags s).1.backdrop = s.backdrop := by
  refine (retireAll_backdrop (trimmedReservations c (restackRecords c tags s)) .unplaced _).trans ?_
  rw [restackRecords_eq, settleColumn_backdrop, rewriteStack_backdrop, sortRecords_backdrop]

theorem ownRestack_backdrop (col : Byte) (tags : List Tag) (s : State) : (ownRestack col tags s).1.backdrop = s.backdrop := by
  unfold ownRestack
  split
  · rfl
  · split
    · rfl
    · split
      · rfl
      · split
        · rfl
        · split
          · rfl
          · split
            · rfl
            · exact applyRestack_backdrop ..

/-! ### The other owners of host commands -/

theorem dropCollectorWait_backdrop (r : Record) (h : Handle) (s : State) : (dropCollectorWait r h s).backdrop = s.backdrop := by
  unfold dropCollectorWait
  split <;> rfl

theorem endSurveyLockOf_backdrop (c : Col) (k : Slot) (s : State) : (endSurveyLockOf c k s).backdrop = s.backdrop := by
  unfold endSurveyLockOf
  split <;> rfl

theorem ownAssign_backdrop (idx gen slot : Byte) (s : State) : (ownAssign idx gen slot s).1.backdrop = s.backdrop := by
  unfold ownAssign answer
  repeat' split
  all_goals simp [dropCollectorWait_backdrop]

theorem ownUnassign_backdrop (idx gen : Byte) (s : State) : (ownUnassign idx gen s).1.backdrop = s.backdrop := by
  unfold ownUnassign answer
  repeat' split
  all_goals simp [dropCollectorWait_backdrop]

theorem ownCancel_backdrop (idx gen : Byte) (s : State) : (ownCancel idx gen s).1.backdrop = s.backdrop := by
  unfold ownCancel answer
  repeat' split
  all_goals simp

theorem ownRebudget_backdrop (idx gen : Byte) (budget : BitVec 16) (s : State) :
    (ownRebudget idx gen budget s).1.backdrop = s.backdrop := by
  unfold ownRebudget
  repeat' split
  all_goals rfl

theorem ownSurveyAsk_backdrop (col slot : Byte) (s : State) : (ownSurveyAsk col slot s).1.backdrop = s.backdrop := by
  unfold ownSurveyAsk answer
  repeat' split
  all_goals simp [endSurveyLockOf_backdrop]

theorem ownColumnDefine_settings (col x y capacity classes : Byte) (s : State) :
    (ownColumnDefine col x y capacity classes s).1.settings = s.settings := by
  unfold ownColumnDefine
  repeat' split
  all_goals rfl

theorem ownColumnService_settings (col state : Byte) (s : State) :
    (ownColumnService col state s).1.settings = s.settings := by
  unfold ownColumnService
  repeat' split
  all_goals rfl

theorem ownSlotMode_settings (slot mode : Byte) (s : State) : (ownSlotMode slot mode s).1.settings = s.settings := by
  unfold ownSlotMode
  split <;> rfl

theorem ownBlockMode_settings (mode a b : Byte) (s : State) : (ownBlockMode mode a b s).1.settings = s.settings := by
  unfold ownBlockMode
  repeat' split
  all_goals rfl

theorem ownClearLost_settings (slot : Byte) (s : State) : (ownClearLost slot s).1.settings = s.settings := by
  unfold ownClearLost
  repeat' split
  all_goals rfl

theorem ownLinkStart_settings (s : State) : (ownLinkStart s).1.settings = s.settings := by
  cases hr : s.line.run with
  | stopped => rw [ownLinkStart_stopped hr]; exact startRound_settings _
  | running => rw [ownLinkStart_running hr]; rfl
  | stopping => rw [ownLinkStart_stopping hr]; rfl

theorem ownLinkStop_settings (s : State) : (ownLinkStop s).1.settings = s.settings := by
  unfold ownLinkStop
  repeat' split
  all_goals rfl

theorem ownAgeStart_settings (s : State) : (ownAgeStart s).1.settings = s.settings := by
  unfold ownAgeStart
  split <;> rfl

theorem ownPageWrite_settings (row op : Byte) (tag : Tag) (cls : Byte) (span budget order : BitVec 16) (keep : Byte)
    (s : State) : (ownPageWrite row op tag cls span budget order keep s).1.settings = s.settings := by
  unfold ownPageWrite
  split <;> rfl

theorem ownPageMerge_settings (count : Byte) (s : State) : (ownPageMerge count s).1.settings = s.settings := by
  unfold ownPageMerge
  dsimp only
  repeat' split
  all_goals rfl

theorem ownManifestClear_settings (s : State) : (ownManifestClear s).1.settings = s.settings := by
  unfold ownManifestClear
  split <;> rfl

theorem ownZoneClear_settings (s : State) : (ownZoneClear s).1.settings = s.settings := by
  unfold ownZoneClear
  split <;> rfl

/-- Every owner of a host command leaves the settings, unless the command is ZONE_SETUP. -/
theorem hostOwner_settings (hx : hostOwner x = some own) (hz : ∀ p, x ≠ .zoneSetup p) (s : State) :
    (own s).1.settings = s.settings := by
  cases x <;> cases hx
  case zoneSetup p => exact absurd rfl (hz p)
  case zoneClear => exact ownZoneClear_settings s
  case columnDefine c x y k m => exact ownColumnDefine_settings c x y k m s
  case columnService c v => exact ownColumnService_settings c v s
  case slotMode k m => exact ownSlotMode_settings k m s
  case blockMode m a b => exact ownBlockMode_settings m a b s
  case clearLost k => exact ownClearLost_settings k s
  case linkStart => exact ownLinkStart_settings s
  case linkStop => exact ownLinkStop_settings s
  case ageStart => exact ownAgeStart_settings s
  case pageWrite r o t c d b n k => exact ownPageWrite_settings r o t c d b n k s
  case pageMerge n => exact ownPageMerge_settings n s
  case manifestClear => exact ownManifestClear_settings s
  case assign i g k => exact settings_of_backdrop (ownAssign_backdrop i g k s)
  case unassign i g => exact settings_of_backdrop (ownUnassign_backdrop i g s)
  case cancel i g => exact settings_of_backdrop (ownCancel_backdrop i g s)
  case rebudget i g b => exact settings_of_backdrop (ownRebudget_backdrop i g b s)
  case surveyAsk c k => exact settings_of_backdrop (ownSurveyAsk_backdrop c k s)
  case restack c tags => exact settings_of_backdrop (ownRestack_backdrop c tags s)
  case readColumn c => rw [ownReadColumn_state]
  case readSlot k => rw [ownReadSlot_state]
  case readHandoff i g => rw [ownReadHandoff_state]
  all_goals rfl

/-! ### The planner port (R159 to R161, R169) -/

/-- A frame changes no figure that neither the port holds nor its treatment changes. -/
theorem endFrame_figure {α : Type} {g : State → α} {f : State → State} (hp : ∀ p u, g (u.setPort p) = g u)
    (hf : ∀ u, g (f u) = g u) (n : Nat) (s : State) : g (endFrame n f s) = g s := by
  unfold endFrame
  split
  · exact hp _ s
  · exact hp _ s
  · split
    · exact hp _ s
    · exact hp _ s
    · exact hp _ s
    · exact (hf _).trans (hp _ s)

theorem discardFrame_settings (k : FrameKind) (s : State) : (discardFrame k s).settings = s.settings := rfl

theorem hostFrame_settings {f : State → State} (hf : ∀ u, (f u).settings = u.settings) (n : Nat) (s : State) :
    (hostFrame n f s).settings = s.settings := by
  refine endFrame_figure (g := State.settings) (fun _ _ => rfl) (fun u => ?_) _ s
  split
  · exact hf u
  · exact discardFrame_settings .over u

/-- The clock, the queue and the phase of the reset line. -/
def State.moment (s : State) : List Instr × Nat × Power := (s.pending, s.now, s.power)

theorem moment_of_settings (h : t.settings = s.settings) : t.moment = s.moment := (congrArg State.moment h :)

/-- ZONE_SETUP writes settings, and leaves clock, queue and reset line like every other command. -/
theorem hostOwner_moment (hx : hostOwner x = some own) (s : State) : (own s).1.moment = s.moment := by
  by_cases hz : ∀ p, x ≠ .zoneSetup p
  · exact moment_of_settings (hostOwner_settings hx hz s)
  · simp only [ne_eq, not_forall, not_not] at hz
    obtain ⟨p, rfl⟩ := hz
    cases hx
    unfold ownZoneSetup
    split <;> rfl

theorem hostFrame_moment (hx : hostOwner x = some own) (n : Nat) (s : State) :
    (hostFrame n (takeCommand own) s).moment = s.moment := by
  refine endFrame_figure (g := State.moment) (fun _ _ => rfl) (fun u => ?_) _ s
  split
  · exact hostOwner_moment hx u
  · rfl

theorem judgeFrame_moment (bytes : List Byte) (s : State) : (judgeFrame bytes s).moment = s.moment := by
  unfold judgeFrame
  split
  · rfl
  · rfl
  · rfl
  · rfl
  · split
    · next hx => exact hostOwner_moment hx s
    · rfl

/-! ### Every command -/

/-- A command other than ZONE_SETUP, a frame of any bytes and the three phases of reset leaves the settings, clock, queue and
reset line. -/
theorem exec_settings (hz : ∀ p, x ≠ .zoneSetup p) (hf : ∀ b k, x ≠ .frameEnd b k) (h1 : x ≠ .reset) (h2 : x ≠ .resetNRise)
    (h3 : x ≠ .partReady) (s : State) : ∃ t, exec x s = .next t ∧ t.settings = s.settings := by
  cases hx : hostOwner x with
  | some own =>
    obtain ⟨n, hn⟩ := exec_hostOwner (s := s) hx
    exact ⟨_, hn, hostFrame_settings (f := takeCommand own) (hostOwner_settings hx hz) n s⟩
  | none =>
    cases x
    case nop filler => exact ⟨_, rfl, hostFrame_settings (f := takeNop) (fun _ => rfl) _ s⟩
    case frameBegunTooSoon => exact ⟨_, rfl, beginFrameTooSoon_settings s⟩
    case commandFinish => exact ⟨_, rfl, finishCommand_settings s⟩
    case roundPeriodDue => exact ⟨_, rfl, roundDue_settings s⟩
    case replyWindowExpiry => exact ⟨_, rfl, expireWindow_settings s⟩
    case answerEnd bytes b => exact ⟨_, rfl, receiveAnswer_settings bytes b s⟩
    case answerOverlength => exact ⟨_, rfl, endReception_settings fun y => noAnswer_backdrop y s⟩
    case emptyRoundEnd => exact ⟨_, rfl, endEmptyRound_settings s⟩
    case answerStartBit => exact ⟨_, rfl, openReception_settings s⟩
    case leaseExpiry c => exact ⟨_, rfl, settings_of_backdrop (expireLock_backdrop c s)⟩
    case ageEvent => exact ⟨_, rfl, ageEvent_settings s⟩
    case mergeStep => exact ⟨_, rfl, mergeStep_settings s⟩
    case join | leave | park | lock | setDown | pickUp | claim | yield | yieldSurvey | survey =>
      exact ⟨_, rfl, endReception_settings fun y => takeAnswer_backdrop y _ _ s⟩
    case frameEnd b k => exact absurd rfl (hf b k)
    case reset => exact absurd rfl h1
    case resetNRise => exact absurd rfl h2
    case partReady => exact absurd rfl h3
    all_goals cases hx

/-- The zone's parameters are the same in two states, in the terms of the statement. -/
def SameParameters (s t : State) : Prop :=
  t.placement = s.placement ∧
    (t.lock.placeLimit = s.lock.placeLimit ∧ t.lock.liftLimit = s.lock.liftLimit ∧
      t.lock.surveyLimit = s.lock.surveyLimit) ∧
    (t.line.lossThreshold = s.line.lossThreshold ∧ t.line.probeInterval = s.line.probeInterval ∧
      t.line.replyWindow = s.line.replyWindow ∧ t.line.lineRate = s.line.lineRate ∧
      t.line.roundPeriod = s.line.roundPeriod) ∧
    (t.age.period = s.age.period ∧ t.age.mode = s.age.mode ∧ t.age.fixedBand = s.age.fixedBand ∧
      t.age.t1 = s.age.t1 ∧ t.age.t2 = s.age.t2 ∧ t.age.t3 = s.age.t3 ∧ t.age.guardGap = s.age.guardGap)

theorem SameParameters.refl (s : State) : SameParameters s s :=
  ⟨rfl, ⟨rfl, rfl, rfl⟩, ⟨rfl, rfl, rfl, rfl, rfl⟩, rfl, rfl, rfl, rfl, rfl, rfl, rfl⟩

theorem sameParameters_of_settings (h : t.settings = s.settings) : SameParameters s t := by
  have himage : ∀ v : State, SameParameters v.settings v := fun _ => SameParameters.refl _
  have ht := himage t
  rw [h] at ht
  exact ht

/-- What a command leaves, by what it is: clock and queue, the reset line, and the zone's parameters. -/
def Leaves (x : Instr) (s t : State) : Prop :=
  t.pending = s.pending ∧ t.now = s.now ∧ (x ≠ .reset → x ≠ .resetNRise → x ≠ .partReady → t.power = s.power) ∧
    ((∀ p, x ≠ .zoneSetup p) → (∀ b k, x ≠ .frameEnd b k) → x ≠ .reset → SameParameters s t)

theorem leaves_of_moment (hm : t.moment = s.moment)
    (hp : (∀ p, x ≠ .zoneSetup p) → (∀ b k, x ≠ .frameEnd b k) → x ≠ .reset → SameParameters s t) : Leaves x s t := by
  simp only [State.moment, Prod.mk.injEq] at hm
  obtain ⟨hpending, hnow, hpower⟩ := hm
  exact ⟨hpending, hnow, fun _ _ _ => hpower, hp⟩

theorem zoneSetup_leaves (p : ZoneParams) (s : State) :
    Leaves (.zoneSetup p) s (hostFrame 24 (takeCommand (ownZoneSetup p)) s) :=
  leaves_of_moment (hostFrame_moment (x := .zoneSetup p) rfl 24 s) fun h => absurd rfl (h p)

theorem frameEnd_leaves (b : List Byte) (k : Fin 8) (s : State) :
    Leaves (.frameEnd b k) s (endFrame b.length (judgeFrame b) s) :=
  leaves_of_moment (endFrame_figure (g := State.moment) (fun _ _ => rfl) (judgeFrame_moment b) _ s)
    fun _ h => absurd rfl (h b k)

theorem reset_leaves (s : State) : Leaves .reset s (resetPart s) :=
  ⟨rfl, rfl, fun h => absurd rfl h, fun _ _ h => absurd rfl h⟩

theorem resetNRise_leaves (s : State) : Leaves .resetNRise s (raiseResetN s) := by
  unfold raiseResetN
  split
  all_goals exact ⟨rfl, rfl, fun _ h => absurd rfl h, fun _ _ _ => .refl s⟩

theorem partReady_leaves (s : State) : Leaves .partReady s (becomeReady s) := by
  unfold becomeReady
  split
  all_goals exact ⟨rfl, rfl, fun _ _ h => absurd rfl h, fun _ _ _ => .refl s⟩

/-- Settles O2: ZONE_SETUP and a frame leave clock, queue and reset line, the phases of reset leave what the statement keeps for
them, and every other command leaves all of it. -/
theorem everyCommandCompletes : Obligations.EveryCommandCompletes := by
  intro x s
  suffices h : ∃ t, exec x s = .next t ∧ Leaves x s t from h
  by_cases hz : ∃ p, x = .zoneSetup p
  · obtain ⟨p, rfl⟩ := hz
    exact ⟨_, rfl, zoneSetup_leaves p s⟩
  by_cases hf : ∃ b k, x = .frameEnd b k
  · obtain ⟨b, k, rfl⟩ := hf
    exact ⟨_, rfl, frameEnd_leaves b k s⟩
  by_cases h1 : x = .reset
  · exact h1 ▸ ⟨_, rfl, reset_leaves s⟩
  by_cases h2 : x = .resetNRise
  · exact h2 ▸ ⟨_, rfl, resetNRise_leaves s⟩
  by_cases h3 : x = .partReady
  · exact h3 ▸ ⟨_, rfl, partReady_leaves s⟩
  obtain ⟨t, he, ht⟩ := exec_settings (fun p e => hz ⟨p, e⟩) (fun b k e => hf ⟨b, k, e⟩) h1 h2 h3 s
  exact ⟨t, he, leaves_of_moment (moment_of_settings ht) fun _ _ _ => sameParameters_of_settings ht⟩

end Sys2Proof.Machine
end

section
/-! The release of a lock by its holder's report (R68, R70, R135, R137, R142): the flags of the stack, the scan of the wait list,
and the state in which a report is judged. -/

namespace Sys2Proof.Machine

open Sys2Proof Sys2Proof.Safety

variable {s t u v : State} {c d : Col} {i j : RecIdx} {k : Slot} {st : Status} {g h : Handle} {r q : Record} {e : WaitEntry}
  {top : Option Handle} {w : Work} {l : Lock}

/-! ### The laws in the state heard -/

theorem heard_robotId (k j : Slot) (st : Status) : ((heard k st s).slot j).robotId = (s.slot j).robotId := by
  rw [heard_slot]; split <;> rfl

/-- R118: what an answer's status changes is read by no law of the relay table. -/
theorem coherent_heard (hs : Coherent s) (k : Slot) (st : Status) : Coherent (heard k st s) := by
  have hlink : ∀ j, ((heard k st s).slot j).link = (s.slot j).link := fun j => by
    rw [heard_slot]; split <;> rfl
  have hmiss : ∀ j, (s.slot j).link = .vacant → ((heard k st s).slot j).miss = (s.slot j).miss := fun j hj => by
    rw [heard_slot]
    split
    · exact (hs.slots.2.1 j hj).symm
    · rfl
  refine coherent_iff.2 ⟨(coherent_iff.1 hs).1.sameRows
    (.of_line ((heard_only s k st).mono (by decide)) hlink (fun j => heard_robotId k j st) hmiss), ?_⟩
  obtain ⟨hidle, hempty, hcall⟩ := hs.calls
  exact ⟨hidle, hempty, fun x hx => by rw [hlink]; exact hcall x hx⟩

/-! ### A record that is worked on, and the top of a stack -/

/-- R11: the record at the top of a stack has the level of the top. -/
theorem level_of_top (hs : Coherent s) (ht : s.top c = some h) (hr : s.recIn c h = some r) :
    r.level = some ((s.col c).stack.length - 1) := by
  rw [State.top, List.getLast?_eq_getElem?] at ht
  obtain ⟨q, hq, hlev⟩ := (hs.bayFits c).stack _ _ ht
  cases hr.symm.trans hq
  exact hlev

/-- R11: the stack of a column holds the handles of records of that column. -/
theorem recIn_of_mem_stack (hs : Coherent s) (hh : h ∈ (s.col c).stack) :
    ∃ r n, s.recIn c h = some r ∧ r.level = some n ∧ (s.col c).stack[n]? = some h := by
  obtain ⟨n, hn⟩ := List.mem_iff_getElem?.1 hh
  obtain ⟨r, hr, hlev⟩ := (hs.bayFits c).stack n h hn
  exact ⟨r, n, hr, hlev, hn⟩

/-- R11: a record with a level stands in the stack of its column at that level. -/
theorem stack_of_level (hs : Coherent s) {n : Nat} (hr : s.recIn c h = some r) (hn : r.level = some n) :
    (s.col c).stack[n]? = some h := by
  obtain ⟨hlive, hat, rfl⟩ := recIn_live hr
  rw [← hat]
  exact hs.stacked.1 h.idx r hlive n hn

/-- R13: a record that stands has a depth above 0 exactly when it is not at the top. -/
theorem depth_pos_iff (hs : Coherent s) {n : Nat} (hr : s.recIn c h = some r) (hn : r.level = some n) :
    0 < (s.col c).stack.length - 1 - n ↔ s.top c ≠ some h := by
  have hget := stack_of_level hs hr hn
  obtain ⟨hlt, -⟩ := List.getElem?_eq_some_iff.1 hget
  constructor
  · intro hpos ht
    have : n = (s.col c).stack.length - 1 := Option.some.inj (hn.symm.trans (level_of_top hs ht hr))
    omega
  · intro ht
    by_contra hpos
    have : n = (s.col c).stack.length - 1 := by omega
    exact ht (by rw [State.top, List.getLast?_eq_getElem?, ← this, hget])

/-- R16: a record that stands in a stack is buried exactly when it is PROMISED and not at the top. -/
theorem buried_eq (hs : Coherent s) {n : Nat} (hr : s.recIn c h = some r) (hn : r.level = some n) :
    r.buried = (decide (r.state = .promised) && decide (s.top c ≠ some h)) := by
  obtain ⟨hlive, -, rfl⟩ := recIn_live hr
  rw [hs.buried h.idx r hlive, State.isBuried, State.depth, hn]
  simp only [Option.map_some, Option.any_some, depth_pos_iff hs hr hn]

/-- R16: the record at the top of a stack is not buried. -/
theorem not_buried_of_top (hs : Coherent s) (ht : s.top c = some h) (hr : s.recIn c h = some r) : r.buried = false := by
  rw [buried_eq hs hr (level_of_top hs ht hr)]
  simp [ht]

/-- R16: a record that is being worked on is not buried. -/
theorem worked_not_buried (hs : Coherent s) (hr : s.recIn c h = some r) (hst : r.state = busyState w) : r.buried = false := by
  rw [hs.buried h.idx r (recIn_live hr).1, State.isBuried, hst]
  cases w <;> rfl

/-- R61, R63: nobody waits for a record that is being worked on, so an entry of the wait list names another index. -/
theorem waiter_idx_ne (hs : Coherent s) (hr : s.recIn c h = some r) (hst : r.state = busyState w)
    (he : e ∈ s.waitsOf c) : e.handle.idx ≠ h.idx := by
  intro hidx
  obtain ⟨-, -, q, hq, ha⟩ := (hs.bayFits c).waits e he
  obtain ⟨hlive, hat, -⟩ := recIn_live hr
  obtain ⟨hlive', hat', -⟩ := recIn_live hq
  have hh : e.handle = h := by rw [← hat, ← hat', hidx]
  refine (hs.bayFits c).not_awaited hr ?_ ?_ e he hh <;> cases w <;> simp [hst, busyState]

/-- R70: the grant of a released lock leaves the record that the lock was held for. -/
theorem afterGrant_worked (hs : Coherent s) (hr : s.recIn c h = some r) (hst : r.state = busyState w) (q : Record) :
    afterGrant (nextHolder s c top) h.idx q = q := by
  unfold afterGrant
  split
  · rfl
  · next e he => exact if_neg (waiter_idx_ne hs hr hst (List.mem_of_find?_eq_some he))

/-! ### The flags of a stack in which at most one is out of date (R16) -/

/-- The buried flag at an index, if a record lives there, is as R16 asks. -/
def FlagFits (s : State) (i : RecIdx) : Prop := ∀ r ∈ s.live i, r.buried = s.isBuried r

theorem setRec_self (hr : s.live i = some r) : s.setRec i r = s := by
  have he : { s.entry i with live := some r } = s.entry i := by rw [← hr]; rfl
  rw [State.setRec, he]
  simp [State.setEntry, State.setHandoff, State.entry]

/-- R17: a flag that is as R16 asks is not written, and raises nothing. -/
theorem FlagFits.refreshBuried_eq (hf : FlagFits s i) : refreshBuried i s = s := by
  unfold refreshBuried
  cases hr : s.live i with
  | none => rfl
  | some r =>
    have hb := hf r hr
    simp only [← hb, setRec_self hr]
    simp

theorem FlagFits.refreshBuried (hf : FlagFits s j) (i : RecIdx) : FlagFits (refreshBuried i s) j := by
  intro r hr
  rw [isBuried_congr ((refreshBuried_only i s).columns (by decide))]
  rw [refreshBuried_live] at hr
  split at hr
  · obtain ⟨q, -, rfl⟩ := Option.map_eq_some_iff.1 hr
    rfl
  · exact hf r hr

theorem flagFits_refreshBuried_self (i : RecIdx) (s : State) : FlagFits (refreshBuried i s) i := by
  intro r hr
  rw [isBuried_congr ((refreshBuried_only i s).columns (by decide))]
  rw [refreshBuried_live, if_pos rfl] at hr
  obtain ⟨q, -, rfl⟩ := Option.map_eq_some_iff.1 hr
  rfl

theorem refreshList_fitting {l : List Handle} (hf : ∀ x ∈ l, FlagFits s x.idx) :
    l.foldl (fun s h => refreshBuried h.idx s) s = s := by
  induction l with
  | nil => rfl
  | cons a l ih =>
    obtain ⟨ha, hl⟩ := List.forall_mem_cons.1 hf
    rw [List.foldl_cons, ha.refreshBuried_eq]
    exact ih hl

theorem refreshList_one {l : List Handle} (hf : ∀ x ∈ l, x.idx ≠ i → FlagFits s x.idx) (hi : ∃ x ∈ l, x.idx = i) :
    l.foldl (fun s h => refreshBuried h.idx s) s = refreshBuried i s := by
  induction l with
  | nil => simp at hi
  | cons a l ih =>
    obtain ⟨ha, hl⟩ := List.forall_mem_cons.1 hf
    rw [List.foldl_cons]
    by_cases hai : a.idx = i
    · rw [hai]
      refine refreshList_fitting fun x hx => ?_
      by_cases hxi : x.idx = i
      · rw [hxi]; exact flagFits_refreshBuried_self i s
      · exact (hl x hx hxi).refreshBuried i
    · rw [(ha hai).refreshBuried_eq]
      refine ih hl ?_
      simpa [hai] using hi

/-- R16: a stack whose flags are as R16 asks stays as it is. -/
theorem refreshStack_fitting (hf : ∀ x ∈ (s.col c).stack, FlagFits s x.idx) : refreshStack c s = s := refreshList_fitting hf

/-- R16: in a stack with one flag out of date at most, that one is brought up to date. -/
theorem refreshStack_one (hf : ∀ x ∈ (s.col c).stack, x.idx ≠ i → FlagFits s x.idx)
    (hi : ∃ x ∈ (s.col c).stack, x.idx = i) : refreshStack c s = refreshBuried i s := refreshList_one hf hi

/-- The flag of the record that a handle names is brought up to date, if there is such a handle. -/
def refreshTop (top : Option Handle) (s : State) : State := top.elim s fun g => refreshBuried g.idx s

/-- R16: in a stack whose flags are as R16 asks but for that of one handle, only that one is written. -/
theorem refreshStack_top (hmem : ∀ g, top = some g → g ∈ (s.col c).stack)
    (hf : ∀ x ∈ (s.col c).stack, top ≠ some x → FlagFits s x.idx) : refreshStack c s = refreshTop top s := by
  cases top with
  | none => exact refreshStack_fitting fun x hx => hf x hx nofun
  | some g =>
    refine refreshStack_one (fun x hx hne => hf x hx fun e => hne ?_) ⟨g, hmem g rfl, rfl⟩
    rw [Option.some.inj e]

theorem refreshTop_only (top : Option Handle) (s : State) : OnlyChanges [.handoff, .notice] s (refreshTop top s) := by
  cases top with
  | none => exact .refl _ s
  | some g => exact refreshBuried_only g.idx s

theorem sameCounts_trans (h1 : SameCounts s t) (h2 : SameCounts t u) : SameCounts s u :=
  ⟨h2.1.trans h1.1, h2.2.trans h1.2⟩

theorem refreshTop_counts (top : Option Handle) (s : State) : SameCounts s (refreshTop top s) := by
  cases top with
  | none => exact ⟨rfl, rfl⟩
  | some g => exact refreshBuried_counts s g.idx

/-- An entry whose live record a change leaves as it is. -/
theorem entry_of_map_self {f : Record → Record} (hf : ∀ r ∈ s.live i, f r = r) :
    s.entry i = { s.entry i with live := (s.live i).map f } := by
  have hmap : (s.live i).map f = s.live i := (Option.map_congr hf).trans Option.map_id'
  rw [hmap]
  rfl

theorem refreshTop_entry {f : Record → Record}
    (hat : ∀ g, top = some g → g.idx = i → ∀ q ∈ s.live i, f q = { q with buried := s.isBuried q })
    (hno : (∀ g, top = some g → g.idx ≠ i) → ∀ q ∈ s.live i, f q = q) :
    (refreshTop top s).entry i = { s.entry i with live := (s.live i).map f } := by
  cases top with
  | none => exact entry_of_map_self (hno nofun)
  | some g =>
    rw [refreshTop, Option.elim_some, refreshBuried_entry]
    split
    · next hi => rw [Option.map_congr (hat g rfl hi)]
    · next hi => exact entry_of_map_self (hno fun x hx => by cases hx; exact hi)

/-! ### The scan of a wait list (R70) -/

theorem eraseIdx_findIdx {α : Type} [BEq α] [LawfulBEq α] {p : α → Bool} {l : List α} {a : α} (h : l.find? p = some a) :
    l.eraseIdx (l.findIdx p) = l.erase a := by
  induction l with
  | nil => cases h
  | cons b l ih =>
    rw [List.find?_cons] at h
    cases hb : p b with
    | true =>
      rw [hb] at h
      cases h
      simp [List.findIdx_cons, hb]
    | false =>
      rw [hb] at h
      have hne : b ≠ a := by
        rintro rfl
        exact absurd (List.find?_some h) (by simp [hb])
      rw [List.findIdx_cons, hb, cond_false, List.eraseIdx_cons_succ, ih h, List.erase_cons_tail (by simpa using hne)]

theorem scan_of_none (hn : nextHolder s c (s.top c) = none) : scan c s = s := scan_none s hn

theorem scan_of_some (hn : nextHolder s c (s.top c) = some e) :
    scan c s = grant c e.slot (.work e.work e.handle) (s.setWaitsOf c ((s.waitsOf c).erase e)) :=
  (scan_some s hn).trans (by rw [eraseIdx_findIdx (show (s.waitsOf c).find? (s.possible c) = some e from hn)])

theorem scan_counts (c : Col) (s : State) : SameCounts s (scan c s) := by
  cases hn : nextHolder s c (s.top c) with
  | none => rw [scan_of_none hn]; exact ⟨rfl, rfl⟩
  | some e => rw [scan_of_some hn]; exact grant_counts (s.setWaitsOf c _) c e.slot _

theorem scan_limits (c : Col) (s : State) : (scan c s).lock.placeLimit = s.lock.placeLimit ∧
    (scan c s).lock.liftLimit = s.lock.liftLimit ∧ (scan c s).lock.surveyLimit = s.lock.surveyLimit := by
  cases hn : nextHolder s c (s.top c) with
  | none => rw [scan_of_none hn]; exact ⟨rfl, rfl, rfl⟩
  | some e => rw [scan_of_some hn, grant_limits]; exact ⟨rfl, rfl, rfl⟩

theorem scan_lockOf_ne (hd : d ≠ c) (s : State) : (scan c s).lockOf d = s.lockOf d := by
  cases hn : nextHolder s c (s.top c) with
  | none => rw [scan_of_none hn]
  | some e => rw [scan_of_some hn, grant_lockOf, if_neg hd.symm, setWaitsOf_lockOf]

theorem scan_waitsOf_ne (hd : d ≠ c) (s : State) : (scan c s).waitsOf d = s.waitsOf d := by
  cases hn : nextHolder s c (s.top c) with
  | none => rw [scan_of_none hn]
  | some e => rw [scan_of_some hn, grant_waitsOf, setWaitsOf_waitsOf_if, if_neg hd.symm]

/-- R70: the scan grants the lock to the first possible waiter, whose record it changes alone. -/
theorem scan_entry (c : Col) (i : RecIdx) (hb : ∀ h, s.top c = some h → ∀ r ∈ s.live h.idx, r.buried = false) :
    (scan c s).entry i =
      { s.entry i with live := (s.live i).map (afterGrant (nextHolder s c (s.top c)) i) } := by
  cases hn : nextHolder s c (s.top c) with
  | none =>
    rw [scan_of_none hn]
    exact entry_of_map_self fun r _ => rfl
  | some e =>
    rw [scan_of_some hn, grant_entry]
    by_cases hi : e.handle.idx = i
    · simp only [if_pos hi, setWaitsOf_entry, setWaitsOf_live]
      congr 1
      refine Option.map_congr fun r hr => ?_
      cases hw : e.work with
      | place => simp [afterGrant, hi, hw]
      | lift =>
        have htop : s.top c = some e.handle := by simpa [hw] using List.find?_some hn
        have hb := hb e.handle htop r (hi ▸ hr)
        simp [afterGrant, hi, hw, ← hb]
    · rw [if_neg hi, setWaitsOf_entry]
      exact entry_of_map_self fun r _ => if_neg hi

/-- In the lock unit, only the lock of column `c` differs, which is free in `t`. -/
structure Unlocked (c : Col) (s t : State) : Prop where
  free : t.lockOf c = none
  locks : ∀ d, d ≠ c → t.lockOf d = s.lockOf d
  waits : ∀ d, t.waitsOf d = s.waitsOf d
  limits : t.lock.placeLimit = s.lock.placeLimit ∧ t.lock.liftLimit = s.lock.liftLimit ∧
    t.lock.surveyLimit = s.lock.surveyLimit
  now : t.now = s.now

/-- A change of other blocks after the end of a lock. -/
theorem Unlocked.of_lock (hu : Unlocked c s t) (hl : u.lock = t.lock) (hn : u.now = t.now) : Unlocked c s u where
  free := (lockOf_congr hl c).trans hu.free
  locks d hd := (lockOf_congr hl d).trans (hu.locks d hd)
  waits d := (waitsOf_congr hl d).trans (hu.waits d)
  limits := by rw [hl]; exact hu.limits
  now := hn.trans hu.now

theorem Unlocked.nextHolder_eq (hu : Unlocked c s t) (top : Option Handle) : nextHolder t c top = nextHolder s c top := by
  rw [nextHolder, hu.waits]; rfl

/-- R73: the end of a lock and the scan after it leave the limits of the leases. -/
theorem Unlocked.scan_limits (hu : Unlocked c s t) : (scan c t).lock.placeLimit = s.lock.placeLimit ∧
    (scan c t).lock.liftLimit = s.lock.liftLimit ∧ (scan c t).lock.surveyLimit = s.lock.surveyLimit := by
  obtain ⟨h1, h2, h3⟩ := hu.limits
  obtain ⟨g1, g2, g3⟩ := Machine.scan_limits c t
  exact ⟨g1.trans h1, g2.trans h2, g3.trans h3⟩

/-- R70: a released lock is handed over by the scan. -/
theorem Unlocked.handedOver (hu : Unlocked c s t) : HandedOver s (scan c t) c (t.top c) where
  locks d hd := ⟨(scan_lockOf_ne hd t).trans (hu.locks d hd), (scan_waitsOf_ne hd t).trans (hu.waits d)⟩
  free hn := by
    rw [scan_of_none ((hu.nextHolder_eq _).trans hn)]
    exact ⟨hu.free, hu.waits c⟩
  granted e hn := by
    obtain ⟨hplace, hlift, -⟩ := hu.limits
    rw [scan_of_some ((hu.nextHolder_eq _).trans hn)]
    refine ⟨?_, ?_⟩
    · rw [grant_lockOf, if_pos rfl, setWaitsOf_now, hu.now]
      cases hw : e.work <;> simp [LockUnit.limitOf, hplace, hlift]
    · rw [grant_waitsOf, setWaitsOf_waitsOf_self, hu.waits]

/-- R70: a lock handed over from the state heard is handed over by the command as a whole. -/
theorem handedOver_taken (hh : HandedOver (heard k st s) u c top) (o : Option Verdict) (m : Option Col) :
    HandedOver s ((setVerdict k o u).setMark k m) c top := ⟨hh.locks, hh.free, hh.granted⟩

end Sys2Proof.Machine
end

section
/-! SET_DOWN and PICK_UP (R68, R135 to R138): what an accepted one makes of each table, and the order of checks. -/

namespace Sys2Proof.Machine

open Sys2Proof Sys2Proof.Safety

variable {s t u v : State} {c d : Col} {i j : RecIdx} {k : Slot} {st : Status} {g h x : Handle} {r q : Record} {e : WaitEntry}
  {top : Option Handle} {w : Work} {l : Lock}

/-! ### The bin set down (R135) -/

/-- An accepted SET_DOWN before the flags of the stack are brought up to date: the record is pushed, and the lock has ended. -/
def pushedFree (h : Handle) (c : Col) (s : State) : State := endLock c (pushRecord h.idx c s)

theorem acceptSetDown_eq (h : Handle) (c : Col) (s : State) :
    acceptSetDown h c s = scan c (refreshStack c (pushedFree h c s)) := rfl

theorem pushedFree_only (h : Handle) (c : Col) (s : State) : OnlyChanges [.columns, .handoff, .lock] s (pushedFree h c s) :=
  ((pushRecord_only ..).mono (by decide)).trans ((endLock_only ..).mono (by decide))

theorem pushedFree_unlocked (h : Handle) (c : Col) (s : State) : Unlocked c s (pushedFree h c s) where
  free := by rw [pushedFree, endLock_lockOf, if_pos rfl]
  locks d hd := by rw [pushedFree, endLock_lockOf, if_neg hd.symm, pushRecord_lockOf]
  waits d := by rw [pushedFree, endLock_waitsOf, pushRecord_waitsOf]
  limits := by
    refine ⟨?_, ?_, ?_⟩ <;> simp [pushedFree, endLock]
  now := (pushedFree_only h c s).2.1

section
variable (hs : Coherent s) (hr : s.recIn c h = some r) (hst : r.state = .placing)
include hr

theorem pushedFree_entry (i : RecIdx) : (pushedFree h c s).entry i =
    if h.idx = i then { s.entry i with live := some (r.pushed (s.col c).stack.length) } else s.entry i := by
  obtain ⟨hlive, -, -⟩ := recIn_live hr
  rw [pushedFree, endLock_entry, pushRecord_entry]
  split
  · next hi => rw [← hi, hlive]; rfl
  · rfl

theorem pushedFree_live (i : RecIdx) : (pushedFree h c s).live i =
    if h.idx = i then some (r.pushed (s.col c).stack.length) else s.live i := by
  rw [live_def, pushedFree_entry hr]
  split <;> rfl

theorem pushedFree_col (d : Col) : (pushedFree h c s).col d =
    if c = d then { s.col d with stack := (s.col d).stack ++ [h] } else s.col d := by
  obtain ⟨-, hat, -⟩ := recIn_live hr
  rw [pushedFree, endLock_col, pushRecord_col, hat]

/-- R16: after a push every PROMISED record beneath it is buried. -/
theorem pushedFree_isBuried {n : Nat} (hx : s.recIn c x = some q) (hn : (s.col c).stack[n]? = some x)
    (hlev : q.level = some n) : (pushedFree h c s).isBuried q = decide (q.state = .promised) := by
  obtain ⟨-, -, rfl⟩ := recIn_live hx
  obtain ⟨hlt, -⟩ := List.getElem?_eq_some_iff.1 hn
  simp [State.isBuried, State.depth, hlev, pushedFree_col hr]
  omega

include hs hst

/-- R11, R26: a record being placed is not in the stack yet. -/
theorem placing_not_stacked (hx : x ∈ (s.col c).stack) : h.idx ≠ x.idx := by
  intro hidx
  obtain ⟨q, n, hq, hn, -⟩ := recIn_of_mem_stack hs hx
  obtain ⟨hlive, -, -⟩ := recIn_live hr
  obtain ⟨hlive', -, -⟩ := recIn_live hq
  have hrf := (hs.bayFits c).records h r hr
  simp only [RecordFits, hst] at hrf
  rw [hidx, hlive'] at hlive
  cases hlive
  rw [hrf.1] at hn
  cases hn

/-- R26: the fields that a record being placed does not use are clear, so its push writes no more than state and level. -/
theorem pushed_of_placing (n : Nat) : r.pushed n = { r with state := .parked, level := some n } := by
  have hrf := (hs.bayFits c).records h r hr
  simp only [RecordFits, hst] at hrf
  obtain ⟨hlev, hcol, hsf, -⟩ := hrf
  rw [Record.pushed, ← hcol, ← hsf, ← worked_not_buried hs hr (w := .place) hst]

/-- R16: the push changes the depth of every record beneath, but only the old top can come to be buried by it. -/
theorem pushedFree_flagFits (hx : x ∈ ((pushedFree h c s).col c).stack) (ht : s.top c ≠ some x) :
    FlagFits (pushedFree h c s) x.idx := by
  intro p hp
  rw [pushedFree_col hr, if_pos rfl] at hx
  rw [pushedFree_live hr] at hp
  rcases List.mem_append.1 hx with hx | hx
  · obtain ⟨q, n, hq, hlev, hn⟩ := recIn_of_mem_stack hs hx
    rw [if_neg (placing_not_stacked hs hr hst hx), (recIn_live hq).1] at hp
    cases hp
    rw [pushedFree_isBuried hr hq hn hlev, buried_eq hs hq hlev]
    simp [ht]
  · rw [List.mem_singleton.1 hx, if_pos rfl] at hp
    cases hp
    simp [State.isBuried, Record.pushed]

theorem refreshStack_pushedFree : refreshStack c (pushedFree h c s) = refreshTop (s.top c) (pushedFree h c s) := by
  refine refreshStack_top (fun g hg => ?_) fun x hx ht => pushedFree_flagFits hs hr hst hx ht
  rw [pushedFree_col hr, if_pos rfl]
  exact List.mem_append_left _ (List.mem_of_getLast? hg)

omit hst in
/-- R16: what a push makes of the other records, of its column or not. -/
theorem refreshTop_pushedFree_entry (hi : i ≠ h.idx) : (refreshTop (s.top c) (pushedFree h c s)).entry i =
    { s.entry i with live := (s.live i).map (underPush c) } := by
  have he : (pushedFree h c s).entry i = s.entry i := by rw [pushedFree_entry hr, if_neg hi.symm]
  have hl : (pushedFree h c s).live i = s.live i := congrArg Entry.live he
  rw [refreshTop_entry (f := underPush c) (fun g hg hgi q hq => ?_) (fun hno q hq => ?_), he, hl]
  · obtain ⟨p, n, hp, hlev, hn⟩ := recIn_of_mem_stack hs (List.mem_of_getLast? hg)
    obtain ⟨hlive, -, hc⟩ := recIn_live hp
    rw [hl, ← hgi, hlive] at hq
    cases hq
    rw [pushedFree_isBuried hr hp hn hlev, underPush]
    have hb := not_buried_of_top hs hg hp
    by_cases hpr : q.state = .promised
    · simp [hc, hpr]
    · simp [hpr, ← hb]
  · rw [hl] at hq
    unfold underPush
    split
    · next hpr =>
      obtain ⟨hc, hpr⟩ := hpr
      have hp := recIn_of_live hq hc
      have hrf := (hs.bayFits c).records _ q hp
      simp only [RecordFits, hpr] at hrf
      obtain ⟨⟨n, hlev, -⟩, -⟩ := hrf
      have hb := buried_eq hs hp hlev
      have ht : s.top c ≠ some (s.handleAt i) := fun ht => hno _ ht rfl
      simp only [hpr, ht, ne_eq, not_false_iff, decide_true, Bool.and_true] at hb
      rw [← hb]
    · rfl

/-- R29: the record set down. -/
theorem refreshTop_pushedFree_entry_self : (refreshTop (s.top c) (pushedFree h c s)).entry h.idx =
    { s.entry h.idx with live := some { r with state := .parked, level := some (s.col c).stack.length } } := by
  have hne : ∀ g, s.top c = some g → g.idx ≠ h.idx := fun g hg =>
    (placing_not_stacked hs hr hst (List.mem_of_getLast? hg)).symm
  rw [refreshTop_entry (f := id) (fun g hg hgi => absurd hgi (hne g hg)) (fun _ _ _ => rfl), pushedFree_live hr,
    pushedFree_entry hr, if_pos rfl, if_pos rfl, pushed_of_placing hs hr hst]
  rfl

/-- R17: BURIED is raised for the record that the push buries. -/
theorem refreshTop_pushedFree_notice : (refreshTop (s.top c) (pushedFree h c s)).notice = noticeAfterPush s c := by
  have hnotice : (pushedFree h c s).notice = s.notice := (pushedFree_only h c s).notice (by decide)
  cases ht : s.top c with
  | none => simpa [refreshTop, noticeAfterPush, promisedTop, ht] using hnotice
  | some g =>
    have hg := List.mem_of_getLast? ht
    obtain ⟨p, n, hp, hlev, hn⟩ := recIn_of_mem_stack hs hg
    obtain ⟨hlive, hat, hc⟩ := recIn_live hp
    have hidx := placing_not_stacked hs hr hst hg
    have hat' : (pushedFree h c s).handleAt g.idx = g := by
      rw [State.handleAt, pushedFree_entry hr, if_neg hidx]; exact hat
    rw [refreshTop, Option.elim_some, refreshBuried_notice, pushedFree_live hr, if_neg hidx, hlive, hat', hnotice,
      Option.any_some, pushedFree_isBuried hr hp hn hlev, not_buried_of_top hs ht hp]
    have hnamed : s.named g = some p := (recIn_eq_some.1 hp).1
    by_cases hpr : p.state = .promised <;> simp [noticeAfterPush, promisedTop, ht, hnamed, hpr]

/-- R135: an accepted SET_DOWN, table by table. -/
theorem acceptSetDown_tables : (∀ d, (acceptSetDown h c s).col d =
      if c = d then { s.col d with stack := (s.col d).stack ++ [h] } else s.col d) ∧
    SameCounts s (acceptSetDown h c s) ∧ HandedOver s (acceptSetDown h c s) c (some h) ∧
    (acceptSetDown h c s).notice = noticeAfterPush s c ∧
    (acceptSetDown h c s).entry h.idx =
      { s.entry h.idx with live := some { r with state := .parked, level := some (s.col c).stack.length } } ∧
    ∀ i, i ≠ h.idx → (acceptSetDown h c s).entry i = { s.entry i with
      live := (s.live i).map fun q => afterGrant (nextHolder s c (some h)) i (underPush c q) } := by
  have hu : Unlocked c s (refreshTop (s.top c) (pushedFree h c s)) :=
    (pushedFree_unlocked h c s).of_lock ((refreshTop_only ..).lock (by decide)) (refreshTop_only ..).2.1
  have hcol : ∀ d, (refreshTop (s.top c) (pushedFree h c s)).col d =
      if c = d then { s.col d with stack := (s.col d).stack ++ [h] } else s.col d := fun d =>
    (col_congr ((refreshTop_only ..).columns (by decide)) d).trans (pushedFree_col hr d)
  have htop : (refreshTop (s.top c) (pushedFree h c s)).top c = some h := by
    rw [State.top, hcol, if_pos rfl, List.getLast?_concat]
  have hself := refreshTop_pushedFree_entry_self hs hr hst
  have hentry := scan_entry (s := refreshTop (s.top c) (pushedFree h c s)) c (hb := fun x hx q hq => by
    rw [htop] at hx
    cases hx
    rw [live_def, hself] at hq
    cases hq
    show r.buried = false
    exact worked_not_buried hs hr (w := .place) hst)
  rw [acceptSetDown_eq, refreshStack_pushedFree hs hr hst]
  refine ⟨fun d => (scan_col ..).trans (hcol d), ?_, htop ▸ hu.handedOver, ?_, ?_, fun i hi => ?_⟩
  · exact sameCounts_trans (sameCounts_trans (pushRecord_counts h.idx c) (refreshTop_counts _ (pushedFree h c s)))
      (scan_counts c _)
  · rw [scan_notice, refreshTop_pushedFree_notice hs hr hst]
  · rw [hentry, htop, live_def, hself, hu.nextHolder_eq, Option.map_some,
      afterGrant_worked hs hr (w := .place) hst]
  · rw [hentry, htop, live_def, refreshTop_pushedFree_entry hs hr hi, hu.nextHolder_eq, Option.map_map]
    rfl

end

/-! ### The order of checks of a report (R68) -/

theorem strandedBy_iff : r.strandedBy k = true ↔ r.state = .stranded ∧
    ((r.strandedFrom = some .placing ∧ r.releaser = some k) ∨ (r.strandedFrom = some .lifting ∧ r.collector = some k)) := by
  rw [Record.strandedBy, Bool.and_eq_true, decide_eq_true_eq]
  refine and_congr_right fun _ => ?_
  match r.strandedFrom with
  | none => simp
  | some .placing => simp
  | some .lifting => simp

/-- R60: the record of a lock held for work, in its column and at its work. -/
theorem worked_of_holds (hs : Coherent s) (hr : s.named h = some r) (hl : s.lockOf r.column = some l)
    (hw : l.hold = .work w h) : s.recIn r.column h = some r ∧ r.state = busyState w := by
  obtain ⟨-, q, hq, hst⟩ := ((coherent_iff.1 hs).1.but r.column).worked hl hw
  have hin : s.recIn r.column h = some r := recIn_eq_some.2 ⟨hr, rfl⟩
  cases hin.symm.trans hq
  exact ⟨hin, hst⟩

theorem judgeSetDown_stale (hn : s.named h = none) : judgeSetDown k h s = (s, .stale) := by rw [judgeSetDown, hn]

section
variable (hr : s.named h = some r)
include hr

theorem judgeSetDown_late (hlate : r.strandedBy k = true) : judgeSetDown k h s = (s, .late) := by
  rw [judgeSetDown, hr]
  exact if_pos hlate

theorem judgeSetDown_notYours (hlate : ¬ r.strandedBy k = true) (hh : ¬ s.holdsFor k r.column .place h = true) :
    judgeSetDown k h s = (s, .notYours) := by
  rw [judgeSetDown, hr]
  exact (if_neg hlate).trans (if_neg hh)

theorem judgeSetDown_holds (hlate : ¬ r.strandedBy k = true) (hh : s.holdsFor k r.column .place h = true) :
    judgeSetDown k h s = if (s.slot k).carried = r.tag then (s, .stillHeld)
      else (acceptSetDown h r.column s, .done (some (s.col r.column).stack.length)) := by
  rw [judgeSetDown, hr]
  exact (if_neg hlate).trans (if_pos hh)

end

theorem acceptSetDown_only (h : Handle) (c : Col) (s : State) :
    OnlyChanges [.columns, .handoff, .lock, .notice] s (acceptSetDown h c s) :=
  ((pushedFree_only h c s).mono (by decide)).trans (((refreshStack_only c _).mono (by decide)).trans
    ((scan_only c _).mono (by decide)))

theorem acceptSetDown_mark (h : Handle) (c : Col) (j : Slot) (s : State) : (acceptSetDown h c s).mark j = s.mark j := by
  simp [acceptSetDown, scan_mark]

theorem acceptSetDown_limits (h : Handle) (c : Col) (s : State) :
    (acceptSetDown h c s).lock.placeLimit = s.lock.placeLimit ∧ (acceptSetDown h c s).lock.liftLimit = s.lock.liftLimit ∧
      (acceptSetDown h c s).lock.surveyLimit = s.lock.surveyLimit :=
  ((pushedFree_unlocked h c s).of_lock (refreshStack_lock ..) (refreshStack_now ..)).scan_limits

/-- Settles O45: the checks of R68 in the state heard, and an accepted SET_DOWN table by table. -/
theorem setDownJudged : Obligations.SetDownJudged := by
  intro s k st h hs hrep hw cmd
  have hjudge : judgeRequest k (.setDown h) (heard k st s) = judgeSetDown k h (heard k st s) :=
    judge_heard s hrep rfl fun _ => hw
  have refused : ∀ {v}, judgeSetDown k h (heard k st s) = (heard k st s, v) → Refuses s cmd k st v := fun hj =>
    refuses_of_judge s rfl hrep.1 hrep.2.2 (hjudge.trans hj)
  refine ⟨fun hn => refused (judgeSetDown_stale (s := heard k st s) hn), ?_⟩
  intro r hr late holds
  have hlate : r.strandedBy k = true ↔ late := strandedBy_iff
  have hholds : (heard k st s).holdsFor k r.column .place h = true ↔ holds := holdsFor_iff
  have hcarried : ((heard k st s).slot k).carried = st.carried := by rw [heard_slot_self]; rfl
  refine ⟨fun hl => refused (judgeSetDown_late (s := heard k st s) hr (hlate.2 hl)),
    fun hl hh => refused (judgeSetDown_notYours (s := heard k st s) hr (mt hlate.1 hl) (mt hholds.1 hh)),
    fun hl hh hc => ?_, fun hl hh hc => ?_⟩
  all_goals have hj := judgeSetDown_holds (s := heard k st s) hr (mt hlate.1 hl) (hholds.2 hh)
  · exact refused (hj.trans (if_pos (hcarried.trans hc)))
  · obtain ⟨l, hlock, -, hwork⟩ := hh
    obtain ⟨hin, hst⟩ := worked_of_holds hs hr hlock hwork
    obtain ⟨hcol, hcounts, hhand, hnotice, hself, hothers⟩ := acceptSetDown_tables (coherent_heard hs k st) hin hst
    have ho := acceptSetDown_only h r.column (heard k st s)
    refine takes_of_judge s rfl hrep.1 hrep.2.2 (hjudge.trans (hj.trans (if_neg (hcarried ▸ hc)))) (ho.mono (by decide))
      (ho.line (by decide)) (fun j => acceptSetDown_mark ..) (acceptSetDown_limits ..) ?_
    simp only [SameColumnsBut, SameCounts, setMark_col, setVerdict_col, setMark_entry, setVerdict_entry, setMark_handoff,
      setVerdict_handoff, setMark_notice, setVerdict_notice]
    exact ⟨(hcol r.column).trans (if_pos rfl), fun d hd => (hcol d).trans (if_neg hd.symm), hcounts,
      handedOver_taken hhand _ _, hnotice, hself, hothers⟩

end Sys2Proof.Machine
end

section
/-! PICK_UP (R68, R137, R138): what an accepted one makes of each table, a bin picked up in place of another, and the order of
checks. -/

namespace Sys2Proof.Machine

open Sys2Proof Sys2Proof.Safety

variable {s t u v : State} {c d : Col} {i j : RecIdx} {k : Slot} {st : Status} {g h x : Handle} {r q : Record} {e : WaitEntry}
  {top : Option Handle} {w : Work} {l : Lock} {tag : Tag} {n : Nat}

/-! ### The entry of a delivered bin (R36) -/

/-- R36, R95: a delivery leaves the entries of other tags, and the entry of its own with the keep flag set. -/
theorem consume_map (hm : MapInForm s) (tag : Tag) :
    (consume tag s).manifest = { s.manifest with map := consumedMap s tag } := by
  have keepAll : (∀ e ∈ s.manifest.map, e.tag = tag → e.keep = true) → consumedMap s tag = s.manifest.map := fun h =>
    List.filter_eq_self.2 fun e he => by
      by_cases ht : e.tag = tag
      · simp [h e he ht]
      · simp [ht]
  rw [consume_manifest]
  cases hf : s.manifest.find tag with
  | none =>
    rw [keepAll fun e he ht => ?_]
    rw [← ht, manifestFind_of_mem hm he] at hf
    cases hf
  | some f =>
    have hone : ∀ e ∈ s.manifest.map, e.tag = tag → e = f := fun e he ht => by
      rw [← ht, manifestFind_of_mem hm he] at hf
      exact Option.some.inj hf
    cases hk : f.keep with
    | true =>
      rw [keepAll fun e he ht => hone e he ht ▸ hk]
      simp [hk]
    | false =>
      have hdrop : consumedMap s tag = dropEntry tag s.manifest.map := List.filter_congr fun e he => by
        by_cases ht : e.tag = tag
        · simp [hone e he ht, hk]
        · simp [ht]
      simp [hk, hdrop]

/-! ### The bin picked up (R137) -/

/-- An accepted PICK_UP before the flags of the stack are brought up to date: the top is popped, its record retired, and the
lock has ended. -/
def poppedFree (h : Handle) (c : Col) (s : State) : State := endLock c (retire h.idx .delivered (popStack c s))

theorem acceptPickUp_eq (h : Handle) (c : Col) (s : State) :
    acceptPickUp h c s = scan c (refreshStack c (poppedFree h c s)) := rfl

theorem poppedFree_only (h : Handle) (c : Col) (s : State) :
    OnlyChanges [.columns, .handoff, .lock, .manifest] s (poppedFree h c s) :=
  ((popStack_only ..).mono (by decide)).trans (((retire_only ..).mono (by decide)).trans
    ((endLock_only ..).mono (by decide)))

theorem poppedFree_col (h : Handle) (c d : Col) (s : State) : (poppedFree h c s).col d =
    if c = d then { s.col d with stack := (s.col d).stack.dropLast } else s.col d := by
  rw [poppedFree, endLock_col, col_congr ((retire_only ..).columns (by decide)), popStack_col]

section
variable (hs : Coherent s) (hr : s.recIn c h = some r) (hst : r.state = .lifting)
include hr

theorem poppedFree_entry (i : RecIdx) : (poppedFree h c s).entry i =
    if h.idx = i then ⟨h.gen + 1, none, some ⟨h, .delivered, r.tag, c⟩⟩ else s.entry i := by
  obtain ⟨hlive, hat, hc⟩ := recIn_live hr
  have hlive' : (popStack c s).live h.idx = some r := hlive
  have hat' : (popStack c s).handleAt h.idx = h := hat
  have hgen : ((popStack c s).entry h.idx).gen = h.gen := congrArg Handle.gen hat
  rw [poppedFree, endLock_entry, retire_entry _ hlive', hat', hgen, hc]
  rfl

theorem poppedFree_live (i : RecIdx) : (poppedFree h c s).live i = if h.idx = i then none else s.live i := by
  rw [live_def, poppedFree_entry hr]
  split <;> rfl

theorem poppedFree_counts : (poppedFree h c s).handoff.freeCount = s.handoff.freeCount + 1 ∧
    (poppedFree h c s).handoff.order = s.handoff.order.filter (· ≠ h.idx) :=
  retire_counts (popStack c s) (recIn_live hr).1 .delivered

theorem poppedFree_manifest (hm : MapInForm s) :
    (poppedFree h c s).manifest = { s.manifest with map := consumedMap s r.tag } := by
  have hlive : (popStack c s).live h.idx = some r := (recIn_live hr).1
  rw [poppedFree, endLock_manifest, retire_manifest _ hlive, if_pos rfl]
  exact consume_map (s := popStack c s) hm r.tag

include hs hst

/-- R31: a record being lifted is at the top of its stack. -/
theorem top_of_lifting : s.top c = some h := by
  have hrf := (hs.bayFits c).records h r hr
  simp only [RecordFits, hst] at hrf
  exact hrf.2.2.1

theorem poppedFree_unlocked : Unlocked c s (poppedFree h c s) where
  free := by rw [poppedFree, endLock_lockOf, if_pos rfl]
  locks d hd := by rw [poppedFree, endLock_lockOf, if_neg hd.symm, retire_lockOf]; rfl
  waits d := by
    obtain ⟨hlive, hat, hc⟩ := recIn_live hr
    have hlive' : (popStack c s).live h.idx = some r := hlive
    rw [poppedFree, endLock_waitsOf, retire_waitsOf _ hlive', hc]
    split
    · next hcd =>
      subst hcd
      refine List.filter_eq_self.2 fun e he => decide_eq_true fun heq => ?_
      exact waiter_idx_ne hs hr (w := .lift) hst he (by rw [heq]; rfl)
    · rfl
  limits := by
    have hlive : (popStack c s).live h.idx = some r := (recIn_live hr).1
    have hlock := retire_lock (popStack c s) hlive .delivered
    refine ⟨?_, ?_, ?_⟩ <;> simp [poppedFree, endLock, hlock, State.dropWaitFor]
  now := (poppedFree_only h c s).2.1

/-- R11: what stands in the stack after the pop stands below the old top, in an index of its own. -/
theorem below_of_popped (hx : x ∈ (s.col c).stack.dropLast) : h.idx ≠ x.idx ∧ ∃ q n, s.recIn c x = some q ∧
    q.level = some n ∧ n + 1 < (s.col c).stack.length ∧ (s.col c).stack.dropLast[n]? = some x := by
  obtain ⟨n, hn⟩ := List.mem_iff_getElem?.1 hx
  have hlt : n < (s.col c).stack.length - 1 := by
    simpa using (List.getElem?_eq_some_iff.1 hn).1
  have hget : (s.col c).stack[n]? = some x := by
    rw [List.getElem?_dropLast, if_pos hlt] at hn
    exact hn
  obtain ⟨q, hq, hlev⟩ := (hs.bayFits c).stack n x hget
  refine ⟨fun hidx => ?_, q, n, hq, hlev, by omega, hn⟩
  have hlive := (recIn_live hr).1
  rw [hidx, (recIn_live hq).1] at hlive
  cases hlive
  have htop := level_of_top hs (top_of_lifting hs hr hst) hr
  rw [hlev] at htop
  cases htop
  exact Nat.lt_irrefl _ hlt

omit hs hr hst in
/-- R16: after a pop a record is buried when it is PROMISED and not at the new top. -/
theorem poppedFree_isBuried (hq : s.recIn c x = some q) (hlev : q.level = some n)
    (hn : (s.col c).stack.dropLast[n]? = some x) :
    (poppedFree h c s).isBuried q = (decide (q.state = .promised) && decide (n + 2 < (s.col c).stack.length)) := by
  obtain ⟨-, -, rfl⟩ := recIn_live hq
  have hpos : 0 < (s.col q.column).stack.length - 1 - 1 - n ↔ n + 2 < (s.col q.column).stack.length := by omega
  simp only [State.isBuried, State.depth, hlev, poppedFree_col, if_true, List.length_dropLast, Option.map_some,
    Option.any_some, hpos]

/-- R16: the pop changes the depth of every record that stays, but only the new top can come to be uncovered by it. -/
theorem poppedFree_flagFits (hx : x ∈ ((poppedFree h c s).col c).stack) (ht : (s.col c).stack.dropLast.getLast? ≠ some x) :
    FlagFits (poppedFree h c s) x.idx := by
  intro p hp
  rw [poppedFree_col, if_pos rfl] at hx
  obtain ⟨hne, q, n, hq, hlev, hlt, hn⟩ := below_of_popped hs hr hst hx
  rw [poppedFree_live hr, if_neg hne, (recIn_live hq).1] at hp
  cases hp
  have hnotTop : n + 2 < (s.col c).stack.length := by
    by_contra hle
    refine ht ?_
    rw [List.getLast?_eq_getElem?, ← hn]
    congr 1
    simp
    omega
  have hold : s.top c ≠ some x := (depth_pos_iff hs hq hlev).1 (by omega)
  rw [poppedFree_isBuried hq hlev hn, buried_eq hs hq hlev]
  simp [hold, hnotTop]

theorem refreshStack_poppedFree : refreshStack c (poppedFree h c s) =
    refreshTop (s.col c).stack.dropLast.getLast? (poppedFree h c s) := by
  refine refreshStack_top (fun g hg => ?_) fun x hx ht => poppedFree_flagFits hs hr hst hx ht
  rw [poppedFree_col, if_pos rfl]
  exact List.mem_of_getLast? hg

/-- R16: the record at the new top after a pop is not buried. -/
theorem poppedFree_top (hg : (s.col c).stack.dropLast.getLast? = some g) : h.idx ≠ g.idx ∧
    ∃ q, s.recIn c g = some q ∧ (poppedFree h c s).isBuried q = false := by
  obtain ⟨hne, q, n, hq, hlev, hlt, hn⟩ := below_of_popped hs hr hst (List.mem_of_getLast? hg)
  refine ⟨hne, q, hq, ?_⟩
  have hlev' : q.level = some ((s.col c).stack.length - 2) := by
    rw [List.getLast?_eq_getElem?] at hg
    have hget : (s.col c).stack[(s.col c).stack.dropLast.length - 1]? = some g := by
      rw [List.getElem?_dropLast] at hg
      split at hg
      · exact hg
      · cases hg
    obtain ⟨p, hp, hplev⟩ := (hs.bayFits c).stack _ _ hget
    cases hq.symm.trans hp
    rw [hplev, List.length_dropLast]
    rfl
  rw [hlev] at hlev'
  cases hlev'
  rw [poppedFree_isBuried hq hlev hn]
  simp
  omega

/-- R16: what a pop makes of the records that stay, of its column or not. -/
theorem refreshTop_poppedFree_entry (hi : i ≠ h.idx) :
    (refreshTop (s.col c).stack.dropLast.getLast? (poppedFree h c s)).entry i =
      { s.entry i with live := (s.live i).map (uncovered s c i) } := by
  have he : (poppedFree h c s).entry i = s.entry i := by rw [poppedFree_entry hr, if_neg hi.symm]
  have hl : (poppedFree h c s).live i = s.live i := congrArg Entry.live he
  rw [refreshTop_entry (f := uncovered s c i) (fun g hg hgi q hq => ?_) (fun hno q hq => ?_), he, hl]
  · obtain ⟨-, p, hp, hb⟩ := poppedFree_top hs hr hst hg
    obtain ⟨hlive, hat, hc⟩ := recIn_live hp
    rw [hl, ← hgi, hlive] at hq
    cases hq
    rw [uncovered, if_pos ⟨hg.trans (by rw [← hgi, hat]), hc⟩, hb]
  · exact if_neg fun ⟨hg, _⟩ => hno _ hg rfl

/-- R17: no record comes to be buried by a pop. -/
theorem refreshTop_poppedFree_notice :
    (refreshTop (s.col c).stack.dropLast.getLast? (poppedFree h c s)).notice = s.notice := by
  have hnotice : (poppedFree h c s).notice = s.notice := (poppedFree_only h c s).notice (by decide)
  cases hg : (s.col c).stack.dropLast.getLast? with
  | none => exact hnotice
  | some g =>
    obtain ⟨hne, q, hq, hb⟩ := poppedFree_top hs hr hst hg
    rw [refreshTop, Option.elim_some, refreshBuried_notice, poppedFree_live hr, if_neg hne, (recIn_live hq).1,
      Option.any_some, hb]
    exact hnotice

theorem refreshTop_poppedFree_entry_self :
    (refreshTop (s.col c).stack.dropLast.getLast? (poppedFree h c s)).entry h.idx =
      ⟨h.gen + 1, none, some ⟨h, .delivered, r.tag, c⟩⟩ := by
  have hnone : (poppedFree h c s).live h.idx = none := by rw [poppedFree_live hr, if_pos rfl]
  rw [refreshTop_entry (f := id) (fun g hg hgi => absurd hgi.symm (poppedFree_top hs hr hst hg).1) (fun _ _ _ => rfl),
    hnone, poppedFree_entry hr, if_pos rfl]
  rfl

/-- R137, R36: an accepted PICK_UP, table by table. -/
theorem acceptPickUp_tables (hm : MapInForm s) :
    let below := (s.col c).stack.dropLast
    (∀ d, (acceptPickUp h c s).col d = if c = d then { s.col d with stack := (s.col d).stack.dropLast } else s.col d) ∧
    HandedOver s (acceptPickUp h c s) c below.getLast? ∧
    (acceptPickUp h c s).entry h.idx = ⟨h.gen + 1, none, some ⟨h, .delivered, r.tag, c⟩⟩ ∧
    (acceptPickUp h c s).handoff.freeCount = s.handoff.freeCount + 1 ∧
    (acceptPickUp h c s).handoff.order = s.handoff.order.filter (· ≠ h.idx) ∧
    (acceptPickUp h c s).manifest = { s.manifest with map := consumedMap s r.tag } ∧
    (acceptPickUp h c s).notice = s.notice ∧
    ∀ i, i ≠ h.idx → (acceptPickUp h c s).entry i = { s.entry i with
      live := (s.live i).map fun q => afterGrant (nextHolder s c below.getLast?) i (uncovered s c i q) } := by
  intro below
  have ho := refreshTop_only below.getLast? (poppedFree h c s)
  have hu : Unlocked c s (refreshTop below.getLast? (poppedFree h c s)) :=
    (poppedFree_unlocked hs hr hst).of_lock (ho.lock (by decide)) ho.2.1
  have hcol : ∀ d, (refreshTop below.getLast? (poppedFree h c s)).col d =
      if c = d then { s.col d with stack := (s.col d).stack.dropLast } else s.col d := fun d =>
    (col_congr (ho.columns (by decide)) d).trans (poppedFree_col h c d s)
  have htop : (refreshTop below.getLast? (poppedFree h c s)).top c = below.getLast? := by
    rw [State.top, hcol, if_pos rfl]
  have hhand := hu.handedOver
  rw [htop] at hhand
  have hentry := scan_entry (s := refreshTop below.getLast? (poppedFree h c s)) c (hb := fun g hg q hq => by
    rw [htop] at hg
    obtain ⟨hne, p, hp, -⟩ := poppedFree_top hs hr hst hg
    obtain ⟨hlive, hat, hc⟩ := recIn_live hp
    rw [live_def, refreshTop_poppedFree_entry hs hr hst hne.symm, hlive] at hq
    cases hq
    rw [uncovered, if_pos ⟨hg.trans (by rw [hat]), hc⟩])
  obtain ⟨hfree, horder⟩ := poppedFree_counts hr
  obtain ⟨hfree', horder'⟩ := sameCounts_trans (refreshTop_counts below.getLast? (poppedFree h c s)) (scan_counts c _)
  rw [acceptPickUp_eq, refreshStack_poppedFree hs hr hst]
  refine ⟨fun d => (scan_col ..).trans (hcol d), hhand, ?_, hfree'.trans hfree, horder'.trans horder, ?_, ?_,
    fun i hi => ?_⟩
  · rw [hentry, live_def, refreshTop_poppedFree_entry_self hs hr hst]
    rfl
  · rw [scan_manifest, ho.manifest (by decide), poppedFree_manifest hr hm]
  · rw [scan_notice, refreshTop_poppedFree_notice hs hr hst]
  · rw [hentry, htop, live_def, refreshTop_poppedFree_entry hs hr hst hi, hu.nextHolder_eq, Option.map_map]
    rfl

end

/-! ### The bin of another tag (R138) -/

/-- R147: a stranding in the state heard is one by the command as a whole. -/
theorem strandedIn_taken (hh : StrandedIn (heard k st s) u c l w h r) (o : Option Verdict) (m : Option Col) :
    StrandedIn s ((setVerdict k o u).setMark k m) c l w h r where
  lock := hh.lock
  locks := hh.locks
  column := by
    rw [← heard_robotId k l.holder st]
    exact hh.column
  columns := hh.columns
  record := hh.record
  records := hh.records
  counts := hh.counts

/-! ### PICK_UP as a command (R68) -/

theorem judgePickUp_stale (hn : s.named h = none) : judgePickUp k h s = (s, .stale) := by rw [judgePickUp, hn]

section
variable (hr : s.named h = some r)
include hr

theorem judgePickUp_late (hlate : r.strandedBy k = true) : judgePickUp k h s = (s, .late) := by
  rw [judgePickUp, hr]
  exact if_pos hlate

theorem judgePickUp_notYours (hlate : ¬ r.strandedBy k = true) (hh : ¬ s.holdsFor k r.column .lift h = true) :
    judgePickUp k h s = (s, .notYours) := by
  rw [judgePickUp, hr]
  exact (if_neg hlate).trans (if_neg hh)

theorem judgePickUp_holds (hlate : ¬ r.strandedBy k = true) (hh : s.holdsFor k r.column .lift h = true) :
    judgePickUp k h s = if (s.slot k).carried = r.tag then (acceptPickUp h r.column s, .done none)
      else if (s.slot k).carried = 0 then (s, .notHeld) else (strand r.column k .lift h s, .wrongBin) := by
  rw [judgePickUp, hr]
  exact (if_neg hlate).trans (if_pos hh)

end

theorem acceptPickUp_mark (h : Handle) (c : Col) (j : Slot) (s : State) : (acceptPickUp h c s).mark j = s.mark j := by
  simp [acceptPickUp, scan_mark, retire_mark]

theorem acceptPickUp_limits (hs : Coherent s) (hr : s.recIn c h = some r) (hst : r.state = .lifting) :
    (acceptPickUp h c s).lock.placeLimit = s.lock.placeLimit ∧ (acceptPickUp h c s).lock.liftLimit = s.lock.liftLimit ∧
      (acceptPickUp h c s).lock.surveyLimit = s.lock.surveyLimit :=
  ((poppedFree_unlocked hs hr hst).of_lock (refreshStack_lock ..) (refreshStack_now ..)).scan_limits

/-- An accepted PICK_UP raises nothing, so it leaves the notices beside the parts that the release of its lock leaves. -/
theorem acceptPickUp_only (hn : (acceptPickUp h c s).notice = s.notice) :
    OnlyChanges [.columns, .handoff, .lock, .manifest] s (acceptPickUp h c s) := by
  have ho : OnlyChanges [.notice, .columns, .handoff, .lock, .manifest] s (acceptPickUp h c s) :=
    ((poppedFree_only h c s).mono (by decide)).trans (((refreshStack_only c _).mono (by decide)).trans
      ((scan_only c _).mono (by decide)))
  refine ⟨ho.1, ho.2.1, fun p hp => ?_⟩
  by_cases hpn : p = .notice
  · subst hpn; exact hn
  · exact ho.2.2 p (by simpa [hpn] using hp)

/-- Settles O46: the checks of R68 in the state heard, an accepted PICK_UP table by table, and the strand of a lift whose robot
carries another bin. -/
theorem pickUpJudged : Obligations.PickUpJudged := by
  intro s k st h hs hm hrep hw cmd
  have hjudge : judgeRequest k (.pickUp h) (heard k st s) = judgePickUp k h (heard k st s) :=
    judge_heard s hrep rfl fun _ => hw
  have refused : ∀ {v}, judgePickUp k h (heard k st s) = (heard k st s, v) → Refuses s cmd k st v := fun hj =>
    refuses_of_judge s rfl hrep.1 hrep.2.2 (hjudge.trans hj)
  refine ⟨fun hn => refused (judgePickUp_stale (s := heard k st s) hn), ?_⟩
  intro r hr late holds
  have hlate : r.strandedBy k = true ↔ late := strandedBy_iff
  have hholds : (heard k st s).holdsFor k r.column .lift h = true ↔ holds := holdsFor_iff
  have hcarried : ((heard k st s).slot k).carried = st.carried := by rw [heard_slot_self]; rfl
  have h0 : r.tag ≠ 0 := hs.tags.1 h.idx r (live_of_named hr)
  refine ⟨fun hl => refused (judgePickUp_late (s := heard k st s) hr (hlate.2 hl)),
    fun hl hh => refused (judgePickUp_notYours (s := heard k st s) hr (mt hlate.1 hl) (mt hholds.1 hh)),
    fun hl hh hc => ?_, fun hl hh hc hne l hlock => ?_, fun hl hh hc => ?_⟩
  all_goals
    have hj := judgePickUp_holds (s := heard k st s) hr (mt hlate.1 hl) (hholds.2 hh)
    rw [hcarried] at hj
  · exact refused (hj.trans ((if_neg (hc ▸ h0.symm)).trans (if_pos hc)))
  · obtain ⟨m, hm, rfl, hwork⟩ := hh
    cases hlock.symm.trans hm
    have ho := strand_only r.column l.holder .lift h (heard l.holder st s)
    refine takes_of_judge s rfl hrep.1 hrep.2.2 (hjudge.trans (hj.trans ((if_neg hne).trans (if_neg hc))))
      (ho.mono (by decide)) (ho.line (by decide)) (fun j => strand_mark ..) (strand_limits ..) ⟨?_, ?_⟩
    · exact strandedIn_taken (strand_strandedIn (coherent_heard hs l.holder st) hlock hwork hr) _ _
    · exact strand_notice (heard l.holder st s) ..
  · obtain ⟨l, hlock, -, hwork⟩ := hh
    obtain ⟨hin, hst⟩ := worked_of_holds hs hr hlock hwork
    have hs' := coherent_heard hs k st
    obtain ⟨hcol, hhand, hself, hfree, horder, hmap, hnotice, hothers⟩ := acceptPickUp_tables hs' hin hst hm
    have ho := acceptPickUp_only hnotice
    refine takes_of_judge s rfl hrep.1 hrep.2.2 (hjudge.trans (hj.trans (if_pos hc))) (ho.mono (by decide))
      (ho.line (by decide)) (fun j => acceptPickUp_mark ..) (acceptPickUp_limits hs' hin hst) ?_
    simp only [SameColumnsBut, setMark_col, setVerdict_col, setMark_entry, setVerdict_entry, setMark_handoff,
      setVerdict_handoff, setMark_manifest, setVerdict_manifest]
    exact ⟨top_of_lifting hs hin hst, (hcol r.column).trans (if_pos rfl), fun d hd => (hcol d).trans (if_neg hd.symm),
      handedOver_taken hhand _ _, hself, hfree, horder, hmap, hothers⟩

end Sys2Proof.Machine
end

section
/-! CLAIM (R140): the order of checks, and the promise it makes. -/

namespace Sys2Proof.Machine

open Sys2Proof Sys2Proof.Safety

variable {s : State} {i : RecIdx} {k : Slot} {st : Status} {r : Record} {tag : Tag} {n : Nat}

theorem judgeClaim_unknown (h : tag = 0 ∨ ∀ i, ∀ r ∈ s.live i, r.tag ≠ tag) : judgeClaim k tag s = (s, .unknown) := by
  rw [judgeClaim, tagged_eq_none.2 h]

section
variable (hu : TagsUnique s) (hr : s.live i = some r)
include hu hr

theorem judgeClaim_taken (hst : r.state = .promised) (hk : r.collector ≠ some k) :
    judgeClaim k r.tag s = (s, .taken) := by
  simp only [judgeClaim, tagged_of_live hu hr rfl, hst, if_neg hk]

theorem judgeClaim_wrongState (hst : r.state ∈ [.reserved, .placing, .lifting, .stranded]) :
    judgeClaim k r.tag s = (s, .wrongState) := by
  simp only [List.mem_cons, List.not_mem_nil, or_false] at hst
  rcases hst with hst | hst | hst | hst <;> simp only [judgeClaim, tagged_of_live hu hr rfl, hst]

theorem judgeClaim_again (hst : r.state = .promised) (hk : r.collector = some k) :
    judgeClaim k r.tag s = (s, s.claimed i r) := by
  simp only [judgeClaim, tagged_of_live hu hr rfl, hst, if_pos hk]

theorem judgeClaim_promises (hst : r.state = .parked) :
    judgeClaim k r.tag s = (promiseRecord i k s, s.claimed i r) := by
  simp only [judgeClaim, tagged_of_live hu hr rfl, hst]

end

theorem depth_of_level (hn : r.level = some n) : s.depth r = some ((s.col r.column).stack.length - 1 - n) := by
  rw [State.depth, hn, Option.map_some]

/-- R140: the figures of CLAIMED for a record that stands. -/
theorem claimed_eq (hn : r.level = some n) :
    s.claimed i r = .claimed (s.handleAt i) r.column n ((s.col r.column).stack.length - 1 - n) := by
  rw [State.claimed, depth_of_level hn, hn]
  rfl

/-- Settles O47: the checks of R140 in the state heard, and the promise of a PARKED record. -/
theorem claimJudged : Obligations.ClaimJudged := by
  intro s k st tag hrep hw hu hf cmd
  have hjudge : judgeRequest k (.claim tag) (heard k st s) = judgeClaim k tag (heard k st s) :=
    judge_heard s hrep rfl fun _ => hw
  have refused : ∀ {v}, judgeClaim k tag (heard k st s) = (heard k st s, v) → Refuses s cmd k st v := fun hj =>
    refuses_of_judge s rfl hrep.1 hrep.2.2 (hjudge.trans hj)
  refine ⟨fun hn => refused (judgeClaim_unknown (s := heard k st s) hn), fun i r hr ht => ?_⟩
  subst ht
  refine ⟨fun hst hk => refused (judgeClaim_taken (s := heard k st s) hu hr hst hk),
    fun hst => refused (judgeClaim_wrongState (s := heard k st s) hu hr hst), ?_⟩
  intro level hlev depth verdict
  have hclaimed : (heard k st s).claimed i r = verdict := claimed_eq (s := heard k st s) hlev
  refine ⟨fun hst hk => refused ((judgeClaim_again (s := heard k st s) hu hr hst hk).trans (by rw [hclaimed])),
    fun hst => ?_⟩
  have hj := judgeClaim_promises (s := heard k st s) (k := k) hu hr hst
  rw [hclaimed] at hj
  obtain ⟨ho, hothers, hcounts, hself, hnotice⟩ :=
    promiseRecord_changes (s := heard k st s) (h := s.handleAt i) ((named_handleAt i).trans hr) (.refl _ _) k
  have hlock := promiseRecord_lock i k (heard k st s)
  have hsf : r.strandedFrom = none := by
    obtain ⟨hsf, -⟩ := hf i r hr
    simpa [hst] using hsf
  have hdepth : (heard k st s).depth r = some depth := depth_of_level (s := heard k st s) hlev
  rw [hdepth] at hself hnotice
  refine takes_of_judge s rfl hrep.1 hrep.2.2 (hjudge.trans hj) (ho.mono (by decide)) (ho.line (by decide))
    (mark_congr hlock) (by rw [hlock]; exact ⟨rfl, rfl, rfl⟩) ?_
  simp only [SameLocks, SameEntriesBut, SameCounts, setMark_lockOf, setVerdict_lockOf, setMark_waitsOf, setVerdict_waitsOf,
    setMark_entry, setVerdict_entry, setMark_handoff, setVerdict_handoff, setMark_notice, setVerdict_notice]
  refine ⟨fun d => ⟨lockOf_congr hlock d, waitsOf_congr hlock d⟩, hothers, hcounts, hself.trans ?_, ?_⟩
  · rw [← hsf]
    rfl
  · simp only [Option.any_some, decide_eq_true_eq] at hnotice
    exact hnotice

end Sys2Proof.Machine
end

section
/-! YIELD and YIELD of SURVEY (R142, R143): a held lock released, a wait place left, a promise or a reservation given up. -/

namespace Sys2Proof.Machine

open Sys2Proof Sys2Proof.Safety

variable {s : State} {c d : Col} {i : RecIdx} {k : Slot} {st : Status} {h x : Handle} {r q : Record} {e : WaitEntry} {w : Work}
  {l : Lock} {n : Nat}

/-! ### What the lock unit answers (R142, R143) -/

theorem judgeYield_stale (hn : s.named h = none) : judgeYield k h s = (s, .stale) := by rw [judgeYield, hn]

section
variable (hr : s.named h = some r)
include hr

theorem judgeYield_late (hlate : r.strandedBy k = true) : judgeYield k h s = (s, .late) := by
  rw [judgeYield, hr]
  exact if_pos hlate

variable (hlate : ¬ r.strandedBy k = true)
include hlate

theorem judgeYield_release (hh : s.holding k = some (c, l)) (hw : l.hold = .work w h) :
    judgeYield k h s = (scan c (endLock c (returnWork w h.idx s)), .released) := by
  rw [judgeYield, hr]
  dsimp only
  rw [if_neg hlate, hh]
  dsimp only
  rw [hw]
  exact if_pos rfl

theorem judgeYield_otherLock (hh : s.holding k = some (c, l)) (hw : l.hold.handle ≠ some h) :
    judgeYield k h s = (s, .busy) := by
  rw [judgeYield, hr]
  dsimp only
  rw [if_neg hlate, hh]
  dsimp only
  cases hl : l.hold with
  | survey => rfl
  | work w h' =>
    rw [hl] at hw
    exact if_neg fun heq => hw (congrArg some heq)

theorem judgeYield_waiter (hh : s.holding k = none) (hw : s.waiting k = some (c, n, e)) :
    judgeYield k h s = if e.handle = h then (s.dropWaiter k, .released) else (s, .busy) := by
  rw [judgeYield, hr]
  dsimp only
  rw [if_neg hlate, hh, hw]

theorem judgeYield_free (hk : k ∉ positions s) : judgeYield k h s =
    if r.state = .promised ∧ r.collector = some k then (parkRecord h.idx s, .released)
    else if r.state = .reserved ∧ r.releaser = some k then (retire h.idx .cancelled s, .released)
    else (s, .notYours) := by
  rw [judgeYield, hr]
  dsimp only
  rw [if_neg hlate, holding_none_of_not_mem hk, waiting_none_of_not_mem hk]

end

/-- R143: a SURVEY lock is released, and nothing else is. -/
theorem judgeYieldSurvey_holder (hh : s.holding k = some (c, l)) : judgeYieldSurvey k s =
    if l.hold = .survey then (endLock c s, .released) else (s, .notYours) := by
  rw [judgeYieldSurvey, hh]

theorem judgeYieldSurvey_free (hh : s.holding k = none) : judgeYieldSurvey k s = (s, .notYours) := by
  rw [judgeYieldSurvey, hh]

/-! ### A held lock released (R142 case 3) -/

/-- The state of a release before the scan: the record waits again, and the lock has ended. -/
def returnedFree (w : Work) (h : Handle) (c : Col) (s : State) : State := endLock c (returnWork w h.idx s)

theorem returnedFree_unlocked (w : Work) (h : Handle) (c : Col) (s : State) : Unlocked c s (returnedFree w h c s) where
  free := by rw [returnedFree, endLock_lockOf, if_pos rfl]
  locks d hd := by rw [returnedFree, endLock_lockOf, if_neg hd.symm, lockOf_congr ((returnWork_only ..).lock (by decide))]
  waits d := by rw [returnedFree, endLock_waitsOf, waitsOf_congr ((returnWork_only ..).lock (by decide))]
  limits := by
    refine ⟨?_, ?_, ?_⟩ <;> simp [returnedFree, endLock]
  now := (returnWork_only w h.idx s).2.1

section
variable (hs : Coherent s) (hr : s.recIn c h = some r) (hst : r.state = busyState w)
include hs hr hst

/-- R26, R31: the release of a record that is being worked on writes no more than its state. -/
theorem returned_of_worked :
    r.returned s w = { r with state := if w = .place then .reserved else .promised } := by
  have hrf := (hs.bayFits c).records h r hr
  have hb := worked_not_buried hs hr hst
  cases w with
  | place =>
    simp only [busyState] at hst
    simp only [RecordFits, hst] at hrf
    obtain ⟨hlev, -, hsf, -⟩ := hrf
    rw [Record.returned, ← hlev, ← hsf]
    rfl
  | lift =>
    simp only [busyState] at hst
    have htop := level_of_top hs (top_of_lifting hs hr hst) hr
    have hdepth : (s.depth r).any (0 < ·) = r.buried := by
      rw [State.depth, htop, (recIn_live hr).2.2, hb]
      simp
    rw [Record.returned, hdepth]
    rfl

theorem returnedFree_entry (i : RecIdx) : (returnedFree w h c s).entry i = if h.idx = i then
    { s.entry i with live := some { r with state := if w = .place then .reserved else .promised } } else s.entry i := by
  rw [returnedFree, endLock_entry, returnWork_entry]
  split
  · next hi => rw [← hi, (recIn_live hr).1, Option.map_some, returned_of_worked hs hr hst]
  · rfl

/-- R17: the record of a lift given up is at the top of its stack, so nothing is raised. -/
theorem returnedFree_notice : (returnedFree w h c s).notice = s.notice := by
  rw [returnedFree, endLock_notice]
  cases w with
  | place => exact updRec_notice ..
  | lift =>
    have htop := level_of_top hs (top_of_lifting hs hr hst) hr
    obtain ⟨hlive, -, hc⟩ := recIn_live hr
    rw [returnWork, refreshBuried_notice, updRec_live, if_pos rfl, hlive, updRec_notice]
    simp [State.isBuried, State.depth, htop, hc]

theorem returnedFree_only : OnlyChanges [.handoff, .lock] s (returnedFree w h c s) := by
  have ho : OnlyChanges [.handoff, .notice, .lock] s (returnedFree w h c s) :=
    ((returnWork_only w h.idx s).mono (by decide)).trans ((endLock_only c _).mono (by decide))
  refine ⟨ho.1, ho.2.1, fun p hp => ?_⟩
  by_cases hpn : p = .notice
  · subst hpn; exact returnedFree_notice hs hr hst
  · exact ho.2.2 p (by simpa [hpn] using hp)

/-- R142 case 3, R70: a released lock, table by table. -/
theorem release_tables :
    HandedOver s (scan c (returnedFree w h c s)) c (s.top c) ∧ SameCounts s (scan c (returnedFree w h c s)) ∧
    (scan c (returnedFree w h c s)).entry h.idx = { s.entry h.idx with
      live := some { r with state := if w = .place then .reserved else .promised } } ∧
    ∀ i, i ≠ h.idx → (scan c (returnedFree w h c s)).entry i =
      { s.entry i with live := (s.live i).map (afterGrant (nextHolder s c (s.top c)) i) } := by
  have hu := returnedFree_unlocked w h c s
  have hentry := returnedFree_entry hs hr hst
  have htop : (returnedFree w h c s).top c = s.top c := by
    rw [State.top, col_congr ((returnedFree_only hs hr hst).columns (by decide))]
    rfl
  have hhand := hu.handedOver
  have hscan := scan_entry (s := returnedFree w h c s) c (hb := fun g hg q hq => by
    rw [htop] at hg
    obtain ⟨p, n, hp, -⟩ := recIn_of_mem_stack hs (List.mem_of_getLast? hg)
    rw [live_def, hentry] at hq
    split at hq
    · cases hq
      show r.buried = false
      exact worked_not_buried hs hr hst
    · cases (recIn_live hp).1.symm.trans hq
      exact not_buried_of_top hs hg hp)
  rw [htop, hu.nextHolder_eq] at hscan
  rw [htop] at hhand
  refine ⟨hhand, sameCounts_trans (returnWork_counts w h.idx) (scan_counts c (returnedFree w h c s)), ?_, fun i hi => ?_⟩
  · rw [hscan, live_def, hentry, if_pos rfl, Option.map_some, afterGrant_worked hs hr hst]
  · rw [hscan, live_def, hentry, if_neg hi.symm]
    rfl

end

/-! ### A reservation given up (R142 case 6) -/

/-- R61, R63: a slot without a position waits for no reservation of its own, so the end of one drops no wait place. -/
theorem retire_sameLocks (hs : Coherent s) (hr : s.named h = some r) (hst : r.state = .reserved)
    (hk : r.releaser = some k) (hp : k ∉ positions s) (o : Retirement) : SameLocks s (retire h.idx o s) := by
  intro d
  refine ⟨retire_lockOf s h.idx o d, ?_⟩
  rw [retire_waitsOf s (live_of_named hr)]
  split
  · next hd =>
    refine List.filter_eq_self.2 fun e he => decide_eq_true fun heq => hp ?_
    rw [handleAt_of_named hr] at heq
    obtain ⟨-, -, q, hq, ha⟩ := (hs.bayFits d).waits e he
    rw [heq] at hq
    cases hr.symm.trans (recIn_eq_some.1 hq).1
    have hslot : k = e.slot := Awaits.slot_eq (w := .place) ⟨hst, hk⟩ ha
    exact mem_positions.2 (.inr ⟨d, e, he, hslot.symm⟩)
  · rfl

/-! ### YIELD as a command -/

theorem judgeRequest_yield (hrep : Reports s k st) :
    judgeRequest k (.yield h) (heard k st s) = judgeYield k h (heard k st s) := judge_heard s hrep rfl nofun

theorem refuses_yield (hrep : Reports s k st) {v : Verdict} (hj : judgeYield k h (heard k st s) = (heard k st s, v)) :
    Refuses s (.yield st h) k st v :=
  refuses_of_judge s rfl hrep.1 hrep.2.2 ((judgeRequest_yield hrep).trans hj)

/-- R142 case 3: a YIELD of the lock that the slot holds. -/
theorem yield_lock (hs : Coherent s) (hrep : Reports s k st) (hr : s.named h = some r) (hlate : ¬ r.strandedBy k = true)
    (hl : s.lockOf r.column = some l) (hk : l.holder = k) (hw : l.hold = .work w h) :
    Takes s (.yield st h) k st .released [.handoff] fun u =>
      HandedOver s u r.column (s.top r.column) ∧ SameCounts s u ∧
      u.entry h.idx = { s.entry h.idx with
        live := some { r with state := if w = .place then .reserved else .promised } } ∧
      ∀ i, i ≠ h.idx → u.entry i =
        { s.entry i with live := (s.live i).map (afterGrant (nextHolder s r.column (s.top r.column)) i) } := by
  obtain ⟨hin, hst⟩ := worked_of_holds hs hr hl hw
  have hs' := coherent_heard hs k st
  have hj : judgeYield k h (heard k st s) = (scan r.column (returnedFree w h r.column (heard k st s)), .released) :=
    judgeYield_release (s := heard k st s) hr hlate (holding_of_lockOf (s := heard k st s) hs.positions hl hk) hw
  obtain ⟨hhand, hcounts, hself, hothers⟩ := release_tables hs' hin hst
  have ho := (returnedFree_only hs' hin hst).trans ((scan_only r.column _).mono (by decide))
  have hlimits := (returnedFree_unlocked w h r.column (heard k st s)).scan_limits
  refine takes_of_judge s rfl hrep.1 hrep.2.2 ((judgeRequest_yield hrep).trans hj) (ho.mono (by decide))
    (ho.line (by decide)) (fun j => ?_) hlimits ?_
  · rw [scan_mark, returnedFree, endLock_mark]
    exact mark_congr ((returnWork_only ..).lock (by decide)) j
  · simp only [SameCounts, setMark_entry, setVerdict_entry, setMark_handoff, setVerdict_handoff]
    exact ⟨handedOver_taken hhand _ _, hcounts, hself, hothers⟩

/-- R142 case 4: a YIELD of the wait place that the slot has. -/
theorem yield_wait (hs : Coherent s) (hrep : Reports s k st) (hr : s.named h = some r) (hlate : ¬ r.strandedBy k = true)
    (he : e ∈ s.waitsOf c) (hk : e.slot = k) (hh : e.handle = h) :
    Takes s (.yield st h) k st .released [] fun u =>
      u.waitsOf c = (s.waitsOf c).filter (fun e => decide (e.slot ≠ k)) ∧ u.lockOf c = s.lockOf c ∧ SameLocksBut c s u := by
  obtain ⟨n, hn⟩ := List.mem_iff_getElem?.1 he
  have hj := judgeYield_waiter (s := heard k st s) hr hlate (holding_of_waiter (s := heard k st s) hs.positions he hk)
    (waiting_of_waitsOf (s := heard k st s) hs.positions hn hk)
  refine takes_of_judge s rfl hrep.1 hrep.2.2 ((judgeRequest_yield hrep).trans (hj.trans (if_pos hh)))
    ((heard k st s).dropWaiter_only k) rfl (fun _ => rfl) ⟨rfl, rfl, rfl⟩
    ⟨dropWaiter_waitsOf (heard k st s) k c, rfl, fun d hd => ⟨rfl, ?_⟩⟩
  refine (dropWaiter_waitsOf (heard k st s) k d).trans (List.filter_eq_self.2 fun f hf => decide_eq_true fun hfk => hd ?_)
  exact positions_column hs.positions (waiter_mem hf hfk) (waiter_mem he hk)

/-- R142 case 5: a YIELD of another handle than that of the slot's lock or wait place. -/
theorem yield_other (hs : Coherent s) (hrep : Reports s k st) (hr : s.named h = some r) (hlate : ¬ r.strandedBy k = true)
    (hpos : (∃ l ∈ s.lockOf d, l.holder = k ∧ l.hold.handle ≠ some h) ∨ ∃ e ∈ s.waitsOf d, e.slot = k ∧ e.handle ≠ h) :
    Refuses s (.yield st h) k st .busy := by
  rcases hpos with ⟨l, hl, hk, hw⟩ | ⟨e, he, hk, hh⟩
  · exact refuses_yield hrep
      (judgeYield_otherLock (s := heard k st s) hr hlate (holding_of_lockOf (s := heard k st s) hs.positions hl hk) hw)
  · obtain ⟨n, hn⟩ := List.mem_iff_getElem?.1 he
    exact refuses_yield hrep ((judgeYield_waiter (s := heard k st s) hr hlate
      (holding_of_waiter (s := heard k st s) hs.positions he hk)
      (waiting_of_waitsOf (s := heard k st s) hs.positions hn hk)).trans (if_neg hh))

section
variable (hs : Coherent s) (hrep : Reports s k st) (hr : s.named h = some r) (hlate : ¬ r.strandedBy k = true)
  (hk : k ∉ positions s)
include hrep hr hlate hk

/-- R142 cases 6 to 8 are those of a slot without a position. -/
theorem judgeRequest_yield_free : judgeRequest k (.yield h) (heard k st s) =
    if r.state = .promised ∧ r.collector = some k then (parkRecord h.idx (heard k st s), .released)
    else if r.state = .reserved ∧ r.releaser = some k then (retire h.idx .cancelled (heard k st s), .released)
    else (heard k st s, .notYours) :=
  (judgeRequest_yield hrep).trans (judgeYield_free (s := heard k st s) hr hlate hk)

include hs

/-- A promise given up: the record stays in its stack for another collector. -/
theorem yield_promise (hst : r.state = .promised) (hc : r.collector = some k) :
    Takes s (.yield st h) k st .released [.handoff] fun u =>
      SameLocks s u ∧ SameEntriesBut h.idx s u ∧ SameCounts s u ∧
      u.entry h.idx = { s.entry h.idx with
        live := some { r with state := .parked, collector := none, buried := false } } := by
  have hlive := live_of_named hr
  have ho := parkRecord_only h.idx (heard k st s)
  have hsf : r.strandedFrom = none := by
    obtain ⟨hsf, -⟩ := hs.fields h.idx r hlive
    simpa [hst] using hsf
  refine takes_of_judge s rfl hrep.1 hrep.2.2 ((judgeRequest_yield_free hrep hr hlate hk).trans (if_pos ⟨hst, hc⟩))
    (ho.mono (by decide)) (ho.line (by decide)) (mark_congr (ho.lock (by decide)))
    (by rw [ho.lock (by decide)]; exact ⟨rfl, rfl, rfl⟩) ?_
  simp only [SameLocks, SameEntriesBut, SameCounts, setMark_lockOf, setVerdict_lockOf, setMark_waitsOf,
    setVerdict_waitsOf, setMark_entry, setVerdict_entry, setMark_handoff, setVerdict_handoff]
  refine ⟨fun d => ⟨lockOf_congr (ho.lock (by decide)) d, waitsOf_congr (ho.lock (by decide)) d⟩, fun j hj => ?_,
    parkRecord_counts (heard k st s) h.idx, ?_⟩
  · rw [parkRecord_entry, if_neg hj.symm, heard_entry]
  · rw [parkRecord_entry, if_pos rfl, heard_live, hlive, Option.map_some, ← hsf]
    rfl

/-- A reservation given up: the record is retired CANCELLED. -/
theorem yield_reservation (hst : r.state = .reserved) (hc : r.releaser = some k) :
    Takes s (.yield st h) k st .released [.handoff] fun u =>
      SameLocks s u ∧ SameEntriesBut h.idx s u ∧
      u.entry h.idx = ⟨h.gen + 1, none, some ⟨h, .cancelled, r.tag, r.column⟩⟩ ∧
      u.handoff.freeCount = s.handoff.freeCount + 1 ∧
      u.handoff.order = s.handoff.order.filter (· ≠ h.idx) := by
  have hlive := live_of_named hr
  have hat := handleAt_of_named hr
  have hj := (judgeRequest_yield_free hrep hr hlate hk).trans
    ((if_neg fun hp => by simp [hst] at hp).trans (if_pos ⟨hst, hc⟩))
  obtain ⟨u, hu, ho, hentry, hfree, horder, hlock⟩ := retire_eq (heard k st s) (i := h.idx) hlive .cancelled
  have hlocks := retire_sameLocks (coherent_heard hs k st) (h := h) hr hst hc hk .cancelled
  rw [if_neg (by decide)] at hu
  rw [hu] at hj hlocks
  refine takes_of_judge s rfl hrep.1 hrep.2.2 hj (ho.mono (by decide)) (ho.line (by decide))
    (fun j => (mark_congr hlock j).trans rfl) (by rw [hlock]; exact ⟨rfl, rfl, rfl⟩) ?_
  simp only [SameLocks, SameEntriesBut, setMark_lockOf, setVerdict_lockOf, setMark_waitsOf, setVerdict_waitsOf,
    setMark_entry, setVerdict_entry, setMark_handoff, setVerdict_handoff]
  refine ⟨hlocks, fun j hj => ?_, ?_, hfree, horder⟩
  · rw [hentry, if_neg hj.symm, heard_entry]
  · rw [hentry, if_pos rfl, heard_handleAt, hat, heard_entry, (named_eq_some.1 hr).1]

end

/-! ### YIELD of SURVEY as a command (R143) -/

theorem judgeRequest_yieldSurvey (hrep : Reports s k st) :
    judgeRequest k .yieldSurvey (heard k st s) = judgeYieldSurvey k (heard k st s) := judge_heard s hrep rfl nofun

theorem refuses_yieldSurvey (hrep : Reports s k st) (hno : ∀ c, ∀ l ∈ s.lockOf c, l.holder = k → l.hold ≠ .survey) :
    Refuses s (.yieldSurvey st) k st .notYours := by
  refine refuses_of_judge s rfl hrep.1 hrep.2.2 ((judgeRequest_yieldSurvey hrep).trans ?_)
  cases hh : (heard k st s).holding k with
  | none => exact judgeYieldSurvey_free hh
  | some p =>
    obtain ⟨hl, hk⟩ := holding_eq_some hh
    exact (judgeYieldSurvey_holder hh).trans (if_neg (hno p.1 p.2 hl hk))

theorem yield_survey (hs : Coherent s) (hrep : Reports s k st) (hl : s.lockOf c = some l) (hk : l.holder = k)
    (hw : l.hold = .survey) : Takes s (.yieldSurvey st) k st .released [] fun u =>
      u.lockOf c = none ∧ u.waitsOf c = s.waitsOf c ∧ SameLocksBut c s u := by
  have hj := (judgeYieldSurvey_holder (holding_of_lockOf (s := heard k st s) hs.positions hl hk)).trans (if_pos hw)
  refine takes_of_judge s rfl hrep.1 hrep.2.2 ((judgeRequest_yieldSurvey hrep).trans hj) (endLock_only c _) rfl
    (fun _ => rfl) ⟨rfl, rfl, rfl⟩ ⟨?_, rfl, fun d hd => ⟨?_, rfl⟩⟩
  · rw [setMark_lockOf, setVerdict_lockOf, endLock_lockOf, if_pos rfl]
  · rw [setMark_lockOf, setVerdict_lockOf, endLock_lockOf, if_neg hd.symm, heard_lockOf]

/-- Settles O48: the cases of R142 in their order, each in the state heard, and the two of R143. -/
theorem yieldJudged : Obligations.YieldJudged := by
  intro s k st hs hrep
  refine ⟨?_, fun c l hl hk hw => yield_survey hs hrep hl hk hw, refuses_yieldSurvey hrep⟩
  intro h cmd
  refine ⟨fun hn => refuses_yield hrep (judgeYield_stale (s := heard k st s) hn), ?_⟩
  intro r hr c late
  have hiff : r.strandedBy k = true ↔ late := strandedBy_iff
  refine ⟨fun hl => refuses_yield hrep (judgeYield_late (s := heard k st s) hr (hiff.2 hl)), fun hl => ?_⟩
  have hlate := mt hiff.1 hl
  refine ⟨fun w hlock => yield_lock hs hrep hr hlate hlock rfl rfl, fun e he hk hh => yield_wait hs hrep hr hlate he hk hh,
    fun d hpos => yield_other hs hrep hr hlate hpos, fun hk => ⟨yield_promise hs hrep hr hlate hk,
      yield_reservation hs hrep hr hlate hk, fun hp hres => ?_⟩⟩
  exact refuses_of_judge s rfl hrep.1 hrep.2.2
    ((judgeRequest_yield_free hrep hr hlate hk).trans ((if_neg hp).trans (if_neg hres)))

end Sys2Proof.Machine
end

section
/-! What is answered before any owner (R118, R131, R132, R172): HELD for a QUIET slot, BUSY for a waiter, BAD_REQUEST for what
cannot be read, and an answer without a request. -/

namespace Sys2Proof.Machine

open Sys2Proof Sys2Proof.Safety

variable {s u : State} {c : Col} {k : Slot} {kind : CallKind} {st : Status} {q : Request} {o : Option Request} {v : Verdict}
  {bytes : List Byte} {bad : Bool} {e : WaitEntry}

/-! ### Received bytes (R131, R172) -/

theorem word16_toNat (hi lo : Byte) : (word16 hi lo).toNat = hi.toNat * 256 + lo.toNat := by
  rw [word16, BitVec.toNat_append, ← Nat.shiftLeft_add_eq_or_of_lt lo.isLt, Nat.shiftLeft_eq]

theorem word32_eq_ofNat (a b c d : Byte) : word32 a b c d =
    BitVec.ofNat 32 (((a.toNat * 256 + b.toNat) * 256 + c.toNat) * 256 + d.toNat) := by
  apply BitVec.eq_of_toNat_eq
  have ha := a.isLt
  have hb := b.isLt
  have hc := c.isLt
  have hd := d.isLt
  rw [word32, BitVec.toNat_append, BitVec.toNat_append, BitVec.toNat_append, ← Nat.shiftLeft_add_eq_or_of_lt hb,
    ← Nat.shiftLeft_add_eq_or_of_lt hc, ← Nat.shiftLeft_add_eq_or_of_lt hd, BitVec.toNat_ofNat]
  simp only [Nat.shiftLeft_eq]
  omega

theorem readStatus_eq (bytes : List Byte) : readStatus bytes = statusIn bytes := by
  rw [readStatus, word32At, word32_eq_ofNat]
  rfl

/-- R171: the line handles above 03FFh name no handle. -/
theorem readLineHandle_none {w : BitVec 16} (h : 0x3FF < w.toNat) : readLineHandle w = none := dif_neg (by omega)

/-- R131: what cannot be read by R172's layout is read as no request. -/
theorem readRequest_unreadable (h : Unreadable bytes) : readRequest bytes (byteAt bytes 1).toNat = .bad := by
  obtain ⟨-, hbad⟩ := h
  simp only [List.mem_cons, List.not_mem_nil, or_false, exists_eq_or_imp, exists_eq_left] at hbad
  have hat : ∀ i, bytes.getD i 0 = byteAt bytes i := fun _ => rfl
  have h11 : (word16At bytes 11).toNat = (byteAt bytes 11).toNat * 256 + (byteAt bytes 12).toNat := word16_toNat ..
  have h12 : (word16At bytes 12).toNat = (byteAt bytes 12).toNat * 256 + (byteAt bytes 13).toNat := word16_toNat ..
  have hnone : ∀ {w : BitVec 16}, w = noLineHandle → w.toNat = 0xFFFF := by rintro _ rfl; rfl
  have hhandle : ∀ f : Handle → Request, 0x3FF < (word16At bytes 11).toNat →
      ((readLineHandle (word16At bytes 11)).map f).getD .bad = .bad := fun f h => by rw [readLineHandle_none h]; rfl
  simp only [hat, Nat.reduceAdd] at hbad
  unfold readRequest
  dsimp only
  split
  case h_1 | h_2 | h_3 | h_7 => exact if_neg (by omega)
  case h_4 =>
    split
    · split
      · next hw => have := hnone hw; omega
      · rw [readLineHandle_none (by omega)]
    · rfl
  case h_5 | h_6 =>
    split
    · exact hhandle _ (by omega)
    · rfl
  case h_8 =>
    split
    · split
      · next hw => have := hnone hw; omega
      · exact hhandle _ (by omega)
    · rfl
  case h_9 => exact if_neg (by simp only [Config.maxSurvey]; omega)
  case h_10 => rfl

/-- R131: an answer that passes the line checks and cannot be read carries a request all the same. -/
theorem readAnswer_unreadable (hs : ¬ Spoiled k bytes false) (h : Unreadable bytes) :
    readAnswer k bytes false = .valid (statusIn bytes) (some .bad) := by
  have hlen : (byteAt bytes 1).toNat ≠ 11 := by
    have : 12 ≤ (byteAt bytes 1).toNat := h.1
    omega
  refine (if_neg hs).trans ?_
  rw [if_neg hlen, readStatus_eq, readRequest_unreadable h]

/-- What the received bytes of a valid answer do: it is taken, and the line goes on. -/
theorem exec_answerEnd (hh : Hears s k kind) (hread : readAnswer k bytes bad = .valid st o) :
    ∃ x, x.slot = k ∧ x.kind = kind ∧ exec (.answerEnd bytes bad) s = .next (afterExchange k (takeAnswer x st o s)) := by
  obtain ⟨x, hx, rfl, hkind, hr⟩ := hh
  exact ⟨x, rfl, hkind, congrArg Host.Outcome.next (receiveAnswer_valid hx hr hread)⟩

/-! ### Answers that change no table -/

/-- A command that takes an answer as a verdict and changes nothing else refuses. -/
theorem refuses_of_exec {i : Instr} (hh : Hears s k .regular)
    (he : exec i s = .next (afterExchange k ((setVerdict k (some v) (heard k st s)).setMark k none))) :
    Refuses s i k st v := by
  refine ⟨_, _, he, afterExchange_goesOn _ (slot_of_hears s hh rfl), ⟨?_, fun j hj => ?_, rfl, ?_, fun j hj => ?_,
    rfl, rfl, rfl⟩, ?_, fun d => ⟨rfl, rfl⟩⟩
  · rw [setMark_slot, setVerdict, setSlot_slot_self, heard_slot_self]
    rfl
  · rw [setMark_slot, setVerdict, setSlot_slot_ne _ hj, heard_slot, if_neg hj.symm]
  · rw [setMark_mark_self]
  · rw [setMark_mark_ne _ hj, setVerdict_mark, heard_mark]
  · exact ((heard_only s k st).mono (by decide)).trans (((setVerdict_only k _ _).mono (by decide)).trans
      ((setMark_only k none _).mono (by decide)))

/-- R131: BAD_REQUEST for an answer whose request cannot be read. -/
theorem refuses_unreadable (hh : Hears s k .regular) (hc : Sound s k (statusIn bytes)) (hs : ¬ Spoiled k bytes false)
    (h : Unreadable bytes) : Refuses s (.answerEnd bytes false) k (statusIn bytes) .badRequest := by
  obtain ⟨x, hk, hkind, he⟩ := exec_answerEnd hh (readAnswer_unreadable hs h)
  rw [takeAnswer, hkind, hk] at he
  dsimp only at he
  rw [takeRegular_request s hc] at he
  exact refuses_of_exec hh he

/-- R118, R133: an answer without a request leaves no verdict, and keeps the expired mark. -/
theorem exec_plain (hh : Hears s k .regular) (hc : Sound s k st) :
    exec (.answerEnd (encodeAnswer k st none) false) s = .next (afterExchange k (heard k st s)) := by
  obtain ⟨x, hk, hkind, he⟩ := exec_answerEnd hh (readAnswer_plain k st)
  have hreg : takeRegular k st none s = heard k st s := by
    rw [takeRegular, (takeCondition_sound s hc).1, takeStatus_eq]
  rw [takeAnswer, hkind, hk] at he
  dsimp only at he
  rwa [hreg] at he

/-- R119: on a probe, an answer without a JOIN is not taken. -/
theorem exec_probe_unheard (hh : Hears s k .probe) (hread : readAnswer k bytes bad = .valid st o)
    (ho : takeProbe k st o s = s) : ∃ t, exec (.answerEnd bytes bad) s = .next t ∧ LineGoesOn s t := by
  obtain ⟨x, hk, hkind, he⟩ := exec_answerEnd hh hread
  rw [takeAnswer, hkind, hk] at he
  dsimp only at he
  rw [ho] at he
  exact ⟨_, he, afterExchange_goesOn s (slot_of_hears s hh rfl)⟩

/-! ### The tests of R131 and R132 -/

theorem judgeRequest_unreadable (hq : q.unreadable = true) : judgeRequest k q s = (s, .badRequest) := if_pos hq

theorem judgeRequest_quiet (hq : q.unreadable = false) (hm : (s.slot k).mode = .quiet) (hj : q.isJoin = false) :
    judgeRequest k q s = (s, .held) := by
  rw [judgeRequest, if_neg (by simp [hq]), if_pos ⟨hm, by simp [hj]⟩]

theorem judgeRequest_waiter (hq : q.unreadable = false) (hm : (s.slot k).mode ≠ .quiet) (hb : q.busyForWaiter = true)
    (hw : ∃ c, ∃ e ∈ s.waitsOf c, e.slot = k) : judgeRequest k q s = (s, .busy) := by
  obtain ⟨c, e, he, hk⟩ := hw
  have hwait : (s.waiting k).isSome := by
    rw [Option.isSome_iff_ne_none]
    exact fun hn => waiting_eq_none.1 hn c e he hk
  rw [judgeRequest, if_neg (by simp [hq]), if_neg fun h => hm h.1, if_pos ⟨hb, hwait⟩]

theorem readable_of_wellFormed (hq : q.wellFormed = true) : q.unreadable = false := by
  cases q with
  | survey col tags => simpa [Request.wellFormed, Request.unreadable] using hq
  | bad => cases hq
  | _ => rfl

theorem isJoin_eq_false (hq : ∀ id, q ≠ .join id) : q.isJoin = false := by
  cases q with
  | join id => exact absurd rfl (hq id)
  | _ => rfl

/-- Settles O50: the tests of R131 and R132 in the state heard, and received answers by what they are read as. -/
theorem quietAndWaitingSlots : Obligations.QuietAndWaitingSlots := by
  intro s k st
  refine ⟨fun hh hc => ?_, fun hh => ⟨?_, fun bytes hs hu => ?_⟩⟩
  · have hmode : ((heard k st s).slot k).mode = (s.slot k).mode := by rw [heard_slot_self]; rfl
    refine ⟨fun i q hi hq hm hj => ?_, fun hm hw => ?_, fun col tags ht => ?_, ?_, ?_⟩
    · exact refuses_of_judge s hi hh hc
        (judgeRequest_quiet (readable_of_wellFormed hq) (hmode.trans hm) (isJoin_eq_false hj))
    · have busy : ∀ {i q}, requestOf i = some (st, q) → q.unreadable = false → q.busyForWaiter = true →
          Refuses s i k st .busy := fun hi hq hb =>
        refuses_of_judge s hi hh hc (judgeRequest_waiter (s := heard k st s) hq (hmode ▸ hm) hb hw)
      refine ⟨fun t => ⟨busy rfl rfl rfl, busy rfl rfl rfl⟩, fun h => ⟨busy rfl rfl rfl, busy rfl rfl rfl⟩,
        fun col tags ht => busy rfl (decide_eq_false ?_) rfl⟩
      exact Nat.not_lt.2 ht
    · exact refuses_of_judge s rfl hh hc (judgeRequest_unreadable (decide_eq_true ht))
    · rintro bytes hs hu rfl
      exact refuses_unreadable hh hc hs hu
    · exact ⟨_, exec_plain hh hc, afterExchange_goesOn _ (slot_of_hears s hh rfl)⟩
  · exact exec_probe_unheard hh (readAnswer_plain k st) rfl
  · exact exec_probe_unheard hh (readAnswer_unreadable hs hu) (takeProbe_other nofun)

end Sys2Proof.Machine
end

section
/-! The host commands of the survey unit (R150, R155, R156) and CLEAR_LOST (R146). -/

namespace Sys2Proof.Machine

open Sys2Proof Sys2Proof.Safety

variable {s : State} {c d : Col} {k : Slot} {col b : Byte} {tags : List Tag}

/-! ### The survey box (R155) -/

/-- Settles O14: the entry's presence byte, its two numbers and its list of tags, or the box emptied. -/
theorem surveyBoxReadAndCleared : Obligations.SurveyBoxReadAndCleared := by
  intro s hp
  have read : ∀ {u a}, ownSurveyRead s = (u, a) → exec .surveyRead s = .next (commandTaken s u 0 a) :=
    next_taken hp (by decide) ownSurveyRead_blind
  refine ⟨fun hn => read ?_, fun b hb => read ?_, next_taken hp (by decide) ownSurveyClear_blind rfl⟩
  · rw [ownSurveyRead, hn]; rfl
  · rw [ownSurveyRead, hb]; rfl

/-! ### CLEAR_LOST (R146) -/

theorem ownClearLost_refused (hk : b.toNat = k.val) (h : (s.slot k).link ≠ .lost) : ownClearLost b s = answer .wrongState s := by
  unfold ownClearLost
  rw [readSlotNo_eq hk]
  dsimp only
  split
  · rfl
  · rfl
  · contradiction

/-- Settles O16: a slot number out of range, a slot that is not LOST, and a LOST slot vacated. -/
theorem clearLostJudged : Obligations.ClearLostJudged := by
  intro s b hp
  have taken : ∀ {u a}, ownClearLost b s = (u, a) → exec (.clearLost b) s = .next (commandTaken s u 1 a) :=
    next_taken hp (by decide) (ownClearLost_blind b)
  refine ⟨fun h => taken ?_, fun k hk => ⟨fun h => taken (ownClearLost_refused hk h), fun h => taken ?_⟩⟩
  · rw [ownClearLost, readSlotNo_none h]; rfl
  · simp only [ownClearLost, readSlotNo_eq hk, h]; rfl

/-! ### SURVEY_ASK (R150) -/

theorem ownSurveyAsk_range (h : 15 < col.toNat ∨ 63 < b.toNat) : ownSurveyAsk col b s = answer .range s := by
  unfold ownSurveyAsk
  split
  · next c k hc hk =>
    have := readCol_some hc
    have := readSlotNo_some hk
    omega
  · rfl

/-- The state in which a slot has been named surveyor of a column (R150). -/
def surveyorNamed (c : Col) (k : Slot) (s : State) : State :=
  (match s.surveyor c with
    | none => s
    | some old => endSurveyLockOf c old s).setSurveyor c (some k)

theorem ownSurveyAsk_inRange (hc : col.toNat = c.val) (hk : b.toNat = k.val) : ownSurveyAsk col b s =
    if (s.col c).service ≠ .suspect ∨ s.isLive k = false then answer .wrongState s
    else if s.surveyor c = some k then answer .ok s else answer .ok (surveyorNamed c k s) := by
  unfold ownSurveyAsk surveyorNamed
  rw [readCol_eq hc, readSlotNo_eq hk]
  dsimp only
  cases s.surveyor c <;> simp only [ite_or, Option.some.injEq, reduceCtorEq, if_false]

theorem endSurveyLockOf_lock (c : Col) (k : Slot) (s : State) :
    (endSurveyLockOf c k s).lock = { s.lock with locks := (endSurveyLockOf c k s).lock.locks } := by
  unfold endSurveyLockOf
  split <;> rfl

/-- R65: the SURVEY lock of the slot ends, and no other lock. -/
theorem endSurveyLockOf_lockOf (c d : Col) (k : Slot) (s : State) : (endSurveyLockOf c k s).lockOf d =
    if c = d ∧ ∃ l ∈ s.lockOf c, l.holder = k ∧ l.hold = .survey then none else s.lockOf d := by
  have hany : ((s.lockOf c).any fun l => l.holder = k && l.hold = .survey) = true ↔
      ∃ l ∈ s.lockOf c, l.holder = k ∧ l.hold = .survey := by simp [Option.any_eq_true]
  simp only [endSurveyLockOf, hany]
  split
  · next h => simp only [endLock_lockOf, h, and_true]
  · next h => simp only [h, and_false, if_false]

/-- The state before the new surveyor is written: the old one's SURVEY lock has ended, if it held one. -/
theorem surveyorNamed_eq (c : Col) (k : Slot) (s : State) : ∃ v, surveyorNamed c k s = v.setSurveyor c (some k) ∧
    OnlyChanges [.lock] s v ∧ v.lock = { s.lock with locks := v.lock.locks } ∧ ∀ d, v.lockOf d =
      if c = d ∧ ∃ l ∈ s.lockOf c, s.surveyor c = some l.holder ∧ l.hold = .survey then none else s.lockOf d := by
  unfold surveyorNamed
  cases s.surveyor c with
  | none => exact ⟨s, rfl, .refl _ s, rfl, fun d => by simp⟩
  | some old =>
    refine ⟨_, rfl, endSurveyLockOf_only c old s, endSurveyLockOf_lock c old s, fun d => ?_⟩
    simp only [endSurveyLockOf_lockOf, Option.some.injEq, eq_comm (a := old)]

/-- Settles O27: the checks in R150's order, and a new surveyor written where the old one's lock has ended. -/
theorem surveyAskJudged : Obligations.SurveyAskJudged := by
  intro s col b hp cmd
  have taken : ∀ {u a}, ownSurveyAsk col b s = (u, a) → exec cmd s = .next (commandTaken s u 2 a) :=
    next_taken hp (by decide) (ownSurveyAsk_blind col b)
  refine ⟨fun h => taken (ownSurveyAsk_range h), fun c k hc hk => ?_⟩
  have own := ownSurveyAsk_inRange (s := s) hc hk
  refine ⟨fun h => taken (own.trans (if_pos h)), fun hx hl => ?_⟩
  rw [if_neg (by simp [hx, hl])] at own
  refine ⟨fun h => taken (own.trans (if_pos h)), fun h => ?_⟩
  obtain ⟨v, hv, ho, hlock, hlocks⟩ := surveyorNamed_eq c k s
  rw [if_neg h, hv] at own
  have hsurvey := ho.survey (by decide)
  refine ⟨v.setSurveyor c (some k), taken own, (ho.mono (by decide)).trans ((setSurveyor_only c _ v).mono (by decide)),
    setSurveyor_surveyor_self v c _, fun d hd => ?_, ?_, hlock, fun d hd => ?_, ?_⟩
  · rw [setSurveyor_surveyor_ne v hd, surveyor_congr hsurvey]
  · rw [setSurveyor_box, hsurvey]
  · rw [setSurveyor_lockOf, hlocks, if_neg fun h => hd h.1.symm]
  · rw [setSurveyor_lockOf, hlocks]
    simp only [true_and]

/-! ### RESTACK's checks (R156) -/

theorem tagged_isNone_iff {tag : Tag} (h0 : tag ≠ 0) : (s.tagged tag).isNone = true ↔ ∀ i, ∀ r ∈ s.live i, r.tag ≠ tag := by
  rw [Option.isNone_iff_eq_none, tagged_eq_none, or_iff_right h0]

/-- R156: the listed tags that no live record carries. -/
theorem unknownTags_eq (h0 : (0 : Tag) ∉ tags) :
    s.unknownTags tags = tags.filter fun tag => decide (∀ i, ∀ r ∈ s.live i, r.tag ≠ tag) := by
  refine List.filter_congr fun tag ht => Bool.eq_iff_iff.2 ?_
  rw [tagged_isNone_iff fun h => h0 (h ▸ ht), decide_eq_true_iff]

/-- R156: a listed tag stands for a record of another column. -/
theorem elsewhere_iff (hu : TagsUnique s) :
    (tags.any fun tag => (s.tagged tag).any fun p => p.2.column ≠ c) = true ↔
      ∃ tag ∈ tags, ∃ i r, s.live i = some r ∧ r.tag = tag ∧ r.column ≠ c := by
  simp only [List.any_eq_true, Option.any_eq_true, decide_eq_true_eq]
  refine exists_congr fun tag => and_congr_right fun ht => ⟨?_, ?_⟩
  · rintro ⟨⟨i, r⟩, hw, hc⟩
    obtain ⟨-, hr, hrt⟩ := tagged_eq_some hw
    exact ⟨i, r, hr, hrt, hc⟩
  · rintro ⟨i, r, hr, hrt, hc⟩
    exact ⟨(i, r), tagged_of_live hu hr hrt, hc⟩

/-- R156: the order of checks of RESTACK. -/
theorem ownRestack_inRange (hc : col.toNat = c.val) : ownRestack col tags s =
    if (s.col c).capacity < tags.length ∨ (0 : Tag) ∈ tags ∨ ¬ tags.Nodup then answer .range s
    else if ¬ ((s.col c).service = .suspect ∨ (s.col c).service = .fault) then answer .wrongState s
    else if (s.lockOf c).isSome then answer .busy s
    else if tags.any fun tag => (s.tagged tag).any fun p => p.2.column ≠ c then answer .conflict s
    else if s.handoff.freeCount < (s.unknownTags tags).length then answer .full s
    else applyRestack c tags s := by
  simp only [ownRestack, readCol_eq hc, ne_eq, not_or]

/-- Settles O28: the checks of R156 in their order. -/
theorem restackRefusals : Obligations.RestackRefusals := by
  intro s col tags hp hlen cmd n
  have taken : ∀ {u a}, ownRestack col tags s = (u, a) → exec cmd s = .next (commandTaken s u n a) :=
    next_taken hp (by omega) (ownRestack_blind col tags)
  refine ⟨fun h => taken ?_, ?_⟩
  · rw [ownRestack, readCol_none h]; rfl
  intro c hc bad repairable elsewhere unknown
  have own := ownRestack_inRange (s := s) (tags := tags) hc
  refine ⟨fun hb => taken (own.trans (if_pos hb)), fun hb hr => taken ?_, fun hb hr hl => taken ?_, fun hu hb hr hl => ?_⟩
  · rw [own, if_neg hb, if_pos hr]; rfl
  · rw [own, if_neg hb, if_neg (not_not.2 hr), if_pos hl]; rfl
  have h0 : (0 : Tag) ∉ tags := fun h => hb (.inr (.inl h))
  rw [if_neg hb, if_neg (not_not.2 hr), if_neg (by simp [hl]), unknownTags_eq h0] at own
  simp only [elsewhere_iff hu] at own
  refine ⟨fun he => taken (own.trans (if_pos he)), fun he hf => taken ?_, fun he hf => ?_⟩
  · rw [own, if_neg he, if_pos hf]; rfl
  · rw [if_neg he, if_neg (Nat.not_lt.2 hf)] at own
    exact ⟨_, _, taken own⟩

end Sys2Proof.Machine
end

section
/-! The loss of a slot (R118, R145, R147): the lock it holds is broken, and what else it has is given up. -/

namespace Sys2Proof.Machine

open Sys2Proof Sys2Proof.Safety

variable {s u : State} {c d : Col} {i j : RecIdx} {k : Slot} {h : Handle} {r : Record} {e : WaitEntry} {w : Work} {l : Lock}
  {o : Retirement} {x : Exchange}

/-! ### Retirements in turn (R34) -/

/-- R34: an index whose record, if it holds one, has been retired. -/
def Entry.retired (i : RecIdx) (o : Retirement) (e : Entry) : Entry :=
  match e.live with
  | none => e
  | some r => ⟨e.gen + 1, none, some ⟨⟨i, e.gen⟩, o, r.tag, r.column⟩⟩

theorem retired_of_live (hr : s.live i = some r) : (s.entry i).retired i o =
    ⟨(s.entry i).gen + 1, none, some ⟨s.handleAt i, o, r.tag, r.column⟩⟩ := by
  rw [Entry.retired, ← live_def, hr]
  rfl

theorem retire_entry_eq (i j : RecIdx) (o : Retirement) (s : State) :
    (retire i o s).entry j = if i = j then (s.entry j).retired i o else s.entry j := by
  cases hr : s.live i with
  | none =>
    rw [retire_none s hr]
    split
    · next hij => subst hij; rw [Entry.retired, ← live_def, hr]
    · rfl
  | some r =>
    rw [retire_entry s hr]
    split
    · next hij => subst hij; rw [retired_of_live hr]
    · rfl

theorem retireAll_entry {l : List RecIdx} (hl : l.Nodup) (o : Retirement) (s : State) (j : RecIdx) :
    (forEach l (fun i => retire i o) s).entry j = if j ∈ l then (s.entry j).retired j o else s.entry j :=
  forEach_entry (g := fun j e => e.retired j o) (fun i u j => retire_entry_eq i j o u) hl s j

/-- R36: a retirement that is no delivery leaves the manifest. -/
theorem retire_only_undelivered (ho : o ≠ .delivered) (i : RecIdx) (s : State) :
    OnlyChanges [.handoff, .lock] s (retire i o s) := by
  cases hr : s.live i with
  | none => rw [retire_none s hr]; exact .refl _ s
  | some r =>
    obtain ⟨u, hu, honly, -⟩ := retire_eq s hr o
    rwa [hu, if_neg ho]

/-- R34: where nobody waits for the records of some indices, their retirement leaves the wait lists. -/
theorem retireAll_waitsOf {l : List RecIdx} (o : Retirement) (h : ∀ i ∈ l, ∀ d, ∀ e ∈ s.waitsOf d, e.handle.idx ≠ i)
    (d : Col) : (forEach l (fun i => retire i o) s).waitsOf d = s.waitsOf d := by
  induction l generalizing s with
  | nil => rfl
  | cons i l ih =>
    have hi : ∀ d, (retire i o s).waitsOf d = s.waitsOf d := fun d => by
      cases hr : s.live i with
      | none => rw [retire_none s hr]
      | some r =>
        rw [retire_waitsOf s hr]
        split
        · exact List.filter_eq_self.2 fun e he => decide_eq_true fun heq =>
            h i List.mem_cons_self d e he (congrArg Handle.idx heq)
        · rfl
    refine (ih fun j hj d e he => ?_).trans (hi d)
    rw [hi] at he
    exact h j (List.mem_cons_of_mem i hj) d e he

/-! ### The lock of a slot broken (R145, R147) -/

/-- A slot holds the lock of a column. -/
abbrev HoldsLock (s : State) (k : Slot) (c : Col) : Prop := ∃ l ∈ s.lockOf c, l.holder = k

/-- R147: a slot holds the lock of a column for work, which is stranded if the slot is lost. -/
abbrev HoldsWork (s : State) (k : Slot) (c : Col) : Prop := ∃ l ∈ s.lockOf c, l.holder = k ∧ l.hold ≠ .survey

/-- A record is worked on for a slot: PLACING with that releaser, or LIFTING with that collector (R27, R31). -/
def Record.workedBy (k : Slot) (w : Work) (r : Record) : Prop :=
  match w with
  | .place => r.state = .placing ∧ r.releaser = some k
  | .lift => r.state = .lifting ∧ r.collector = some k

/-- The lock that a slot holds, if it holds one, is broken. -/
def breakHeld (k : Slot) (s : State) : State :=
  match s.holding k with
  | some (c, _) => breakLock c s
  | none => s

theorem loseHoldings_eq (k : Slot) (s : State) : loseHoldings k s = giveUp k (breakHeld k s) := by
  unfold breakHeld
  cases hh : s.holding k with
  | none => exact loseHoldings_of_none hh
  | some p => exact loseHoldings_of_holder hh

theorem breakHeld_free (hh : ∀ c, ¬ HoldsLock s k c) : breakHeld k s = s := by
  have hn : s.holding k = none := holding_eq_none.2 fun c l hl hk => hh c ⟨l, hl, hk⟩
  rw [breakHeld, hn]

section
variable (hp : OnePosition s) (hl : s.lockOf c = some l) (hk : l.holder = k)
include hp hl hk

theorem holdsLock_iff : HoldsLock s k d ↔ c = d := by
  refine ⟨?_, ?_⟩
  · rintro ⟨m, hm, hmk⟩
    exact positions_column hp (holder_mem hl hk) (holder_mem hm hmk)
  · rintro rfl
    exact ⟨l, hl, hk⟩

theorem holdsWork_iff : HoldsWork s k d ↔ c = d ∧ l.hold ≠ .survey := by
  refine ⟨?_, ?_⟩
  · rintro ⟨m, hm, hmk, hw⟩
    obtain rfl := (holdsLock_iff hp hl hk).1 ⟨m, hm, hmk⟩
    cases hl.symm.trans hm
    exact ⟨rfl, hw⟩
  · rintro ⟨rfl, hw⟩
    exact ⟨l, hl, hk, hw⟩

theorem breakHeld_survey (hw : l.hold = .survey) : breakHeld k s = endLock c s := by
  simp only [breakHeld, holding_of_lockOf hp hl hk, breakLock, hl, hw]

theorem breakHeld_work (hw : l.hold = .work w h) : breakHeld k s = strand c k w h s := by
  simp only [breakHeld, holding_of_lockOf hp hl hk, breakLock, hl, hw, hk]
end

/-- R60, R31: who works on a record holds the lock of its column for it. -/
theorem lock_of_workedBy (hs : Coherent s) (hr : s.live i = some r) (hw : r.workedBy k w) :
    ∃ l, s.lockOf r.column = some l ∧ l.hold = .work w (s.handleAt i) ∧ l.holder = k := by
  obtain ⟨hplace, hlift⟩ := hs.work i r hr
  cases w with
  | place =>
    obtain ⟨l, hl, hlw, hlk⟩ := hplace hw.1
    exact ⟨l, hl, hlw, Option.some.inj (hlk.symm.trans hw.2)⟩
  | lift =>
    obtain ⟨⟨l, hl, hlw, hlk⟩, -⟩ := hlift hw.1
    exact ⟨l, hl, hlw, Option.some.inj (hlk.symm.trans hw.2)⟩

/-- R60, R31: the record that a lock is held for is worked on for its holder. -/
theorem workedBy_of_lock (hs : Coherent s) (hl : s.lockOf c = some l) (hk : l.holder = k) (hw : l.hold = .work w h) :
    inService s c ∧ ∃ r, s.recIn c h = some r ∧ r.workedBy k w ∧ r.buried = false := by
  obtain ⟨hin, r, hr, hrc, hst⟩ := (hs.locks c l hl).1 h (by rw [hw]; rfl)
  have hrin := recIn_eq_some.2 ⟨hr, hrc⟩
  obtain ⟨hplace, hlift⟩ := hs.work h.idx r (live_of_named hr)
  rw [hrc] at hplace hlift
  have hholder : ∀ m ∈ s.lockOf c, m.holder = k := fun m hm => by
    cases hl.symm.trans hm
    exact hk
  rw [hw] at hst
  refine ⟨hin, r, hrin, ?_⟩
  rcases hst with ⟨hst, hh⟩ | ⟨hst, hh⟩ <;> cases hh
  · obtain ⟨m, hm, -, hmk⟩ := hplace hst
    exact ⟨⟨hst, hholder m hm ▸ hmk⟩, worked_not_buried (w := .place) hs hrin hst⟩
  · obtain ⟨⟨m, hm, -, hmk⟩, -⟩ := hlift hst
    exact ⟨⟨hst, hholder m hm ▸ hmk⟩, worked_not_buried (w := .lift) hs hrin hst⟩

/-- R145, R147: `u` is `s` after the lock of slot `k`, if it holds one, has been broken. -/
structure LockBroken (k : Slot) (s u : State) : Prop where
  rest : OnlyChanges [.notice, .columns, .handoff, .lock] s u
  marks : ∀ j, u.mark j = s.mark j
  locks : ∀ d, u.lockOf d = if HoldsLock s k d then none else s.lockOf d
  waits : ∀ d, u.waitsOf d = if HoldsWork s k d then [] else s.waitsOf d
  suspect : ∀ d, HoldsWork s k d → (u.col d).service = .suspect ∧
    (u.col d).stranded = ((s.lockOf d).bind (·.hold.handle)) ∧ (u.col d).strandingId = (s.slot k).robotId ∧
    (u.col d).prior.toService = (s.col d).service ∧ (u.col d).stack = (s.col d).stack
  columns : ∀ d, ¬ HoldsWork s k d → u.col d = s.col d
  worked : ∀ j r w, s.live j = some r → r.workedBy k w →
    u.live j = some { r with state := .stranded, strandedFrom := some w.strandedFrom }
  others : ∀ j, (∀ r w, s.live j = some r → ¬ r.workedBy k w) → u.entry j = s.entry j
  notice : u.notice = if ∃ d, HoldsWork s k d then afterRaising 1 s.notice else s.notice

theorem lockBroken_free (hs : Coherent s) (hh : ∀ c, ¬ HoldsLock s k c) : LockBroken k s s := by
  have hw : ∀ c, ¬ HoldsWork s k c := fun c ⟨l, hl, hk, _⟩ => hh c ⟨l, hl, hk⟩
  refine ⟨.refl _ s, fun _ => rfl, fun d => by rw [if_neg (hh d)], fun d => by rw [if_neg (hw d)],
    fun d hd => absurd hd (hw d), fun _ _ => rfl, fun j r w hr hrw => ?_, fun _ _ => rfl, by rw [if_neg (not_exists.2 hw)]⟩
  obtain ⟨l, hl, -, hk⟩ := lock_of_workedBy hs hr hrw
  exact absurd ⟨l, hl, hk⟩ (hh _)

theorem lockBroken_survey (hs : Coherent s) (hl : s.lockOf c = some l) (hk : l.holder = k) (hw : l.hold = .survey) :
    LockBroken k s (endLock c s) := by
  have hlock : ∀ d, HoldsLock s k d ↔ c = d := fun d => holdsLock_iff hs.positions hl hk
  have hwork : ∀ d, ¬ HoldsWork s k d := fun d hd => ((holdsWork_iff hs.positions hl hk).1 hd).2 hw
  refine ⟨(endLock_only c s).mono (by decide), fun _ => rfl, fun d => ?_, fun d => by rw [if_neg (hwork d)]; rfl,
    fun d hd => absurd hd (hwork d), fun _ _ => rfl, fun j r w hr hrw => ?_, fun _ _ => rfl,
    by rw [if_neg (not_exists.2 hwork)]; rfl⟩
  · simp only [endLock_lockOf, hlock]
  · obtain ⟨m, hm, hmw, hmk⟩ := lock_of_workedBy hs hr hrw
    exact absurd ⟨m, hm, hmk, by rw [hmw]; exact nofun⟩ (hwork _)

theorem lockBroken_work (hs : Coherent s) (hl : s.lockOf c = some l) (hk : l.holder = k) (hw : l.hold = .work w h) :
    LockBroken k s (strand c k w h s) := by
  obtain ⟨hin, r, hr, hrw, hbur⟩ := workedBy_of_lock hs hl hk hw
  obtain ⟨hlive, hh, -⟩ := recIn_live hr
  have hlock : ∀ d, HoldsLock s k d ↔ c = d := fun d => holdsLock_iff hs.positions hl hk
  have hwork : ∀ d, HoldsWork s k d ↔ c = d := fun d =>
    (holdsWork_iff hs.positions hl hk).trans (and_iff_left (by rw [hw]; exact nofun))
  refine ⟨strand_only c k w h s, fun j => strand_mark s c j k w h, fun d => ?_, fun d => ?_, fun d hd => ?_, fun d hd => ?_,
    fun j q w' hq hqw => ?_, fun j hj => ?_, ?_⟩
  · simp only [strand_lockOf, hlock]
  · simp only [strand_waitsOf, hwork]
  · obtain rfl := (hwork d).1 hd
    rw [strand_col, if_pos rfl, hl, Option.bind_some, hw]
    refine ⟨rfl, rfl, rfl, ?_, rfl⟩
    rcases hin with hin | hin <;> simp [Column.presentAsPrior, hin, Prior.toService]
  · rw [strand_col, if_neg (mt (hwork d).2 hd)]
  · obtain ⟨m, hm, hmw, hmk⟩ := lock_of_workedBy hs hq hqw
    have hcol : c = q.column := (hlock _).1 ⟨m, hm, hmk⟩
    rw [← hcol, hl] at hm
    cases hm
    cases hw.symm.trans hmw
    have hlive : s.live j = some r := hlive
    cases hlive.symm.trans hq
    rw [live_def, strand_entry, show (s.handleAt j).idx = j from rfl, if_pos rfl]
    simp only [hlive, Option.map_some, ← hbur]
  · rw [strand_entry, if_neg]
    rintro rfl
    exact hj r w hlive hrw
  · rw [strand_notice, if_pos ⟨c, (hwork c).2 rfl⟩]

theorem lockBroken (hs : Coherent s) (k : Slot) : LockBroken k s (breakHeld k s) := by
  by_cases hh : ∃ c, HoldsLock s k c
  · obtain ⟨c, l, hl, hk⟩ := hh
    cases hw : l.hold with
    | work w h => rw [breakHeld_work hs.positions hl hk hw]; exact lockBroken_work hs hl hk hw
    | survey => rw [breakHeld_survey hs.positions hl hk hw]; exact lockBroken_survey hs hl hk hw
  · rw [breakHeld_free (not_exists.1 hh)]
    exact lockBroken_free hs (not_exists.1 hh)

theorem breakHeld_relay (hs : Relay s) (k : Slot) : Relay (breakHeld k s) := by
  unfold breakHeld
  split
  · exact hs.breakLock _
  · exact hs

/-! ### What a slot without a lock gives up (R145) -/

/-- The reservations that a slot gives up. -/
abbrev State.reservedOf (s : State) (k : Slot) : List RecIdx :=
  s.recordsWhere fun r => r.state = .reserved && r.releaser = some k

theorem mem_reservedOf : i ∈ s.reservedOf k ↔ ∃ r, s.live i = some r ∧ r.state = .reserved ∧ r.releaser = some k := by
  simp

theorem giveUp_only (k : Slot) (s : State) : OnlyChanges [.handoff, .lock, .survey] s (giveUp k s) :=
  (((s.dropWaiter_only k).mono (by decide)).trans
    ((forEach_only (fun i u => retire_only_undelivered (by decide) i u) _ _).mono (by decide))).trans
    ((((dropPromises_only k _).mono (by decide)).trans ((dropDesignations_only k _).mono (by decide))).trans
      ((setMark_only k none _).mono (by decide)))

theorem giveUp_lockOf (k : Slot) (c : Col) (s : State) : (giveUp k s).lockOf c = s.lockOf c := by
  simp only [giveUp, setMark_lockOf, dropDesignations_lockOf, dropPromises_lockOf, retireAll_lockOf, dropWaiter_lockOf]

/-- R61, R63: who waits for a reservation is its releaser, so the places that its end would remove are gone already. -/
theorem giveUp_waitsOf (hs : Relay s) (k : Slot) (c : Col) :
    (giveUp k s).waitsOf c = (s.waitsOf c).filter fun e => decide (e.slot ≠ k) := by
  simp only [giveUp, setMark_waitsOf, dropDesignations_waitsOf, dropPromises_waitsOf]
  rw [retireAll_waitsOf, dropWaiter_waitsOf]
  intro i hi d e he hidx
  obtain ⟨r, hr, hst, hrel⟩ := mem_reservedOf.1 hi
  rw [dropWaiter_waitsOf, List.mem_filter] at he
  obtain ⟨-, -, q, hq, ha⟩ := (hs.consistent.bays d).waits e he.1
  obtain ⟨hlive, -, -⟩ := recIn_live hq
  rw [hidx] at hlive
  cases hr.symm.trans hlive
  have hslot : k = e.slot := Awaits.slot_eq (w := .place) ⟨hst, hrel⟩ ha
  exact of_decide_eq_true he.2 hslot.symm

theorem giveUp_mark (k j : Slot) (s : State) : (giveUp k s).mark j = if j = k then none else s.mark j := by
  have hkept : ∀ l : List RecIdx, ∀ u : State, (forEach l (fun i => retire i .unplaced) u).mark j = u.mark j := fun l => by
    induction l with
    | nil => exact fun _ => rfl
    | cons i l ih => exact fun u => (ih _).trans (retire_mark u i _ j)
  simp only [giveUp, setMark_mark_if, eq_comm (a := k), dropDesignations_mark, dropPromises_mark, hkept, dropWaiter_mark]

theorem giveUp_surveyor (k : Slot) (c : Col) (s : State) :
    (giveUp k s).surveyor c = if s.surveyor c = some k then none else s.surveyor c := by
  have hkept : (forEach ((s.dropWaiter k).reservedOf k) (fun i => retire i .unplaced) (s.dropWaiter k)).surveyor c =
      s.surveyor c :=
    surveyor_congr ((forEach_only (fun i u => retire_only i .unplaced u) _ _).survey (by decide)) c
  simp only [giveUp, setMark_surveyor, dropDesignations_surveyor, dropPromises_surveyor, hkept]

theorem giveUp_box (k : Slot) (s : State) : (giveUp k s).survey.box = s.survey.box := by
  have hkept := (forEach_only (fun i u => retire_only i .unplaced u) ((s.dropWaiter k).reservedOf k) (s.dropWaiter k)).survey
    (by decide)
  simp only [giveUp, setMark_survey, dropDesignations_box, dropPromises_survey, hkept, State.dropWaiter_survey]

theorem giveUp_entry (k : Slot) (j : RecIdx) (s : State) : (giveUp k s).entry j =
    if (s.live j).any (fun r => r.state = .promised && r.collector = some k) then
      { s.entry j with live := (s.live j).map Record.asParked }
    else if j ∈ s.reservedOf k then (s.entry j).retired j .unplaced else s.entry j := by
  have hentry : ∀ j, (forEach ((s.dropWaiter k).reservedOf k) (fun i => retire i .unplaced) (s.dropWaiter k)).entry j =
      if j ∈ s.reservedOf k then (s.entry j).retired j .unplaced else s.entry j :=
    fun j => retireAll_entry (recordsWhere_nodup _) _ _ j
  simp only [giveUp, setMark_entry, dropDesignations_entry, dropPromises_entry, hentry, live_def]
  by_cases hj : j ∈ s.reservedOf k
  · obtain ⟨r, hr, hst, -⟩ := mem_reservedOf.1 hj
    rw [live_def] at hr
    simp [hj, hr, hst, Entry.retired]
  · simp only [hj, if_false]
    rfl

/-- R145: a reservation of the slot is retired. -/
theorem giveUp_reserved (hr : s.live j = some r) (hst : r.state = .reserved) (hk : r.releaser = some k) :
    (giveUp k s).entry j = ⟨(s.entry j).gen + 1, none, some ⟨s.handleAt j, .unplaced, r.tag, r.column⟩⟩ := by
  rw [giveUp_entry, hr, if_neg (by simp [hst]), if_pos (mem_reservedOf.2 ⟨r, hr, hst, hk⟩), retired_of_live hr]

/-- R145: a promise to the slot is dropped. -/
theorem giveUp_promised (hr : s.live j = some r) (hst : r.state = .promised) (hk : r.collector = some k) :
    (giveUp k s).live j = some r.asParked := by
  rw [live_def, giveUp_entry, hr, if_pos (by simp [hst, hk]), Option.map_some]

theorem giveUp_other (hn : ∀ r ∈ s.live j, ¬ (r.state = .reserved ∧ r.releaser = some k) ∧
    ¬ (r.state = .promised ∧ r.collector = some k)) : (giveUp k s).entry j = s.entry j := by
  rw [giveUp_entry, if_neg, if_neg]
  · rw [mem_reservedOf]
    rintro ⟨r, hr, h⟩
    exact (hn r hr).1 h
  · simpa [Option.any_eq_true] using fun r hr => not_and.1 (hn r hr).2

/-! ### A miss that reaches the loss threshold (R118, R145) -/

/-- R118: one more miss counted. -/
abbrev counted (k : Slot) (s : State) : State := s.setSlot k { s.slot k with miss := min 15 ((s.slot k).miss + 1) }

theorem missSlot_lost (h : s.line.lossThreshold ≤ min 15 ((s.slot k).miss + 1)) : missSlot k s = loseSlot k (counted k s) := by
  unfold missSlot
  dsimp only
  refine if_pos ?_
  rw [setSlot_slot_self]
  exact h

theorem coherent_counted (hs : Coherent s) (hk : s.isLive k) : Coherent (counted k s) := by
  have hlink : (s.slot k).link = .live := by simpa [State.isLive] using hk
  refine coherent_of_links hs ((relay_of_coherent hs).setFields rfl rfl fun hv => ?_) rfl rfl fun x _ => ?_
  · rw [hlink] at hv; cases hv
  · rw [setSlot_slot_if]
    split
    · next e => rw [← e]
    · rfl

/-- R145: `u` is `s` after slot `k` has lost all it holds. -/
theorem loseHoldings_records (hs : Coherent s) (hr : s.live j = some r) :
    (r.state = .reserved → r.releaser = some k → (loseHoldings k s).entry j =
      ⟨(s.entry j).gen + 1, none, some ⟨s.handleAt j, .unplaced, r.tag, r.column⟩⟩) ∧
    (r.state = .promised → r.collector = some k →
      (loseHoldings k s).live j = some { r with state := .parked, collector := none, buried := false }) ∧
    (∀ w, r.workedBy k w →
      (loseHoldings k s).live j = some { r with state := .stranded, strandedFrom := some w.strandedFrom }) ∧
    (¬ (r.reserves ∧ r.releaser = some k) → ¬ ((r.state = .promised ∨ r.state = .lifting) ∧ r.collector = some k) →
      (loseHoldings k s).entry j = s.entry j) := by
  have hb := lockBroken hs k
  rw [loseHoldings_eq]
  have idle : (∀ w, ¬ r.workedBy k w) → (breakHeld k s).entry j = s.entry j := fun hn =>
    hb.others j fun q w hq => by cases hr.symm.trans hq; exact hn w
  have kept : (∀ w, ¬ r.workedBy k w) → (breakHeld k s).live j = some r := fun hn => by
    rw [live_def, idle hn]; exact hr
  refine ⟨fun hst hk => ?_, fun hst hk => ?_, fun w hw => ?_, fun hres hcol => ?_⟩
  · have hn : ∀ w, ¬ r.workedBy k w := by rintro (_ | _) <;> simp [Record.workedBy, hst]
    rw [giveUp_reserved (kept hn) hst hk, idle hn, State.handleAt, idle hn]
    rfl
  · have hn : ∀ w, ¬ r.workedBy k w := by rintro (_ | _) <;> simp [Record.workedBy, hst]
    obtain ⟨hsf, -⟩ := hs.fields j r hr
    have hsf : r.strandedFrom = none := by simpa [hst] using hsf
    rw [giveUp_promised (kept hn) hst hk, Record.asParked, ← hsf]
  · have hlive := hb.worked j r w hr hw
    rw [live_def, giveUp_other, ← live_def, hlive]
    intro q hq
    cases hlive.symm.trans hq
    simp
  · have hn : ∀ w, ¬ r.workedBy k w := by
      rintro (_ | _) ⟨hst, hk⟩
      · exact hres ⟨by simp [Record.reserves, hst], hk⟩
      · exact hcol ⟨.inr hst, hk⟩
    rw [giveUp_other, idle hn]
    intro q hq
    cases (kept hn).symm.trans hq
    exact ⟨fun h => hres ⟨by simp [Record.reserves, h.1], h.2⟩, fun h => hcol ⟨.inl h.1, h.2⟩⟩

/-- R145, R147: what the loss of a slot's holdings makes of a column. -/
theorem loseHoldings_column (hs : Coherent s) (k : Slot) (c : Col) :
    (loseHoldings k s).lockOf c = (if HoldsLock s k c then none else s.lockOf c) ∧
    (loseHoldings k s).waitsOf c =
      (if HoldsWork s k c then [] else (s.waitsOf c).filter fun e => decide (e.slot ≠ k)) ∧
    (HoldsWork s k c → ((loseHoldings k s).col c).service = .suspect ∧
      ((loseHoldings k s).col c).stranded = ((s.lockOf c).bind (·.hold.handle)) ∧
      ((loseHoldings k s).col c).strandingId = (s.slot k).robotId ∧
      ((loseHoldings k s).col c).prior.toService = (s.col c).service ∧
      ((loseHoldings k s).col c).stack = (s.col c).stack) ∧
    (¬ HoldsWork s k c → (loseHoldings k s).col c = s.col c) := by
  have hb := lockBroken hs k
  have hcol : (loseHoldings k s).col c = (breakHeld k s).col c :=
    col_congr (loseHoldings_eq k s ▸ (giveUp_only k _).columns (by decide)) c
  rw [hcol, loseHoldings_eq, giveUp_lockOf, giveUp_waitsOf (breakHeld_relay (relay_of_coherent hs) k), hb.waits]
  refine ⟨hb.locks c, ?_, hb.suspect c, hb.columns c⟩
  split
  · rfl
  · rfl

theorem loseHoldings_mark_if (hs : Coherent s) (k j : Slot) :
    (loseHoldings k s).mark j = if j = k then none else s.mark j := by
  rw [loseHoldings_eq, giveUp_mark, (lockBroken hs k).marks]

theorem loseHoldings_survey (hs : Coherent s) (k : Slot) :
    (loseHoldings k s).survey.box = s.survey.box ∧
    ∀ c, (loseHoldings k s).surveyor c = if s.surveyor c = some k then none else s.surveyor c := by
  have hsurvey := (lockBroken hs k).rest.survey (by decide)
  rw [loseHoldings_eq, giveUp_box, hsurvey]
  refine ⟨rfl, fun c => ?_⟩
  rw [giveUp_surveyor, surveyor_congr hsurvey]

theorem loseHoldings_notice (hs : Coherent s) (k : Slot) :
    (loseHoldings k s).notice = if ∃ c, HoldsWork s k c then afterRaising 1 s.notice else s.notice := by
  rw [loseHoldings_eq, (giveUp_only k _).notice (by decide), (lockBroken hs k).notice]

/-- R145: a loss raises notices and gives up what the slot holds; the line keeps all but the slot's own record. -/
theorem loseHoldings_rest (hs : Coherent s) (k : Slot) :
    OnlyChanges [.notice, .columns, .handoff, .lock, .survey] s (loseHoldings k s) :=
  loseHoldings_eq k s ▸ ((lockBroken hs k).rest.mono (by decide)).trans ((giveUp_only k _).mono (by decide))

theorem loseSlot_only (k : Slot) (s : State) : OnlyChanges [.line, .notice] (loseHoldings k s) (loseSlot k s) :=
  ((setSlot_only k _ _).mono (by decide)).trans ((raise_only .lost _).mono (by decide))

/-- R118, R112: the slot record of a lost slot. -/
theorem loseSlot_slot (k j : Slot) (s : State) : (loseSlot k s).slot j =
    if k = j then { s.slot j with link := .lost, verdict := none } else s.slot j := by
  have hslot : ∀ j, (loseHoldings k s).slot j = s.slot j := fun j => slot_congr ((loseHoldings_only k s).line (by decide)) j
  simp only [loseSlot, raise_slot, setSlot_slot_if, hslot]
  split
  · next e => rw [e]
  · rfl

/-- A regular CALL is out to a LIVE slot only (R115). -/
theorem live_of_regular (hs : CallsFit s) (hx : exchangeOf s = some x) (hk : x.kind = .regular) : s.isLive x.slot := by
  obtain ⟨-, -, hcalls⟩ := hs
  obtain ⟨-, hlive, -⟩ := hcalls x hx
  simp [State.isLive, hlive hk]

/-- Settles O34: the slot's lock is broken, then what it has else is given up. -/
theorem missAtThresholdLoses : Obligations.MissAtThresholdLoses := by
  intro s x i hs h hx hm k
  have hno : noAnswer x s = loseSlot k (counted k s) := by rw [noAnswer_regular hx, missSlot_lost hm]
  have hline := line_of_backdrop (noAnswer_backdrop x s)
  have hcounted : Coherent (counted k s) := coherent_counted hs (live_of_regular hs.calls h.1 hx)
  refine ⟨noAnswer x s, _, exec_endsUnanswered h, noted_goesOn ((exchangeOf_backdrop (noAnswer_backdrop x s)).trans h.1) _,
    ?_, hline, ?_⟩ <;> rw [hno]
  · exact ((setSlot_only k _ s).mono (by decide)).trans
      (((loseHoldings_rest hcounted k).mono (by decide)).trans ((loseSlot_only k _).mono (by decide)))
  have hlast := loseSlot_only k (counted k s)
  obtain ⟨hbox, hsurveyor⟩ := loseHoldings_survey hcounted k
  refine ⟨?_, fun j hj => ⟨?_, ?_⟩, ?_, fun c => ?_, ?_, fun c => ?_, fun j r hr => ?_, ?_⟩
  · rw [loseSlot_slot, if_pos rfl, setSlot_slot_self]
  · rw [loseSlot_slot, if_neg hj.symm, setSlot_slot_if, if_neg hj.symm]
  · rw [mark_congr (hlast.lock (by decide)), loseHoldings_mark_if hcounted, if_neg hj, setSlot_mark]
  · rw [mark_congr (hlast.lock (by decide)), loseHoldings_mark_if hcounted, if_pos rfl]
  · rw [surveyor_congr (hlast.survey (by decide)), hsurveyor, setSlot_surveyor]
  · rw [hlast.survey (by decide), hbox, setSlot_survey]
  · have hcolumn := loseHoldings_column hcounted k c
    rw [setSlot_slot_self] at hcolumn
    rw [lockOf_congr (hlast.lock (by decide)), waitsOf_congr (hlast.lock (by decide)), col_congr (hlast.columns (by decide))]
    exact hcolumn
  · obtain ⟨hreserved, hpromised, hworked, hother⟩ := loseHoldings_records (k := k) hcounted hr
    rw [entry_congr (hlast.handoff (by decide)), live_congr (hlast.handoff (by decide))]
    exact ⟨hreserved, hpromised, fun hst hk => hworked .place ⟨hst, hk⟩, fun hst hk => hworked .lift ⟨hst, hk⟩, hother⟩
  · exact congrArg (afterRaising 0) (loseHoldings_notice hcounted k)

end Sys2Proof.Machine
end

section
/-! The buried flags of a whole stack brought up to date (R16, R17): what becomes of each record, and what is raised. -/

namespace Sys2Proof.Machine

open Sys2Proof Sys2Proof.Safety

variable {s t u : State} {c d : Col} {i j : RecIdx} {h g x : Handle} {r q : Record} {l : List Handle} {n : NoticeUnit}

/-- R165: BURIED raised for one record. -/
def buriedRaised (n : NoticeUnit) (h : Handle) : NoticeUnit :=
  afterRaising 5 { n with buried := some (n.buried.getD h) }

/-- R165: a kind that is pending keeps its first subject. -/
theorem buriedRaised_again (n : NoticeUnit) (g h : Handle) : buriedRaised (buriedRaised n g) h = buriedRaised n g := by
  simp [buriedRaised, afterRaising, BitVec.or_assoc]

/-- R17: the notice unit after BURIED has been raised for a record, if there is one to raise it for. -/
def afterBuried (n : NoticeUnit) (o : Option Handle) : NoticeUnit := o.elim n (buriedRaised n)

/-- R17: the record that a handle names comes to be buried when its flag is brought up to date. -/
def State.newlyBuried (s : State) (h : Handle) : Bool := (s.live h.idx).any fun r => s.isBuried r && !r.buried

theorem refreshBuried_notice_handle (hh : s.handleAt h.idx = h) :
    (refreshBuried h.idx s).notice = if s.newlyBuried h then buriedRaised s.notice h else s.notice := by
  rw [refreshBuried_notice, hh]
  rfl

theorem newlyBuried_refreshBuried (hx : i ≠ x.idx) : (refreshBuried i s).newlyBuried x = s.newlyBuried x := by
  rw [State.newlyBuried, State.newlyBuried, refreshBuried_live, if_neg hx]
  simp only [isBuried_congr ((refreshBuried_only i s).columns (by decide))]

/-- R17: bringing the flags of some records up to date raises BURIED for the first that comes to be buried. -/
theorem refreshList_notice (hl : (l.map (·.idx)).Nodup) (hat : ∀ x ∈ l, s.handleAt x.idx = x) :
    (l.foldl (fun s h => refreshBuried h.idx s) s).notice = afterBuried s.notice (l.find? s.newlyBuried) := by
  induction l generalizing s with
  | nil => rfl
  | cons a l ih =>
    obtain ⟨ha, hl⟩ := List.nodup_cons.1 hl
    have hne : ∀ x ∈ l, a.idx ≠ x.idx := fun x hx e => ha (List.mem_map.2 ⟨x, hx, e.symm⟩)
    have hfind : l.find? (refreshBuried a.idx s).newlyBuried = l.find? s.newlyBuried :=
      List.find?_congr fun x hx => newlyBuried_refreshBuried (hne x hx)
    rw [List.foldl_cons, ih hl, hfind, refreshBuried_notice_handle (hat a List.mem_cons_self), List.find?_cons]
    · cases s.newlyBuried a with
      | false => rfl
      | true =>
        cases l.find? s.newlyBuried with
        | none => rfl
        | some g => exact buriedRaised_again s.notice a g
    · intro x hx
      rw [State.handleAt, refreshBuried_entry, if_neg (hne x hx)]
      exact hat x (List.mem_cons_of_mem a hx)

theorem refreshStack_notice (hl : ((s.col c).stack.map (·.idx)).Nodup) (hat : ∀ x ∈ (s.col c).stack, s.handleAt x.idx = x) :
    (refreshStack c s).notice = afterBuried s.notice ((s.col c).stack.find? s.newlyBuried) := refreshList_notice hl hat

theorem entry_ext {a b : Entry} (hg : a.gen = b.gen) (hl : a.live = b.live) (ho : a.last = b.last) : a = b := by
  cases a
  cases b
  cases hg
  cases hl
  cases ho
  rfl

theorem refreshList_entry (l : List Handle) (s : State) (j : RecIdx) :
    (l.foldl (fun s h => refreshBuried h.idx s) s).entry j =
      if ∃ h ∈ l, h.idx = j then { s.entry j with live := (s.live j).map (Record.flagged s) } else s.entry j := by
  have hlast : ((l.foldl (fun s h => refreshBuried h.idx s) s).entry j).last = (s.entry j).last ∧
      ((l.foldl (fun s h => refreshBuried h.idx s) s).entry j).gen = (s.entry j).gen := by
    induction l generalizing s with
    | nil => exact ⟨rfl, rfl⟩
    | cons a l ih =>
      rw [List.foldl_cons, (ih _).1, (ih _).2, refreshBuried_entry]
      split <;> exact ⟨rfl, rfl⟩
  have hlive := refreshList_live l s j
  rw [live_def] at hlive
  split
  · next hj => rw [if_pos hj] at hlive; exact entry_ext hlast.2 hlive hlast.1
  · next hj => rw [if_neg hj] at hlive; exact entry_ext hlast.2 hlive hlast.1

/-- R16: the records of a stack whose flags have been brought up to date, given what that makes of each. -/
theorem refreshStack_entry {f : Record → Record} (hin : ∀ x ∈ (s.col c).stack, x.idx = i → ∀ q ∈ s.live i, f q = q.flagged s)
    (hno : (∀ x ∈ (s.col c).stack, x.idx ≠ i) → ∀ q ∈ s.live i, f q = q) :
    (refreshStack c s).entry i = { s.entry i with live := (s.live i).map f } := by
  rw [refreshStack, refreshList_entry]
  split
  · next hi =>
    obtain ⟨x, hx, hxi⟩ := hi
    rw [Option.map_congr (hin x hx hxi)]
  · next hi => exact entry_of_map_self (hno fun x hx hxi => hi ⟨x, hx, hxi⟩)

end Sys2Proof.Machine
end

section
/-! SURVEY (R151 to R154): the order of checks, the resolution of the stranded record in each of R152's ways, and what a
match makes of each table. -/

namespace Sys2Proof.Machine

open Sys2Proof Sys2Proof.Safety

variable {s t u v : State} {c d : Col} {i j : RecIdx} {k : Slot} {st : Status} {g h x : Handle} {r q : Record} {l : Lock}
  {tags : List Tag} {col : Byte} {f : State → State} {n : Nat} {o : Retirement}

/-! ### The tags of a stack -/

theorem mem_stackTags {tag : Tag} : tag ∈ s.stackTags c ↔ ∃ x ∈ (s.col c).stack, ∃ q, s.named x = some q ∧ q.tag = tag := by
  simp only [State.stackTags, List.mem_filterMap, Option.map_eq_some_iff]

theorem stackTags_nodup (hs : Coherent s) (c : Col) : (s.stackTags c).Nodup := by
  refine (stack_idx_nodup (hs.bayFits c)).of_map.filterMap fun x y tag hx hy => ?_
  obtain ⟨q, hq, rfl⟩ := Option.map_eq_some_iff.1 hx
  obtain ⟨p, hp, hpq⟩ := Option.map_eq_some_iff.1 hy
  have hidx : x.idx = y.idx := hs.tags.2 _ _ q (live_of_named hq) p (live_of_named hp) hpq.symm
  rw [← handleAt_of_named hq, ← handleAt_of_named hp, hidx]

theorem zero_not_mem_stackTags (hs : Coherent s) (c : Col) : (0 : Tag) ∉ s.stackTags c := by
  rw [mem_stackTags]
  rintro ⟨x, -, q, hq, h0⟩
  exact hs.tags.1 _ q (live_of_named hq) h0

/-! ### The stranded record -/

section
variable (hs : Coherent s) (hx : Stranding s c h r)
include hs hx

/-- R147: the stranded record of a column was stranded from a placement or from a lift. -/
theorem strandedFrom_cases : r.strandedFrom = some .placing ∨ r.strandedFrom = some .lifting := by
  have hf := (relay_of_coherent hs).strandedFits hx
  cases hsf : r.strandedFrom with
  | none => simp [hsf] at hf
  | some w => cases w <;> simp

theorem stranded_not_buried : r.buried = false := by
  rw [hs.buried _ r (recIn_live hx.record).1, State.isBuried, hx.state]
  rfl

omit hs in
theorem stranded_not_reserving : r.reservedBy k = false := by
  simp [Record.reservedBy, Record.reserves, hx.state]

/-- R11, R26: a stranded placement stands in no stack. -/
theorem stranded_not_stacked (hsf : r.strandedFrom = some .placing) (hg : g ∈ (s.col c).stack) : g.idx ≠ h.idx := by
  have hf := (relay_of_coherent hs).strandedFits hx
  simp only [hsf] at hf
  obtain ⟨q, n, hq, hn, -⟩ := recIn_of_mem_stack hs hg
  intro hidx
  have hlive := (recIn_live hq).1
  rw [hidx] at hlive
  cases hlive.symm.trans (recIn_live hx.record).1
  rw [hf.1] at hn
  cases hn

theorem stranded_tag_not_stacked (hsf : r.strandedFrom = some .placing) : r.tag ∉ s.stackTags c := by
  rw [mem_stackTags]
  rintro ⟨x, hxm, q, hq, htag⟩
  exact stranded_not_stacked hs hx hsf hxm (hs.tags.2 _ _ q (live_of_named hq) r (recIn_live hx.record).1 htag)

/-- R147: a stranded lift is on top. -/
theorem stranded_top (hsf : r.strandedFrom = some .lifting) : s.top c = some h := by
  have hf := (relay_of_coherent hs).strandedFits hx
  simp only [hsf] at hf
  exact hf.2.1
end

/-! ### The robot concerned (R148) -/

theorem concernedLive_iff {o : Option Slot} : s.concernedLive c o = true ↔ ConcernedLive s c o := by
  simp only [State.concernedLive, ConcernedLive, State.isLive, Option.any_eq_true, Bool.and_eq_true, decide_eq_true_eq,
    and_assoc, Option.mem_def]

theorem heard_placementReturns : (heard k st s).placementReturns c i r = s.placementReturns c i r := by
  rw [State.placementReturns, heard_concernedLive]
  rfl

/-- R32, R33: no other record is reserved by the releaser, the stranded one being RESERVED no longer. -/
theorem placementReturns_iff (hx : Stranding s c h r) : s.placementReturns c h.idx r = true ↔
    ∃ j ∈ r.releaser, ConcernedLive s c r.releaser ∧ ∀ i, ∀ q ∈ s.live i, q.reservedBy j = false := by
  rw [State.placementReturns, Bool.and_eq_true, concernedLive_iff, Bool.not_eq_true']
  cases hrel : r.releaser with
  | none => simp [ConcernedLive]
  | some j =>
    have hoth : s.reservesOther h.idx (some j) = false ↔ ∀ i, ∀ q ∈ s.live i, q.reservedBy j = false := by
      simp only [State.reservesOther, Option.any_some, List.any_eq_false, mem_recordsWhere, decide_eq_true_eq, not_not]
      refine ⟨fun hall i q hq => ?_, fun hall i hi => ?_⟩
      · by_contra hres
        obtain rfl := hall i ⟨q, hq, by simpa using hres⟩
        cases hq.symm.trans (recIn_live hx.record).1
        exact hres (stranded_not_reserving hx)
      · obtain ⟨q, hq, hres⟩ := hi
        rw [hall i q hq] at hres
        cases hres
    simp [hoth]

/-! ### Which resolution a list gives (R152) -/

section
variable (hs : Coherent s) (hx : Stranding s c h r)
include hs hx

theorem resolution_placing (hsf : r.strandedFrom = some .placing) : resolution c tags s =
    if tags = (s.stackTags c).reverse then some (resolveAbsentPlacement h.idx (s.placementReturns c h.idx r))
    else if tags = r.tag :: (s.stackTags c).reverse then some (fun s => refreshStack c (pushRecord h.idx c s))
    else none := by
  have hfit : tags = (s.stackTags c).reverse ∨ tags = r.tag :: (s.stackTags c).reverse → tags.Nodup ∧ (0 : Tag) ∉ tags := by
    have hd := stackTags_nodup hs c
    have h0 := zero_not_mem_stackTags hs c
    have htag : (0 : Tag) ≠ r.tag := (hs.tags.1 _ r (recIn_live hx.record).1).symm
    have hnew := stranded_tag_not_stacked hs hx hsf
    rintro (rfl | rfl)
    · exact ⟨List.nodup_reverse.2 hd, mt List.mem_reverse.1 h0⟩
    · refine ⟨List.nodup_cons.2 ⟨mt List.mem_reverse.1 hnew, List.nodup_reverse.2 hd⟩, fun hm => ?_⟩
      rcases List.mem_cons.1 hm with e | hm
      · exact htag e
      · exact h0 (List.mem_reverse.1 hm)
  simp only [resolution, hx.stranded, (recIn_eq_some.1 hx.record).1, hsf]
  split
  · rfl
  · next hbad => rw [if_neg (fun e => hbad (hfit (.inl e))), if_neg (fun e => hbad (hfit (.inr e)))]

theorem resolution_lifting (hsf : r.strandedFrom = some .lifting) : resolution c tags s =
    if tags = (s.stackTags c).reverse then some (resolveLiftInPlace h.idx r.collector (s.concernedLive c r.collector))
    else if tags = (s.stackTags c).reverse.tail ∧ (s.stackTags c).reverse ≠ [] then
      some (fun s => refreshStack c (resolveLiftGone h.idx (s.concernedLive c r.collector) (popStack c s)))
    else none := by
  have hfit : tags = (s.stackTags c).reverse ∨ tags = (s.stackTags c).reverse.tail → tags.Nodup ∧ (0 : Tag) ∉ tags := by
    have hd : (s.stackTags c).reverse.Nodup := List.nodup_reverse.2 (stackTags_nodup hs c)
    have h0 : (0 : Tag) ∉ (s.stackTags c).reverse := mt List.mem_reverse.1 (zero_not_mem_stackTags hs c)
    rintro (rfl | rfl)
    · exact ⟨hd, h0⟩
    · exact ⟨hd.sublist (List.tail_sublist _), mt List.mem_of_mem_tail h0⟩
  simp only [resolution, hx.stranded, (recIn_eq_some.1 hx.record).1, hsf]
  split
  · rfl
  · next hbad => rw [if_neg (fun e => hbad (hfit (.inl e))), if_neg (fun e => hbad (hfit (.inr e.1)))]
end

/-! ### What every resolution leaves, and the column settled (R10, R153) -/

/-- R152: `u` is `s` with the stranded record of column `c` resolved: of the columns only the stack of that one changes, and
no lock or wait place does. -/
structure ResolvedOn (c : Col) (s u : State) : Prop where
  rest : OnlyChanges [.columns, .handoff, .manifest, .notice, .lock] s u
  locks : SameLocks s u
  limits : u.lock.placeLimit = s.lock.placeLimit ∧ u.lock.liftLimit = s.lock.liftLimit ∧
    u.lock.surveyLimit = s.lock.surveyLimit
  marks : ∀ j, u.mark j = s.mark j
  columns : SameColumnsBut c s u
  column : u.col c = { s.col c with stack := (u.col c).stack }

theorem ResolvedOn.of_handoff (ho : OnlyChanges [.handoff, .notice] s u) : ResolvedOn c s u where
  rest := ho.mono (by decide)
  locks d := ⟨lockOf_congr (ho.lock (by decide)) d, waitsOf_congr (ho.lock (by decide)) d⟩
  limits := by rw [ho.lock (by decide)]; exact ⟨rfl, rfl, rfl⟩
  marks := mark_congr (ho.lock (by decide))
  columns d _ := col_congr (ho.columns (by decide)) d
  column := by rw [col_congr (ho.columns (by decide))]

theorem ResolvedOn.trans (h1 : ResolvedOn c s t) (h2 : ResolvedOn c t u) : ResolvedOn c s u where
  rest := h1.rest.trans h2.rest
  locks d := ⟨(h2.locks d).1.trans (h1.locks d).1, (h2.locks d).2.trans (h1.locks d).2⟩
  limits := ⟨h2.limits.1.trans h1.limits.1, h2.limits.2.1.trans h1.limits.2.1, h2.limits.2.2.trans h1.limits.2.2⟩
  marks j := (h2.marks j).trans (h1.marks j)
  columns d hd := (h2.columns d hd).trans (h1.columns d hd)
  column := by rw [h2.column, h1.column]

/-- R34: nobody waits for a record of a column without a wait list. -/
theorem ResolvedOn.of_retire (hr : s.live i = some r) (hw : s.waitsOf r.column = []) (o : Retirement) :
    ResolvedOn c s (retire i o s) where
  rest := (retire_only i o s).mono (by decide)
  locks d := by
    refine ⟨retire_lockOf s i o d, ?_⟩
    rw [retire_waitsOf s hr]
    split
    · next e => rw [← e, hw]; rfl
    · rfl
  limits := by
    rw [retire_lock s hr]
    exact ⟨rfl, rfl, rfl⟩
  marks := retire_mark s i o
  columns d _ := col_congr ((retire_only i o s).columns (by decide)) d
  column := by rw [col_congr ((retire_only i o s).columns (by decide))]

theorem ResolvedOn.of_columns (ho : OnlyChanges [.columns] s u) (hne : SameColumnsBut c s u)
    (hcol : u.col c = { s.col c with stack := (u.col c).stack }) : ResolvedOn c s u where
  rest := ho.mono (by decide)
  locks d := ⟨lockOf_congr (ho.lock (by decide)) d, waitsOf_congr (ho.lock (by decide)) d⟩
  limits := by rw [ho.lock (by decide)]; exact ⟨rfl, rfl, rfl⟩
  marks := mark_congr (ho.lock (by decide))
  columns := hne
  column := hcol

theorem ResolvedOn.of_push (i : RecIdx) (c : Col) (s : State) : ResolvedOn c s (pushRecord i c s) where
  rest := (pushRecord_only i c s).mono (by decide)
  locks d := ⟨pushRecord_lockOf i c d s, pushRecord_waitsOf i c d s⟩
  limits := by rw [pushRecord_lock]; exact ⟨rfl, rfl, rfl⟩
  marks j := pushRecord_mark i c j s
  columns d hd := by rw [pushRecord_col, if_neg hd.symm]
  column := by rw [pushRecord_col, if_pos rfl]

theorem ResolvedOn.of_pop (c : Col) (s : State) : ResolvedOn c s (popStack c s) :=
  .of_columns (popStack_only c s) (fun d hd => by rw [popStack_col, if_neg hd.symm]) (by rw [popStack_col, if_pos rfl])

/-- R153: what a match makes of the locks, the designations, the box and the columns. -/
abbrev Settled (c : Col) (s u : State) : Prop :=
  (u.lockOf c = none ∧ u.waitsOf c = s.waitsOf c ∧ SameLocksBut c s u) ∧ u.surveyor c = none ∧
    (∀ d, d ≠ c → u.surveyor d = s.surveyor d) ∧ u.survey.box = s.survey.box ∧ SameColumnsBut c s u ∧
    u.col c = { s.col c with
      stack := (u.col c).stack, stranded := none, strandingId := none, service := (s.col c).prior.toService }

theorem ResolvedOn.settled (hu : ResolvedOn c s u) : Settled c s (endLock c (settleColumn c u)) := by
  have hsurvey := hu.rest.survey (by decide)
  refine ⟨⟨?_, ?_, fun d hd => ⟨?_, ?_⟩⟩, ?_, fun d hd => ?_, ?_, fun d hd => ?_, ?_⟩
  · rw [endLock_lockOf, if_pos rfl]
  · rw [endLock_waitsOf, settleColumn_waitsOf, (hu.locks c).2]
  · rw [endLock_lockOf, if_neg hd.symm, settleColumn_lockOf, (hu.locks d).1]
  · rw [endLock_waitsOf, settleColumn_waitsOf, (hu.locks d).2]
  · rw [endLock_surveyor, settleColumn_surveyor, if_pos rfl]
  · rw [endLock_surveyor, settleColumn_surveyor, if_neg hd.symm, surveyor_congr hsurvey]
  · rw [endLock_survey, settleColumn_box, hsurvey]
  · rw [endLock_col, settleColumn_col, if_neg hd.symm, hu.columns d hd]
  · rw [endLock_col, settleColumn_col, if_pos rfl, hu.column]

theorem promisedTop_eq_some : promisedTop s c = some g ↔ s.top c = some g ∧ ∃ q, s.named g = some q ∧ q.state = .promised := by
  simp only [promisedTop, Option.bind_eq_some_iff, Option.ite_none_right_eq_some, Option.some.injEq]
  constructor
  · rintro ⟨x, ht, q, hq, hst, rfl⟩
    exact ⟨ht, q, hq, hst⟩
  · rintro ⟨ht, q, hq, hst⟩
    exact ⟨g, ht, q, hq, hst, rfl⟩

theorem handleAt_of_mem_stack (hs : Coherent s) (hg : g ∈ (s.col c).stack) : s.handleAt g.idx = g := by
  obtain ⟨q, -, hq, -⟩ := recIn_of_mem_stack hs hg
  exact (recIn_live hq).2.1

/-- What a search finds when one element at most is sought. -/
theorem find?_eq_of_unique {α : Type} {p : α → Bool} {l : List α} {o : Option α} (hp : ∀ x ∈ l, p x = true ↔ o = some x)
    (ho : ∀ x, o = some x → x ∈ l) : l.find? p = o := by
  cases o with
  | none => exact List.find?_eq_none.2 fun x hx hpx => nomatch (hp x hx).1 hpx
  | some a =>
    have ha := ho a rfl
    cases hf : l.find? p with
    | none => exact absurd ((hp a ha).2 rfl) (List.find?_eq_none.1 hf a ha)
    | some b => exact ((hp b (List.mem_of_find?_eq_some hf)).1 (List.find?_some hf)).symm

/-! ### The stranded record in each of R152's ways (R32) -/

/-- R152: only the stranded record's own index, the free count and the order may have changed. -/
abbrev PlainlyResolved (c : Col) (h : Handle) (s u : State) : Prop :=
  SameEntriesBut h.idx s u ∧ (u.col c).stack = (s.col c).stack ∧ u.notice = s.notice ∧ u.manifest = s.manifest

theorem PlainlyResolved.of_same (hp : PlainlyResolved c h s t) (hh : u.handoff = t.handoff) (hn : u.notice = t.notice)
    (hm : u.manifest = t.manifest) (hst : (u.col c).stack = (t.col c).stack) : PlainlyResolved c h s u := by
  obtain ⟨he, hstack, hnotice, hmanifest⟩ := hp
  exact ⟨fun i hi => (entry_congr hh i).trans (he i hi), hst.trans hstack, hn.trans hnotice, hm.trans hmanifest⟩

section
variable (hs : Coherent s) (hx : Stranding s c h r)
include hx

omit hx in
/-- A change of the records that writes one index and raises nothing. -/
theorem plainlyResolved_of_handoff (ho : OnlyChanges [.handoff] s u) (he : SameEntriesBut h.idx s u) :
    PlainlyResolved c h s u :=
  ⟨he, congrArg Column.stack (col_congr (ho.columns (by decide)) c), ho.notice (by decide), ho.manifest (by decide)⟩

theorem retired_entry (o : Retirement) (i : RecIdx) : (retire h.idx o s).entry i =
    if h.idx = i then ⟨h.gen + 1, none, some ⟨h, o, r.tag, c⟩⟩ else s.entry i := by
  obtain ⟨hlive, hat, hc⟩ := recIn_live hx.record
  have hgen : (s.entry h.idx).gen = h.gen := congrArg Handle.gen hat
  rw [retire_entry s hlive, hat, hgen, hc]

/-- R32: an absent placement of which nothing was left is retired. -/
theorem retired_plainly : PlainlyResolved c h s (retire h.idx .unplaced s) := by
  have ho := retire_only_undelivered (o := .unplaced) (by decide) h.idx s
  exact ⟨fun i hi => by rw [retired_entry hx, if_neg hi.symm],
    congrArg Column.stack (col_congr (ho.columns (by decide)) c), ho.notice (by decide), ho.manifest (by decide)⟩

include hs

theorem reserved_entry (hsf : r.strandedFrom = some .placing) (i : RecIdx) : (reserveRecord h.idx s).entry i =
    if h.idx = i then { s.entry i with live := some { r with state := .reserved, strandedFrom := none } } else s.entry i := by
  have hf := (relay_of_coherent hs).strandedFits hx
  simp only [hsf] at hf
  rw [reserveRecord_entry]
  split
  · next hi => rw [← hi, (recIn_live hx.record).1, Option.map_some, ← hf.1]
  · rfl

/-- R16: a stranded lift is on top, so no depth buries it. -/
theorem stranded_depth (hsf : r.strandedFrom = some .lifting) : (s.depth r).any (0 < ·) = false := by
  have hlev := level_of_top hs (stranded_top hs hx hsf) hx.record
  obtain ⟨-, -, hc⟩ := recIn_live hx.record
  simp [State.depth, hlev, hc]

theorem promised_entry (hsf : r.strandedFrom = some .lifting) (hk : r.collector = some k) (i : RecIdx) :
    (promiseRecord h.idx k s).entry i =
      if h.idx = i then { s.entry i with live := some { r with state := .promised, strandedFrom := none } } else s.entry i := by
  rw [promiseRecord_entry]
  split
  · next hi =>
    rw [← hi, (recIn_live hx.record).1, Option.map_some, stranded_depth hs hx hsf, ← hk, ← stranded_not_buried hs hx]
  · rfl

theorem promised_plainly (hsf : r.strandedFrom = some .lifting) (hk : r.collector = some k) :
    PlainlyResolved c h s (promiseRecord h.idx k s) := by
  refine ⟨fun i hi => by rw [promised_entry hs hx hsf hk, if_neg hi.symm], ?_, ?_, promiseRecord_manifest ..⟩
  · rw [promiseRecord_col]
  · rw [promiseRecord_notice, (recIn_live hx.record).1, Option.any_some, stranded_depth hs hx hsf]
    rfl

theorem parked_entry (i : RecIdx) : (parkRecord h.idx s).entry i =
    if h.idx = i then { s.entry i with live := some { r with state := .parked, collector := none, strandedFrom := none } }
    else s.entry i := by
  rw [parkRecord_entry]
  split
  · next hi => rw [← hi, (recIn_live hx.record).1, Option.map_some, ← stranded_not_buried hs hx]
  · rfl

/-! ### A placement found in place: the push (R11, R16, R17) -/

section
variable (hsf : r.strandedFrom = some .placing)
include hsf

omit hs hsf in
theorem pushed_live (i : RecIdx) : (pushRecord h.idx c s).live i =
    if h.idx = i then some (r.pushed (s.col c).stack.length) else s.live i := by
  rw [live_def, pushRecord_entry]
  split
  · next hi => rw [← hi, (recIn_live hx.record).1]; rfl
  · rfl

omit hs hsf in
theorem pushed_stack : ((pushRecord h.idx c s).col c).stack = (s.col c).stack ++ [h] := by
  rw [pushRecord_col, if_pos rfl, (recIn_live hx.record).2.1]

omit hsf in
/-- R16: after the push every PROMISED record beneath it is buried. -/
theorem pushed_flagged (hg : g ∈ (s.col c).stack) : ∃ q, s.recIn c g = some q ∧
    q.flagged (pushRecord h.idx c s) = underPush c q ∧
    (q.buried = (decide (q.state = .promised) && decide (s.top c ≠ some g))) := by
  obtain ⟨q, n, hq, hlev, hn⟩ := recIn_of_mem_stack hs hg
  obtain ⟨-, -, hc⟩ := recIn_live hq
  obtain ⟨hlt, -⟩ := List.getElem?_eq_some_iff.1 hn
  have hdeep : 0 < (s.col c).stack.length - n := by omega
  have hbur := buried_eq hs hq hlev
  have hflag : (pushRecord h.idx c s).isBuried q = decide (q.state = .promised) := by
    simp only [State.isBuried, State.depth, hlev, hc, pushed_stack hx, List.length_append, List.length_singleton,
      Nat.add_sub_cancel, Option.map_some, Option.any_some, hdeep, decide_true, Bool.and_true]
  refine ⟨q, hq, ?_, hbur⟩
  rw [Record.flagged, hflag, underPush]
  by_cases hpr : q.state = .promised
  · simp [hc, hpr]
  · have hclear : q.buried = false := by simp [hbur, hpr]
    rw [if_neg fun e => hpr e.2, decide_eq_false hpr, ← hclear]

omit hsf in
/-- R16: the record pushed and, of the others, what the push makes of them. -/
theorem placed_entry (hi : i ≠ h.idx) : (refreshStack c (pushRecord h.idx c s)).entry i =
    { s.entry i with live := (s.live i).map (underPush c) } := by
  have hlive : (pushRecord h.idx c s).live i = s.live i := by rw [pushed_live hx, if_neg hi.symm]
  have hentry : (pushRecord h.idx c s).entry i = s.entry i := by rw [pushRecord_entry, if_neg hi.symm]
  rw [refreshStack_entry (f := underPush c) (fun x hxm hxi q hq => ?_) (fun hno q hq => ?_), hentry, hlive]
  · rw [pushed_stack hx] at hxm
    rcases List.mem_append.1 hxm with hxm | hxm
    · obtain ⟨p, hp, hflag, -⟩ := pushed_flagged hs hx hxm
      rw [hlive, ← hxi] at hq
      cases hq.symm.trans (recIn_live hp).1
      exact hflag.symm
    · rw [List.mem_singleton.1 hxm] at hxi
      exact absurd hxi.symm hi
  · rw [hlive] at hq
    refine if_neg ?_
    rintro ⟨hc, hpr⟩
    have hrf := (hs.bayFits c).records _ q (recIn_of_live hq hc)
    simp only [RecordFits, hpr] at hrf
    obtain ⟨⟨n, -, hn⟩, -⟩ := hrf
    refine hno (s.handleAt i) ?_ rfl
    rw [pushed_stack hx]
    exact List.mem_append_left _ (List.mem_of_getElem? hn)

theorem placed_entry_self : (refreshStack c (pushRecord h.idx c s)).entry h.idx = { s.entry h.idx with
    live := some { r with state := .parked, strandedFrom := none, level := some (s.col c).stack.length } } := by
  have hf := (relay_of_coherent hs).strandedFits hx
  simp only [hsf] at hf
  have hlive : (pushRecord h.idx c s).live h.idx = some (r.pushed (s.col c).stack.length) := by
    rw [pushed_live hx, if_pos rfl]
  rw [refreshStack_entry (f := id) (fun x _ _ q hq => ?_) fun _ _ _ => rfl]
  · rw [hlive, pushRecord_entry, if_pos rfl]
    simp only [Option.map_some, id_eq, Record.pushed, ← hf.2.1, ← stranded_not_buried hs hx]
  · rw [hlive] at hq
    cases hq
    rfl

/-- R17: of the old stack, only a PROMISED record on top comes to be buried by the push. -/
theorem pushed_newlyBuried (hg : g ∈ (s.col c).stack) :
    (pushRecord h.idx c s).newlyBuried g = true ↔ promisedTop s c = some g := by
  obtain ⟨q, hq, hflag, hbur⟩ := pushed_flagged hs hx hg
  have hnow : (pushRecord h.idx c s).isBuried q = (underPush c q).buried := congrArg Record.buried hflag
  have hidx := (stranded_not_stacked hs hx hsf hg).symm
  obtain ⟨hnamed, hc⟩ := recIn_eq_some.1 hq
  rw [State.newlyBuried, pushed_live hx, if_neg hidx, (recIn_live hq).1, Option.any_some, hnow, promisedTop_eq_some, hnamed,
    underPush, hbur]
  by_cases hpr : q.state = .promised
  · simp [hc, hpr]
  · simp [hpr, hbur]

/-- R17: BURIED is raised for the PROMISED record that was on top. -/
theorem placed_notice : (refreshStack c (pushRecord h.idx c s)).notice = noticeAfterPush s c := by
  have hstack := pushed_stack hx
  have hself : (pushRecord h.idx c s).newlyBuried h = false := by
    rw [State.newlyBuried, pushed_live hx, if_pos rfl]
    rfl
  have hnotice : noticeAfterPush s c = afterBuried s.notice (promisedTop s c) := by
    unfold noticeAfterPush
    cases promisedTop s c <;> rfl
  rw [refreshStack_notice, hnotice, pushRecord_notice, hstack, find?_eq_of_unique]
  · intro g hg
    rcases List.mem_append.1 hg with hg | hg
    · rw [pushed_newlyBuried hs hx hsf hg]
    · rw [List.mem_singleton.1 hg, hself, promisedTop_eq_some]
      refine ⟨nofun, fun ⟨ht, _⟩ => absurd rfl (stranded_not_stacked hs hx hsf (List.mem_of_getLast? ht))⟩
  · intro g hg
    exact List.mem_append_left _ (List.mem_of_getLast? (promisedTop_eq_some.1 hg).1)
  · rw [hstack, List.map_append, List.nodup_append]
    refine ⟨stack_idx_nodup (hs.bayFits c), List.nodup_singleton _, ?_⟩
    simp only [List.mem_map, List.map_singleton, List.mem_singleton, forall_eq, forall_exists_index, and_imp,
      forall_apply_eq_imp_iff₂]
    exact fun g hg => stranded_not_stacked hs hx hsf hg
  · intro g hg
    rw [State.handleAt, pushRecord_entry]
    rw [hstack] at hg
    rcases List.mem_append.1 hg with hg | hg
    · rw [if_neg (stranded_not_stacked hs hx hsf hg).symm]
      exact handleAt_of_mem_stack hs hg
    · rw [List.mem_singleton.1 hg, if_pos rfl]
      exact (recIn_live hx.record).2.1

end
end

/-! ### A lift found gone: the pop (R11, R16, R17) -/

/-- The stranded lift taken off its stack and retired. -/
def carriedAway (h : Handle) (o : Retirement) (c : Col) (s : State) : State := retire h.idx o (popStack c s)

theorem carriedAway_col (h : Handle) (o : Retirement) (c d : Col) (s : State) : (carriedAway h o c s).col d =
    if c = d then { s.col d with stack := (s.col d).stack.dropLast } else s.col d := by
  rw [carriedAway, col_congr ((retire_only ..).columns (by decide)), popStack_col]

theorem carriedAway_stack (h : Handle) (o : Retirement) (c : Col) (s : State) :
    ((carriedAway h o c s).col c).stack = (s.col c).stack.dropLast := by
  rw [carriedAway_col, if_pos rfl]

section
variable (hs : Coherent s) (hx : Stranding s c h r)
include hx

theorem popped_stranding_live : (popStack c s).live h.idx = some r := (recIn_live hx.record).1

theorem carriedAway_entry (o : Retirement) (i : RecIdx) : (carriedAway h o c s).entry i =
    if h.idx = i then ⟨h.gen + 1, none, some ⟨h, o, r.tag, c⟩⟩ else s.entry i := by
  obtain ⟨-, hat, hc⟩ := recIn_live hx.record
  have hat' : (popStack c s).handleAt h.idx = h := hat
  have hgen : ((popStack c s).entry h.idx).gen = h.gen := congrArg Handle.gen hat
  rw [carriedAway, retire_entry _ (popped_stranding_live hx), hat', hgen, hc]
  rfl

theorem carriedAway_live (o : Retirement) (i : RecIdx) : (carriedAway h o c s).live i =
    if h.idx = i then none else s.live i := by
  rw [live_def, carriedAway_entry hx]
  split <;> rfl

theorem carriedAway_free (o : Retirement) : (carriedAway h o c s).handoff.freeCount = s.handoff.freeCount + 1 :=
  (retire_counts (popStack c s) (popped_stranding_live hx) o).1

theorem carriedAway_manifest (hm : MapInForm s) (o : Retirement) : (carriedAway h o c s).manifest =
    if o = .delivered then { s.manifest with map := consumedMap s r.tag } else s.manifest := by
  rw [carriedAway, retire_manifest _ (popped_stranding_live hx)]
  split
  · exact consume_map (s := popStack c s) hm r.tag
  · rfl

include hs

/-- R16: below the lift that is gone a record is buried as before, but the one at the new top is uncovered. -/
theorem carriedAway_flagged (hsf : r.strandedFrom = some .lifting) (o : Retirement) (hg : g ∈ (s.col c).stack.dropLast) :
    h.idx ≠ g.idx ∧ ∃ q, s.recIn c g = some q ∧ q.flagged (carriedAway h o c s) = uncovered s c g.idx q ∧
      ((carriedAway h o c s).isBuried q = true → q.buried = true) := by
  obtain ⟨n, hn⟩ := List.mem_iff_getElem?.1 hg
  have hlt : n < (s.col c).stack.length - 1 := by simpa using (List.getElem?_eq_some_iff.1 hn).1
  have hget : (s.col c).stack[n]? = some g := by
    rw [List.getElem?_dropLast, if_pos hlt] at hn
    exact hn
  obtain ⟨q, hq, hlev⟩ := (hs.bayFits c).stack n g hget
  obtain ⟨hlive, hat, hc⟩ := recIn_live hq
  have htop : s.top c ≠ some g := (depth_pos_iff hs hq hlev).1 (by omega)
  have hidx : h.idx ≠ g.idx := fun e => htop (by
    rw [stranded_top hs hx hsf, ← hat, ← e, (recIn_live hx.record).2.1])
  have hflag : (carriedAway h o c s).isBuried q =
      (decide (q.state = .promised) && decide (0 < (s.col c).stack.length - 1 - 1 - n)) := by
    simp only [State.isBuried, State.depth, hlev, hc, carriedAway_stack, List.length_dropLast, Option.map_some,
      Option.any_some]
  have hbur : q.buried = decide (q.state = .promised) := by rw [buried_eq hs hq hlev, decide_eq_true htop, Bool.and_true]
  refine ⟨hidx, q, hq, ?_, fun hb => ?_⟩
  · rw [Record.flagged, hflag, uncovered, hat]
    by_cases hnew : (s.col c).stack.dropLast.getLast? = some g
    · have hsame : n = (s.col c).stack.dropLast.length - 1 := by
        refine (List.getElem?_inj (by simpa using hlt)
          ((stack_idx_nodup (hs.bayFits c)).of_map.sublist (List.dropLast_sublist _))).1 ?_
        rw [hn, ← hnew, List.getLast?_eq_getElem?]
      have hlast : ¬ 0 < (s.col c).stack.length - 1 - 1 - n := by
        rw [List.length_dropLast] at hsame
        omega
      rw [if_pos ⟨hnew, hc⟩, decide_eq_false hlast, Bool.and_false]
    · have hlast : 0 < (s.col c).stack.length - 1 - 1 - n := by
        by_contra hle
        refine hnew ?_
        rw [List.getLast?_eq_getElem?, ← hn, List.length_dropLast]
        congr 1
        omega
      rw [if_neg fun e => hnew e.1, decide_eq_true hlast, Bool.and_true, ← hbur]
  · rw [hflag, Bool.and_eq_true] at hb
    rw [hbur, hb.1]

theorem gone_entry (hsf : r.strandedFrom = some .lifting) (o : Retirement) (hi : i ≠ h.idx) :
    (refreshStack c (carriedAway h o c s)).entry i = { s.entry i with live := (s.live i).map (uncovered s c i) } := by
  have hlive : (carriedAway h o c s).live i = s.live i := by rw [carriedAway_live hx, if_neg hi.symm]
  have hentry : (carriedAway h o c s).entry i = s.entry i := by rw [carriedAway_entry hx, if_neg hi.symm]
  rw [refreshStack_entry (f := uncovered s c i) (fun x hxm hxi q hq => ?_) (fun hno q hq => ?_), hentry, hlive]
  · rw [carriedAway_stack] at hxm
    obtain ⟨-, p, hp, hflag, -⟩ := carriedAway_flagged hs hx hsf o hxm
    rw [hlive, ← hxi] at hq
    cases hq.symm.trans (recIn_live hp).1
    rw [hflag, hxi]
  · refine if_neg fun e => hno (s.handleAt i) ?_ rfl
    rw [carriedAway_stack]
    exact List.mem_of_getLast? e.1

omit hs in
theorem gone_entry_self (o : Retirement) : (refreshStack c (carriedAway h o c s)).entry h.idx =
    ⟨h.gen + 1, none, some ⟨h, o, r.tag, c⟩⟩ := by
  have hlive : (carriedAway h o c s).live h.idx = none := by rw [carriedAway_live hx, if_pos rfl]
  rw [refreshStack_entry (f := id) (fun x _ _ q hq => ?_) fun _ _ _ => rfl]
  · rw [hlive, carriedAway_entry hx, if_pos rfl]
    rfl
  · rw [hlive] at hq
    cases hq

/-- R17: no record comes to be buried by a pop. -/
theorem gone_notice (hsf : r.strandedFrom = some .lifting) (o : Retirement) :
    (refreshStack c (carriedAway h o c s)).notice = s.notice := by
  have hkept : (carriedAway h o c s).notice = s.notice :=
    (retire_notice h.idx o (popStack c s)).trans (popStack_notice c s)
  rw [refreshStack_notice, hkept, carriedAway_stack, List.find?_eq_none.2]
  · rfl
  · intro g hg
    obtain ⟨hidx, q, hq, -, hbur⟩ := carriedAway_flagged hs hx hsf o hg
    rw [State.newlyBuried, carriedAway_live hx, if_neg hidx, (recIn_live hq).1, Option.any_some]
    cases hb : (carriedAway h o c s).isBuried q with
    | false => simp
    | true => simp [hbur hb]
  · rw [carriedAway_stack]
    exact (stack_idx_nodup (hs.bayFits c)).sublist ((List.dropLast_sublist _).map _)
  · intro g hg
    rw [carriedAway_stack] at hg
    obtain ⟨hidx, -⟩ := carriedAway_flagged hs hx hsf o hg
    rw [State.handleAt, carriedAway_entry hx, if_neg hidx]
    exact handleAt_of_mem_stack hs ((List.dropLast_sublist _).subset hg)
end

theorem ResolvedOn.of_gone (hx : Stranding s c h r) (o : Retirement) :
    ResolvedOn c s (refreshStack c (carriedAway h o c s)) :=
  ((ResolvedOn.of_pop c s).trans (.of_retire (popped_stranding_live hx) (by
    rw [(recIn_live hx.record).2.2]; exact hx.waits) o)).trans (.of_handoff (refreshStack_only c _))

/-! ### The order of checks (R151 to R154) -/

theorem judgeSurvey_outOfRange (hcol : 15 < col.toNat) : judgeSurvey k col tags s = (s, .notYours) := by
  rw [judgeSurvey, readCol_none hcol]

section
variable (hcol : col.toNat = c.val)
include hcol

theorem judgeSurvey_undesignated (hd : s.surveyor c ≠ some k) : judgeSurvey k col tags s = (s, .notYours) := by
  rw [judgeSurvey, readCol_eq hcol]
  exact if_pos (.inr hd)

theorem judgeSurvey_unlocked (hl : ¬ ∃ l ∈ s.lockOf c, l.holder = k ∧ l.hold = .survey) :
    judgeSurvey k col tags s = (s, .notYours) := by
  have hany : (s.lockOf c).any (fun l => l.holder = k && l.hold = .survey) = false := by
    rw [Option.any_eq_false]
    intro l hlo
    simpa using fun hk hw => hl ⟨l, hlo, hk, hw⟩
  rw [judgeSurvey, readCol_eq hcol]
  exact (ite_eq_left_iff.2 fun _ => if_pos hany)

theorem judgeSurvey_surveys (hsus : (s.col c).service = .suspect) (hd : s.surveyor c = some k)
    (hl : ∃ l ∈ s.lockOf c, l.holder = k ∧ l.hold = .survey) : judgeSurvey k col tags s =
      match resolution c tags s with
      | some f => (matchSurvey c f s, .matched)
      | none => if s.survey.box.isNone then (recordMismatch c k tags s, .recorded) else (endLock c s, .boxFull) := by
  have hany : (s.lockOf c).any (fun l => l.holder = k && l.hold = .survey) ≠ false := by
    obtain ⟨l, hlo, hk, hw⟩ := hl
    rw [Option.mem_def.1 hlo]
    simp [hk, hw]
  rw [judgeSurvey, readCol_eq hcol]
  exact (if_neg (not_or.2 ⟨not_not.2 hsus, not_not.2 hd⟩)).trans (if_neg hany)
end

/-- R154: a mismatch recorded before the lock ends and FAULT is raised. -/
abbrev boxed (c : Col) (k : Slot) (tags : List Tag) (s : State) : State :=
  ((s.setSurvey { s.survey with box := some ⟨c, k, tags⟩ }).setCol c { s.col c with service := .fault }).setSurveyor c none

theorem recordMismatch_eq (c : Col) (k : Slot) (tags : List Tag) (s : State) :
    recordMismatch c k tags s = raise .fault (endLock c (boxed c k tags s)) := rfl

theorem setSurvey_only (v : SurveyUnit) (s : State) : OnlyChanges [.survey] s (s.setSurvey v) :=
  ⟨rfl, rfl, fun p h => by cases p <;> simp at h <;> rfl⟩

theorem boxed_only (c : Col) (k : Slot) (tags : List Tag) (s : State) :
    OnlyChanges [.columns, .survey] s (boxed c k tags s) :=
  ((setSurvey_only _ s).mono (by decide)).trans
    (((setCol_only c _ _).mono (by decide)).trans ((setSurveyor_only c none _).mono (by decide)))

theorem recordMismatch_only (c : Col) (k : Slot) (tags : List Tag) (s : State) :
    OnlyChanges [.columns, .notice, .survey, .lock] s (recordMismatch c k tags s) :=
  ((boxed_only c k tags s).mono (by decide)).trans
    (((endLock_only c _).mono (by decide)).trans ((raise_only .fault _).mono (by decide)))

theorem recordMismatch_lock (c : Col) (k : Slot) (tags : List Tag) (s : State) :
    (recordMismatch c k tags s).lock = (endLock c s).lock := rfl

theorem recordMismatch_tables (c : Col) (k : Slot) (tags : List Tag) (s : State) :
    (∀ d, (recordMismatch c k tags s).col d = if c = d then { s.col d with service := .fault } else s.col d) ∧
    (∀ d, (recordMismatch c k tags s).surveyor d = if c = d then none else s.surveyor d) ∧
    (recordMismatch c k tags s).survey.box = some ⟨c, k, tags⟩ ∧
    (recordMismatch c k tags s).notice = afterRaising 2 s.notice := by
  refine ⟨fun d => ?_, fun d => ?_, rfl, rfl⟩
  · rw [recordMismatch_eq, raise_col, endLock_col, setSurveyor_col, setCol_col_if]
    split
    · next e => rw [← e]
    · rfl
  · rw [recordMismatch_eq, raise_surveyor, endLock_surveyor, setSurveyor_surveyor_if]
    rfl

/-! ### SURVEY as a command -/

/-- R151: the slot holds the column's lock for its survey. -/
abbrev Surveys (s : State) (c : Col) (k : Slot) : Prop := ∃ l ∈ s.lockOf c, l.holder = k ∧ l.hold = .survey

section
variable (hs : Coherent s) (hrep : Reports s k st) (hw : ∀ d, ∀ e ∈ s.waitsOf d, e.slot ≠ k) (hlen : tags.length ≤ 6)
include hrep hw hlen

theorem judge_survey : judgeRequest k (.survey col tags) (heard k st s) = judgeSurvey k col tags (heard k st s) :=
  judge_heard s hrep (decide_eq_false (Nat.not_lt.2 hlen)) fun _ => hw

theorem refuses_survey {v : Verdict} (hj : judgeSurvey k col tags (heard k st s) = (heard k st s, v)) :
    Refuses s (.survey st col tags) k st v :=
  refuses_of_judge s rfl hrep.1 hrep.2.2 ((judge_survey hrep hw hlen).trans hj)

variable (hcol : col.toNat = c.val) (hsus : (s.col c).service = .suspect) (hd : s.surveyor c = some k) (hl : Surveys s c k)
include hcol hsus hd hl

/-- R153: a matched survey, given what its resolution makes of the tables. -/
theorem takes_matched {changes : State → Prop} (hf : resolution c tags (heard k st s) = some f)
    (hu : ResolvedOn c (heard k st s) (f (heard k st s)))
    (hch : ∀ u, u.handoff = (f (heard k st s)).handoff → u.notice = (f (heard k st s)).notice →
      u.manifest = (f (heard k st s)).manifest → (u.col c).stack = ((f (heard k st s)).col c).stack → changes u) :
    Takes s (.survey st col tags) k st .matched [.columns, .handoff, .manifest, .notice, .survey] fun u =>
      Settled c s u ∧ changes u := by
  have hj := judgeSurvey_surveys (s := heard k st s) (tags := tags) hcol hsus hd hl
  rw [hf] at hj
  have hset := hu.settled
  refine takes_of_judge s rfl hrep.1 hrep.2.2 ((judge_survey hrep hw hlen).trans hj)
    ((hu.rest.mono (by decide)).trans (((settleColumn_only c _).mono (by decide)).trans ((endLock_only c _).mono (by decide))))
    ?_ (fun j => hu.marks j) hu.limits ⟨hset, hch _ rfl rfl rfl ?_⟩
  · rw [matchSurvey, endLock_line, settleColumn_line, hu.rest.line (by decide)]
  · show ((endLock c (settleColumn c (f (heard k st s)))).col c).stack = _
    rw [endLock_col, settleColumn_col, if_pos rfl]

theorem takes_recorded (hf : resolution c tags (heard k st s) = none) (hbox : s.survey.box = none) :
    Takes s (.survey st col tags) k st .recorded [.columns, .notice, .survey] fun u =>
      (u.lockOf c = none ∧ u.waitsOf c = s.waitsOf c ∧ SameLocksBut c s u) ∧ u.survey.box = some ⟨c, k, tags⟩ ∧
      u.surveyor c = none ∧ (∀ d, d ≠ c → u.surveyor d = s.surveyor d) ∧ SameColumnsBut c s u ∧
      u.col c = { s.col c with service := .fault } ∧ u.notice = afterRaising 2 s.notice := by
  have hj := judgeSurvey_surveys (s := heard k st s) (tags := tags) hcol hsus hd hl
  rw [hf, heard_survey, hbox] at hj
  have hlock := recordMismatch_lock c k tags (heard k st s)
  obtain ⟨hcolumn, hdesignation, hentry, hnotice⟩ := recordMismatch_tables c k tags (heard k st s)
  refine takes_of_judge s rfl hrep.1 hrep.2.2 ((judge_survey hrep hw hlen).trans hj)
    ((recordMismatch_only c k tags _).mono (by decide)) ((recordMismatch_only c k tags _).line (by decide))
    (fun j => (mark_congr hlock j).trans rfl) (by rw [hlock]; exact ⟨rfl, rfl, rfl⟩) ?_
  simp only [SameLocksBut, SameColumnsBut, setMark_lockOf, setVerdict_lockOf, setMark_waitsOf, setVerdict_waitsOf,
    setMark_survey, setVerdict_survey, setMark_surveyor, setVerdict_surveyor, setMark_col, setVerdict_col, setMark_notice,
    setVerdict_notice]
  simp only [lockOf_congr hlock, waitsOf_congr hlock, endLock_lockOf, endLock_waitsOf]
  refine ⟨⟨if_pos trivial, rfl, fun d hd => ⟨if_neg hd.symm, rfl⟩⟩, hentry, (hdesignation c).trans (if_pos rfl),
    fun d hd => (hdesignation d).trans (if_neg hd.symm), fun d hd => (hcolumn d).trans (if_neg hd.symm),
    (hcolumn c).trans (if_pos rfl), hnotice⟩

theorem takes_boxFull (hf : resolution c tags (heard k st s) = none) (hbox : s.survey.box.isSome) :
    Takes s (.survey st col tags) k st .boxFull [] fun u =>
      u.lockOf c = none ∧ u.waitsOf c = s.waitsOf c ∧ SameLocksBut c s u := by
  have hj := judgeSurvey_surveys (s := heard k st s) (tags := tags) hcol hsus hd hl
  rw [hf, heard_survey, Option.isNone_eq_false_iff.2 hbox] at hj
  refine takes_of_judge s rfl hrep.1 hrep.2.2 ((judge_survey hrep hw hlen).trans hj) (endLock_only c _) rfl
    (fun _ => rfl) ⟨rfl, rfl, rfl⟩ ⟨?_, rfl, fun d hd => ⟨?_, rfl⟩⟩
  · rw [setMark_lockOf, setVerdict_lockOf, endLock_lockOf, if_pos rfl]
  · rw [setMark_lockOf, setVerdict_lockOf, endLock_lockOf, if_neg hd.symm, heard_lockOf]

/-! ### The cases of R152 -/

variable (hx : Stranding (heard k st s) c h r)
include hs hx

theorem takes_returned (hsf : r.strandedFrom = some .placing) (ht : tags = (s.stackTags c).reverse)
    (hret : s.placementReturns c h.idx r = true) :
    Takes s (.survey st col tags) k st .matched [.columns, .handoff, .manifest, .notice, .survey] fun u =>
      Settled c s u ∧ PlainlyResolved c h s u ∧ SameCounts s u ∧
        u.entry h.idx = { s.entry h.idx with live := some { r with state := .reserved, strandedFrom := none } } := by
  have hv := coherent_heard hs k st
  have hf := (resolution_placing hv hx hsf).trans (if_pos ht)
  have ho := reserveRecord_only h.idx (heard k st s)
  have hplain : PlainlyResolved c h (heard k st s) (reserveRecord h.idx (heard k st s)) :=
    plainlyResolved_of_handoff ho fun i hi => by rw [reserved_entry hv hx hsf, if_neg hi.symm]
  have hsame : resolveAbsentPlacement h.idx ((heard k st s).placementReturns c h.idx r) = reserveRecord h.idx := by
    funext u
    rw [heard_placementReturns, hret]
    rfl
  rw [hsame] at hf
  refine takes_matched hrep hw hlen hcol hsus hd hl hf (.of_handoff (ho.mono (by decide)))
    fun u hh hn hm hst => ⟨hplain.of_same hh hn hm hst, ?_, ?_⟩
  · rw [SameCounts, hh]
    exact reserveRecord_counts (heard k st s) h.idx
  · rw [entry_congr hh, reserved_entry hv hx hsf, if_pos rfl]
    rfl

theorem takes_unplaced (hsf : r.strandedFrom = some .placing) (ht : tags = (s.stackTags c).reverse)
    (hret : s.placementReturns c h.idx r = false) :
    Takes s (.survey st col tags) k st .matched [.columns, .handoff, .manifest, .notice, .survey] fun u =>
      Settled c s u ∧ PlainlyResolved c h s u ∧
        u.entry h.idx = ⟨h.gen + 1, none, some ⟨h, .unplaced, r.tag, c⟩⟩ ∧
          u.handoff.freeCount = s.handoff.freeCount + 1 := by
  have hv := coherent_heard hs k st
  have hf := (resolution_placing hv hx hsf).trans (if_pos ht)
  have hsame : resolveAbsentPlacement h.idx ((heard k st s).placementReturns c h.idx r) = retire h.idx .unplaced := by
    funext u
    rw [heard_placementReturns, hret]
    rfl
  rw [hsame] at hf
  have hlive := (recIn_live hx.record).1
  have hwaits : (heard k st s).waitsOf r.column = [] := (recIn_live hx.record).2.2 ▸ hx.waits
  refine takes_matched hrep hw hlen hcol hsus hd hl hf (.of_retire hlive hwaits .unplaced)
    fun u hh hn hm hst => ⟨(retired_plainly hx).of_same hh hn hm hst, ?_, ?_⟩
  · rw [entry_congr hh, retired_entry hx, if_pos rfl]
  · rw [hh]
    exact (retire_counts _ hlive .unplaced).1

theorem takes_placed (hsf : r.strandedFrom = some .placing) (ht : tags = r.tag :: (s.stackTags c).reverse) :
    Takes s (.survey st col tags) k st .matched [.columns, .handoff, .manifest, .notice, .survey] fun u =>
      Settled c s u ∧ SameCounts s u ∧ u.manifest = s.manifest ∧
        (u.col c).stack = (s.col c).stack ++ [h] ∧ u.notice = noticeAfterPush s c ∧
        u.entry h.idx = { s.entry h.idx with
          live := some { r with state := .parked, strandedFrom := none, level := some (s.col c).stack.length } } ∧
        ∀ i, i ≠ h.idx → u.entry i = { s.entry i with live := (s.live i).map (underPush c) } := by
  have hv := coherent_heard hs k st
  have hne : tags ≠ ((heard k st s).stackTags c).reverse := by
    rw [ht, heard_stackTags]
    exact fun e => by simpa using congrArg List.length e
  have hf := (resolution_placing hv hx hsf).trans ((if_neg hne).trans (if_pos ht))
  refine takes_matched hrep hw hlen hcol hsus hd hl hf
    ((ResolvedOn.of_push h.idx c _).trans (.of_handoff (refreshStack_only c _)))
    fun u hh hn hm hst => ⟨?_, ?_, ?_, ?_, ?_, fun i hi => ?_⟩
  · rw [SameCounts, hh]
    exact sameCounts_trans (pushRecord_counts (s := heard k st s) h.idx c) (refreshStack_counts c _)
  · rw [hm, refreshStack_manifest, pushRecord_manifest, heard_manifest]
  · rw [hst, refreshStack_col, pushed_stack hx, heard_col]
  · rw [hn, placed_notice hv hx hsf]
    rfl
  · rw [entry_congr hh, placed_entry_self hv hx hsf]
    rfl
  · rw [entry_congr hh, placed_entry hv hx hi]
    rfl

theorem takes_promised (hsf : r.strandedFrom = some .lifting) (ht : tags = (s.stackTags c).reverse)
    (hlive : s.concernedLive c r.collector = true) :
    Takes s (.survey st col tags) k st .matched [.columns, .handoff, .manifest, .notice, .survey] fun u =>
      Settled c s u ∧ PlainlyResolved c h s u ∧ SameCounts s u ∧
        u.entry h.idx = { s.entry h.idx with live := some { r with state := .promised, strandedFrom := none } } := by
  have hv := coherent_heard hs k st
  have hf := (resolution_lifting hv hx hsf).trans (if_pos ht)
  obtain ⟨j, hj, -⟩ := concernedLive_some hlive
  have hsame : resolveLiftInPlace h.idx r.collector ((heard k st s).concernedLive c r.collector) = promiseRecord h.idx j := by
    funext u
    rw [heard_concernedLive, hlive, hj]
    rfl
  rw [hsame] at hf
  refine takes_matched hrep hw hlen hcol hsus hd hl hf (.of_handoff (promiseRecord_only h.idx j _))
    fun u hh hn hm hst => ⟨(promised_plainly hv hx hsf hj).of_same hh hn hm hst, ?_, ?_⟩
  · rw [SameCounts, hh]
    exact promiseRecord_counts (heard k st s) h.idx j
  · rw [entry_congr hh, promised_entry hv hx hsf hj, if_pos rfl]
    rfl

theorem takes_parked (hsf : r.strandedFrom = some .lifting) (ht : tags = (s.stackTags c).reverse)
    (hdead : s.concernedLive c r.collector = false) :
    Takes s (.survey st col tags) k st .matched [.columns, .handoff, .manifest, .notice, .survey] fun u =>
      Settled c s u ∧ PlainlyResolved c h s u ∧ SameCounts s u ∧
        u.entry h.idx = { s.entry h.idx with
          live := some { r with state := .parked, collector := none, strandedFrom := none } } := by
  have hv := coherent_heard hs k st
  have hf := (resolution_lifting hv hx hsf).trans (if_pos ht)
  have ho := parkRecord_only h.idx (heard k st s)
  have hplain : PlainlyResolved c h (heard k st s) (parkRecord h.idx (heard k st s)) :=
    plainlyResolved_of_handoff ho fun i hi => by rw [parked_entry hv hx, if_neg hi.symm]
  have hsame : resolveLiftInPlace h.idx r.collector ((heard k st s).concernedLive c r.collector) = parkRecord h.idx := by
    funext u
    rw [heard_concernedLive, hdead]
    cases r.collector <;> rfl
  rw [hsame] at hf
  refine takes_matched hrep hw hlen hcol hsus hd hl hf (.of_handoff (ho.mono (by decide)))
    fun u hh hn hm hst => ⟨hplain.of_same hh hn hm hst, ?_, ?_⟩
  · rw [SameCounts, hh]
    exact parkRecord_counts (heard k st s) h.idx
  · rw [entry_congr hh, parked_entry hv hx, if_pos rfl]
    rfl

theorem takes_gone (hm : MapInForm s) (hsf : r.strandedFrom = some .lifting) (hne : (s.stackTags c).reverse ≠ [])
    (ht : tags = (s.stackTags c).reverse.tail)
    (ho : o = if s.concernedLive c r.collector then .delivered else .carriedOff) :
    Takes s (.survey st col tags) k st .matched [.columns, .handoff, .manifest, .notice, .survey] fun u =>
      Settled c s u ∧ ((u.col c).stack = (s.col c).stack.dropLast ∧
        u.notice = s.notice ∧ u.entry h.idx = ⟨h.gen + 1, none, some ⟨h, o, r.tag, c⟩⟩ ∧
        u.handoff.freeCount = s.handoff.freeCount + 1 ∧
        ∀ i, i ≠ h.idx → u.entry i = { s.entry i with live := (s.live i).map (uncovered s c i) }) ∧
      u.manifest = if o = .delivered then { s.manifest with map := consumedMap s r.tag } else s.manifest := by
  have hv := coherent_heard hs k st
  have hneq : tags ≠ ((heard k st s).stackTags c).reverse := by
    rw [ht, heard_stackTags]
    intro e
    have hlength := congrArg List.length e
    rw [List.length_tail] at hlength
    have := List.length_pos_iff.2 hne
    omega
  have hf := (resolution_lifting hv hx hsf).trans ((if_neg hneq).trans (if_pos ⟨ht, hne⟩))
  have hsame : refreshStack c (resolveLiftGone h.idx ((heard k st s).concernedLive c r.collector) (popStack c (heard k st s))) =
      refreshStack c (carriedAway h o c (heard k st s)) := by
    rw [heard_concernedLive, ho]
    rfl
  refine takes_matched hrep hw hlen hcol hsus hd hl hf (hsame ▸ .of_gone hx o) fun u hh hn hm' hst => ?_
  rw [hsame] at hh hn hm' hst
  refine ⟨⟨?_, ?_, ?_, ?_, fun i hi => ?_⟩, ?_⟩
  · rw [hst, refreshStack_col, carriedAway_stack, heard_col]
  · rw [hn, gone_notice hv hx hsf, heard_notice]
  · rw [entry_congr hh, gone_entry_self hx]
  · rw [hh, (refreshStack_counts c _).1, carriedAway_free hx, heard_handoff]
  · rw [entry_congr hh, gone_entry hv hx hsf o hi]
    rfl
  · rw [hm', refreshStack_manifest, carriedAway_manifest (s := heard k st s) hx hm]
    rfl
end

/-- R152: a list that fits no row is a mismatch. -/
theorem resolution_mismatch (hs : Coherent s) (hx : Stranding s c h r) (he : tags ≠ (s.stackTags c).reverse)
    (hp : r.strandedFrom = some .placing → tags ≠ r.tag :: (s.stackTags c).reverse)
    (hn : r.strandedFrom ≠ some .placing → tags ≠ (s.stackTags c).reverse.tail ∨ (s.stackTags c).reverse = []) :
    resolution c tags s = none := by
  rcases strandedFrom_cases hs hx with hsf | hsf
  · rw [resolution_placing hs hx hsf, if_neg he, if_neg (hp hsf)]
  · rw [resolution_lifting hs hx hsf, if_neg he, if_neg]
    rintro ⟨ht, hne⟩
    rcases hn (by simp [hsf]) with h | h
    · exact h ht
    · exact hne h

/-- Settles O49: the order of checks, the ways of R152 one by one, and a mismatch by the box. -/
theorem surveyJudged : Obligations.SurveyJudged := by
  intro s k st col tags hs hm hrep hw hlen cmd
  refine ⟨fun hcol => refuses_survey hrep hw hlen (judgeSurvey_outOfRange hcol), fun c hcol => ?_⟩
  intro surveys
  refine ⟨?_, ?_⟩
  · rintro (hd | hl)
    · exact refuses_survey hrep hw hlen (judgeSurvey_undesignated (s := heard k st s) hcol hd)
    · exact refuses_survey hrep hw hlen (judgeSurvey_unlocked (s := heard k st s) hcol hl)
  intro hd hl
  have hv := coherent_heard hs k st
  obtain ⟨l, hlock, -, hsurvey⟩ := id hl
  obtain ⟨hsus, -⟩ := (hs.locks c l hlock).2 hsurvey
  obtain ⟨-, hstrandings⟩ := hs.strandings
  obtain ⟨hstranded, -, hrecord⟩ := hstrandings c
  obtain ⟨h, hh⟩ := Option.isSome_iff_exists.1 (hstranded.2 (.inl hsus))
  obtain ⟨r, hr, -, -⟩ := hrecord h hh
  have hx : Stranding (heard k st s) c h r := (relay_of_coherent hv).stranding hh hr
  have hx0 : Stranding s c h r := (relay_of_coherent hs).stranding hh hr
  refine ⟨h, r, hh, hr, ?_⟩
  intro expected placed isLive free settled plain matched mismatch
  have lifted : ¬ placed → r.strandedFrom = some .lifting := (strandedFrom_cases hs hx0).resolve_left
  have hnone : mismatch → resolution c tags (heard k st s) = none := fun ⟨he, hp, hn⟩ => resolution_mismatch hv hx he hp hn
  have hdead : ∀ {o}, ¬ isLive o → s.concernedLive c o = false := fun hno => Bool.eq_false_iff.2 (mt concernedLive_iff.1 hno)
  have hreturns := placementReturns_iff hx0
  refine ⟨fun hp ht => ⟨fun hret => ?_, fun hret => ?_⟩, fun hp ht => ?_, fun hp ht => ⟨fun hlv => ?_, fun hlv => ?_⟩,
    fun hp hne ht => ?_, fun hmis hbox => ?_, fun hmis hbox => ?_⟩
  · exact takes_returned hs hrep hw hlen hcol hsus hd hl hx hp ht (hreturns.2 hret)
  · refine takes_unplaced hs hrep hw hlen hcol hsus hd hl hx hp ht (Bool.eq_false_iff.2 fun hyes => ?_)
    obtain ⟨j, hj, hfree⟩ := hreturns.1 hyes
    exact hret j hj hfree
  · exact takes_placed hs hrep hw hlen hcol hsus hd hl hx hp ht
  · exact takes_promised hs hrep hw hlen hcol hsus hd hl hx (lifted hp) ht (concernedLive_iff.2 hlv)
  · exact takes_parked hs hrep hw hlen hcol hsus hd hl hx (lifted hp) ht (hdead hlv)
  · have hgone := takes_gone hs hrep hw hlen hcol hsus hd hl hx hm (lifted hp) hne ht rfl
    refine ⟨fun hlv => ?_, fun hlv => ?_⟩
    · rwa [concernedLive_iff.2 hlv] at hgone
    · rwa [hdead hlv] at hgone
  · exact takes_recorded hrep hw hlen hcol hsus hd hl (hnone hmis) hbox
  · exact takes_boxFull hrep hw hlen hcol hsus hd hl (hnone hmis) hbox

end Sys2Proof.Machine
end

section
/-! RESTACK (R157): the records made for the listed tags that have none, each with its index. -/

namespace Sys2Proof.Machine

open Sys2Proof Sys2Proof.Safety

variable {s t u v : State} {c : Col} {i j : RecIdx} {l : List RecIdx} {tags : List Tag} {tag : Tag}

/-- The free indices, lowest first (R24). -/
def State.freePlaces (s : State) : List RecIdx := allRecs.filter fun i => (s.live i).isNone

theorem freePlaces_nodup (s : State) : s.freePlaces.Nodup := (List.nodup_finRange 64).filter _

theorem mem_freePlaces : i ∈ s.freePlaces ↔ s.live i = none := by
  rw [State.freePlaces, List.mem_filter, Option.isNone_iff_eq_none, and_iff_right (mem_allRecs i)]

/-- R165: UNLISTED raised for one record. -/
def unlistedRaised (n : NoticeUnit) (h : Handle) : NoticeUnit :=
  afterRaising 6 { n with unlisted := some (n.unlisted.getD h) }

theorem unlistedRaised_again (n : NoticeUnit) (g h : Handle) : unlistedRaised (unlistedRaised n g) h = unlistedRaised n g := by
  simp [unlistedRaised, afterRaising, BitVec.or_assoc]

/-- R52: the notice unit after UNLISTED has been raised for a record, if there is one to raise it for. -/
def afterUnlisted (n : NoticeUnit) (o : Option Handle) : NoticeUnit := o.elim n (unlistedRaised n)

theorem factsOf_unlisted (s : State) (tag : Tag) : (s.factsOf tag).2 = (s.manifest.find tag).isNone := by
  unfold State.factsOf
  cases s.manifest.find tag <;> rfl

theorem factsOf_congr (hm : t.manifest = s.manifest) (hp : t.placement = s.placement) (ha : t.age = s.age) (tag : Tag) :
    t.factsOf tag = s.factsOf tag := by rw [State.factsOf, State.factsOf, hm, hp, ha]

/-- R157: the record made for a listed tag that has none, its level not yet written. -/
def foundRecord (c : Col) (s : State) (tag : Tag) : Record := newRecord tag (s.factsOf tag) .parked none c none true

section
variable (hf : s.freePlaces = i :: l)
include hf

theorem makeFound_eq (c : Col) (tag : Tag) : makeFound c tag s =
    noteUnlisted i (s.manifest.find tag).isNone (makeAt i (foundRecord c s tag) s) := by
  have hfirst : s.firstFree = some i := by
    rw [State.firstFree, ← List.head?_filter]
    exact congrArg List.head? hf
  rw [makeFound, hfirst, ← factsOf_unlisted]
  rfl

theorem makeFound_only (c : Col) (tag : Tag) : OnlyChanges [.handoff, .notice] s (makeFound c tag s) := by
  rw [makeFound_eq hf]
  exact ((makeAt_only ..).mono (by decide)).trans ((noteUnlisted_only ..).mono (by decide))

theorem makeFound_entry (c : Col) (tag : Tag) (j : RecIdx) : (makeFound c tag s).entry j =
    if i = j then ⟨(s.entry j).gen, some (foundRecord c s tag), none⟩ else s.entry j := by
  rw [makeFound_eq hf, noteUnlisted_entry, makeAt_entry]

theorem makeFound_order (c : Col) (tag : Tag) : (makeFound c tag s).handoff.order = s.handoff.order ++ [i] := by
  rw [makeFound_eq hf, noteUnlisted_handoff]
  rfl

theorem makeFound_notice (c : Col) (tag : Tag) : (makeFound c tag s).notice =
    if (s.manifest.find tag).isNone then unlistedRaised s.notice (s.handleAt i) else s.notice := by
  have hhandle : (makeAt i (foundRecord c s tag) s).handleAt i = s.handleAt i := by
    rw [State.handleAt, makeAt_entry, if_pos rfl]
    rfl
  have hnotice : (makeAt i (foundRecord c s tag) s).notice = s.notice := (makeAt_only ..).notice (by decide)
  rw [makeFound_eq hf, noteUnlisted]
  split
  · rw [raiseUnlisted_notice, hhandle, hnotice]
    rfl
  · exact hnotice

theorem makeFound_freePlaces (c : Col) (tag : Tag) : (makeFound c tag s).freePlaces = l := by
  have hnodup := hf ▸ freePlaces_nodup s
  have hfilter : (makeFound c tag s).freePlaces = s.freePlaces.filter fun j => decide (i ≠ j) := by
    rw [State.freePlaces, State.freePlaces, List.filter_filter]
    refine List.filter_congr fun j _ => ?_
    rw [live_def, makeFound_entry hf]
    by_cases hij : i = j
    · simp [hij]
    · simp [hij, live_def]
  rw [hfilter, hf, List.filter_cons_of_neg (by simp)]
  exact List.filter_eq_self.2 fun j hj => decide_eq_true fun e => (List.nodup_cons.1 hnodup).1 (e ▸ hj)
end

/-- R157, R52: `v` is `s` after records have been made for some tags, each at the index it is listed with. -/
structure MadeAt (c : Col) (s v : State) (places : List (RecIdx × Tag)) : Prop where
  rest : OnlyChanges [.handoff, .notice] s v
  kept : ∀ j, j ∉ places.map Prod.fst → v.entry j = s.entry j
  made : ∀ p ∈ places, v.entry p.1 = ⟨(s.entry p.1).gen, some (foundRecord c s p.2), none⟩
  order : v.handoff.order = s.handoff.order ++ places.map Prod.fst
  notice : v.notice = afterUnlisted s.notice
    ((places.find? fun p => (s.manifest.find p.2).isNone).map fun p => s.handleAt p.1)

/-- R157: the new records take the lowest free indices, in list order. -/
theorem makeAll_madeAt (hlen : tags.length ≤ s.freePlaces.length) :
    MadeAt c s (forEach tags (makeFound c) s) (s.freePlaces.zip tags) := by
  induction tags generalizing s with
  | nil =>
    rw [List.zip_nil_right]
    exact ⟨.refl _ s, fun _ _ => rfl, nofun, (List.append_nil _).symm, rfl⟩
  | cons tag tags ih =>
    cases hf : s.freePlaces with
    | nil => rw [hf] at hlen; cases hlen
    | cons i l =>
      have hnew := makeFound_freePlaces hf c tag
      have ho := makeFound_only hf c tag
      have hentry := makeFound_entry hf c tag
      have hmanifest := ho.manifest (by decide)
      have hfacts : ∀ tag', foundRecord c (makeFound c tag s) tag' = foundRecord c s tag' := fun tag' => by
        rw [foundRecord, foundRecord, factsOf_congr hmanifest (ho.placement (by decide)) (ho.age (by decide))]
      have hhandle : ∀ j, (makeFound c tag s).handleAt j = s.handleAt j := fun j => by
        rw [State.handleAt, State.handleAt, hentry]
        split <;> rfl
      rw [hf, List.length_cons, List.length_cons] at hlen
      obtain ⟨hrest, hkept, hmade, horder, hnotice⟩ := ih (s := makeFound c tag s) (by rw [hnew]; omega)
      have hi : i ∉ (l.zip tags).map Prod.fst := fun hm => by
        obtain ⟨p, hp, rfl⟩ := List.mem_map.1 hm
        exact (List.nodup_cons.1 (hf ▸ freePlaces_nodup s)).1 (List.of_mem_zip hp).1
      rw [hnew] at hkept hmade horder hnotice
      rw [List.zip_cons_cons]
      refine ⟨ho.trans hrest, fun j hj => ?_, fun p hp => ?_, ?_, ?_⟩
      · rw [List.map_cons, List.mem_cons, not_or] at hj
        exact (hkept j hj.2).trans ((hentry j).trans (if_neg fun e => hj.1 e.symm))
      · rcases List.mem_cons.1 hp with rfl | hp
        · exact (hkept _ hi).trans ((hentry _).trans (if_pos rfl))
        · have hne : i ≠ p.1 := fun e => hi (e ▸ List.mem_map_of_mem hp)
          have hgen := congrArg Entry.gen (hentry p.1)
          rw [if_neg hne] at hgen
          exact (hmade p hp).trans (by rw [hgen, hfacts])
      · exact horder.trans (by rw [makeFound_order hf, List.append_assoc]; rfl)
      · refine hnotice.trans ?_
        rw [makeFound_notice hf, hmanifest, List.find?_cons]
        simp only [hhandle]
        cases (s.manifest.find tag).isNone with
        | false => rfl
        | true =>
          cases (l.zip tags).find? fun p => (s.manifest.find p.2).isNone with
          | none => rfl
          | some p => exact unlistedRaised_again _ _ _

end Sys2Proof.Machine
end

section
/-! RESTACK (R157): what becomes of the records that named the column, before its stack is rewritten. -/

namespace Sys2Proof.Machine

open Sys2Proof Sys2Proof.Safety

variable {s t u v : State} {c d : Col} {i j : RecIdx} {k : Slot} {h g : Handle} {r q p : Record} {l : List RecIdx}
  {tags : List Tag} {tag : Tag} {o : Retirement} {a : List Part}

/-! ### What every change of RESTACK leaves -/

/-- R34, R72: `u` is `s` with no record added to the order, and nothing of the lock unit changed but wait places. -/
structure Thins (s u : State) : Prop where
  rest : OnlyChanges [.columns, .handoff, .lock, .manifest, .notice, .survey] s u
  lock : u.lock = { s.lock with waits := u.lock.waits }
  order : u.handoff.order.Sublist s.handoff.order

theorem Thins.refl (s : State) : Thins s s := ⟨.refl _ s, rfl, .refl _⟩

theorem Thins.trans (h1 : Thins s t) (h2 : Thins t u) : Thins s u :=
  ⟨h1.rest.trans h2.rest, by rw [h2.lock, h1.lock], h2.order.trans h1.order⟩

theorem Thins.of_kept (ho : OnlyChanges [.columns, .handoff, .notice, .survey] s u)
    (hc : u.handoff.order = s.handoff.order) : Thins s u :=
  ⟨ho.mono (by decide), by rw [ho.lock (by decide)], by rw [hc]⟩

theorem Thins.of_retire (i : RecIdx) (o : Retirement) (s : State) : Thins s (retire i o s) := by
  refine ⟨(retire_only i o s).mono (by decide), ?_, ?_⟩
  · cases hr : s.live i with
    | none => rw [retire_none s hr]
    | some r => rw [retire_lock s hr]; rfl
  · cases hr : s.live i with
    | none => rw [retire_none s hr]
    | some r => rw [(retire_counts s hr o).2]; exact List.filter_sublist

theorem Thins.forEach {α : Type} {f : α → State → State} (hf : ∀ a s, Thins s (f a s)) (l : List α) (s : State) :
    Thins s (forEach l f s) := by
  induction l generalizing s with
  | nil => exact .refl s
  | cons a l ih => exact (hf a s).trans (ih (f a s))

/-! ### How a record ends (R152, R157) -/

/-- R157: a record stays, changed or not, or is retired. -/
inductive Ending
  | stays (q : Record)
  | goes (o : Retirement)

/-- The index of a record that has come to its end. -/
def Entry.ended (i : RecIdx) (x : Ending) (e : Entry) : Entry :=
  match x with
  | .stays q => { e with live := some q }
  | .goes o => e.retired i o

/-- R152, R157: the end of the stranded record. -/
def strandedEnding (c : Col) (tags : List Tag) (s : State) (i : RecIdx) (r : Record) : Ending :=
  match r.strandedFrom with
  | some .placing =>
    if r.tag ∈ tags then .stays r.asParked
    else if s.placementReturns c i r then .stays { r with state := .reserved, level := none, strandedFrom := none }
    else .goes .unplaced
  | some .lifting =>
    if r.tag ∈ tags then
      if s.concernedLive c r.collector then .stays { r with state := .promised, strandedFrom := none }
      else .stays r.asParked
    else .goes (if s.concernedLive c r.collector then .delivered else .carriedOff)
  | none => .stays r

/-- The record at one index comes to its end, and nothing else changes but what its retirement takes along (R34). -/
structure Ends (i : RecIdx) (x : Ending) (v u : State) : Prop where
  thins : Thins v u
  rest : OnlyChanges [.handoff, .lock, .manifest, .notice] v u
  entry : ∀ j, u.entry j = if i = j then (v.entry j).ended j x else v.entry j
  notice : u.notice = v.notice

theorem Ends.of_map {f : Record → Record} (ho : OnlyChanges [.handoff, .notice] v u) (hc : SameCounts v u)
    (hn : u.notice = v.notice) (hr : v.live i = some r)
    (he : ∀ j, u.entry j = if i = j then { v.entry j with live := (v.live j).map f } else v.entry j) :
    Ends i (.stays (f r)) v u where
  thins := .of_kept (ho.mono (by decide)) hc.2
  rest := ho.mono (by decide)
  entry j := by
    rw [he]
    split
    · next e => rw [← e, hr]; rfl
    · rfl
  notice := hn

theorem Ends.of_retire (i : RecIdx) (o : Retirement) (v : State) : Ends i (.goes o) v (retire i o v) where
  thins := .of_retire i o v
  rest := (retire_only i o v).mono (by decide)
  entry j := by
    rw [retire_entry_eq]
    split
    · next e => rw [e]; rfl
    · rfl
  notice := retire_notice i o v

section
variable (hs : Coherent s) (hx : Stranding s c h r) (ho : OnlyChanges [.handoff, .notice] s v) (hv : v.live h.idx = some r)
include hx

theorem resolveStranded_placing (hsf : r.strandedFrom = some .placing) : resolveStranded c tags s v =
    if r.tag ∈ tags then parkRecord h.idx v else resolveAbsentPlacement h.idx (s.placementReturns c h.idx r) v := by
  simp only [resolveStranded, hx.stranded, (recIn_eq_some.1 hx.record).1, hsf]

theorem resolveStranded_lifting (hsf : r.strandedFrom = some .lifting) : resolveStranded c tags s v =
    if r.tag ∈ tags then resolveLiftInPlace h.idx r.collector (s.concernedLive c r.collector) v
    else resolveLiftGone h.idx (s.concernedLive c r.collector) v := by
  simp only [resolveStranded, hx.stranded, (recIn_eq_some.1 hx.record).1, hsf]

omit hx in
include hv in
theorem Ends.of_park : Ends h.idx (.stays r.asParked) v (parkRecord h.idx v) :=
  .of_map (f := Record.asParked) ((parkRecord_only ..).mono (by decide)) (parkRecord_counts v h.idx) (parkRecord_notice ..) hv
    (parkRecord_entry v h.idx)

include hs ho hv

/-- R152: a lift found in place keeps its level, so no depth buries it. -/
theorem Ends.of_promise (hsf : r.strandedFrom = some .lifting) (hk : r.collector = some k) :
    Ends h.idx (.stays { r with state := .promised, strandedFrom := none }) v (promiseRecord h.idx k v) := by
  have hdepth : (v.depth r).any (0 < ·) = false := by
    rw [State.depth, col_congr (ho.columns (by decide))]
    exact stranded_depth hs hx hsf
  have hends := Ends.of_map
    (f := fun r => { r with state := .promised, collector := some k, strandedFrom := none, buried := (v.depth r).any (0 < ·) })
    (promiseRecord_only h.idx k v) (promiseRecord_counts v h.idx k) (by
      rw [promiseRecord_notice, hv, Option.any_some, hdepth]
      rfl) hv (fun j => promiseRecord_entry v h.idx j k)
  rwa [hdepth, ← hk, ← stranded_not_buried hs hx] at hends

/-- R157: the stranded record is resolved as present or absent. -/
theorem resolveStranded_ends : Ends h.idx (strandedEnding c tags s h.idx r) v (resolveStranded c tags s v) := by
  rcases strandedFrom_cases hs hx with hsf | hsf
  · rw [resolveStranded_placing hx hsf]
    simp only [strandedEnding, hsf]
    split
    · exact .of_park hv
    · unfold resolveAbsentPlacement
      split
      · exact .of_map (f := fun r => { r with state := .reserved, level := none, strandedFrom := none })
          ((reserveRecord_only ..).mono (by decide)) (reserveRecord_counts v h.idx) (reserveRecord_notice ..) hv
          (reserveRecord_entry v h.idx)
      · exact .of_retire h.idx .unplaced v
  · rw [resolveStranded_lifting hx hsf]
    simp only [strandedEnding, hsf]
    split
    · cases hcl : s.concernedLive c r.collector with
      | false =>
        have hpark : resolveLiftInPlace h.idx r.collector false v = parkRecord h.idx v := by cases r.collector <;> rfl
        rw [hpark]
        exact .of_park hv
      | true =>
        obtain ⟨k, hk, -⟩ := concernedLive_some hcl
        have hpromise : resolveLiftInPlace h.idx r.collector true v = promiseRecord h.idx k v := by rw [hk]; rfl
        rw [hpromise]
        exact .of_promise hs hx ho hv hsf hk
    · exact .of_retire h.idx _ v

/-- R36: only a delivered lift takes its entry out of the manifest. -/
theorem resolveStranded_manifest (hm : MapInForm s) : (resolveStranded c tags s v).manifest =
    if r.strandedFrom = some .lifting ∧ r.tag ∉ tags ∧ ConcernedLive s c r.collector then
      { s.manifest with map := consumedMap s r.tag } else s.manifest := by
  have hmanifest := ho.manifest (by decide)
  rcases strandedFrom_cases hs hx with hsf | hsf
  · have hno : ¬ (r.strandedFrom = some .lifting ∧ r.tag ∉ tags ∧ ConcernedLive s c r.collector) := by simp [hsf]
    rw [resolveStranded_placing hx hsf, if_neg hno]
    split
    · exact (parkRecord_manifest ..).trans hmanifest
    · unfold resolveAbsentPlacement
      split
      · exact (reserveRecord_manifest ..).trans hmanifest
      · exact ((retire_only_undelivered (by decide) h.idx v).manifest (by decide)).trans hmanifest
  · rw [resolveStranded_lifting hx hsf]
    by_cases hin : r.tag ∈ tags
    · have hno : ¬ (r.strandedFrom = some .lifting ∧ r.tag ∉ tags ∧ ConcernedLive s c r.collector) := fun e => e.2.1 hin
      rw [if_pos hin, if_neg hno]
      unfold resolveLiftInPlace
      split
      · exact (promiseRecord_manifest ..).trans hmanifest
      · exact (parkRecord_manifest ..).trans hmanifest
    · rw [if_neg hin, resolveLiftGone, retire_manifest v hv]
      have hlive := concernedLive_iff (s := s) (c := c) (o := r.collector)
      have hmap : MapInForm v := by
        unfold MapInForm
        rw [hmanifest]
        exact hm
      by_cases hcl : ConcernedLive s c r.collector
      · have hyes : r.strandedFrom = some .lifting ∧ r.tag ∉ tags ∧ ConcernedLive s c r.collector := ⟨hsf, hin, hcl⟩
        rw [if_pos hyes, hlive.2 hcl, if_pos rfl, if_pos rfl, consume_map hmap, consumedMap, consumedMap, hmanifest]
      · have hno : ¬ (r.strandedFrom = some .lifting ∧ r.tag ∉ tags ∧ ConcernedLive s c r.collector) := fun e => hcl e.2.2
        rw [if_neg hno, Bool.eq_false_iff.2 (mt hlive.1 hcl), if_neg (by decide)]
        exact hmanifest
end

end Sys2Proof.Machine
end

section
/-! RESTACK (R157): each index of the handoff table when the records of the column have been sorted. -/

namespace Sys2Proof.Machine

open Sys2Proof Sys2Proof.Safety

variable {s u v : State} {c : Col} {i j : RecIdx} {h : Handle} {r q p : Record} {tags : List Tag} {tag : Tag}

/-- R157: what becomes of a record that named the column, before the stack is rewritten and the reservations trimmed. -/
def sortedEnding (c : Col) (tags : List Tag) (s : State) (i : RecIdx) (r : Record) : Ending :=
  if r.state = .stranded then strandedEnding c tags s i r
  else if r.tag ∈ tags then if r.state = .reserved then .stays r.asParked else .stays r
  else if r.state = .reserved then .stays r else .goes .missing

/-! ### The new records in place -/

theorem newPlaces_eq (ha : Restackable c tags s) : newPlaces s tags = s.freePlaces.zip (s.unknownTags tags) := by
  rw [unknownTags_eq ha.nonzero]
  rfl

theorem mem_newPlaces_fst (hi : i ∈ (newPlaces s tags).map Prod.fst) : s.live i = none := by
  obtain ⟨p, hp, rfl⟩ := List.mem_map.1 hi
  exact mem_freePlaces.1 (List.of_mem_zip hp).1

theorem not_newPlace_of_live (hr : s.live i = some r) : i ∉ (newPlaces s tags).map Prod.fst := fun hi => by
  rw [mem_newPlaces_fst hi] at hr
  cases hr

/-- The records made for the listed tags that have none. -/
abbrev withFound (c : Col) (tags : List Tag) (s : State) : State := forEach (s.unknownTags tags) (makeFound c) s

theorem withFound_madeAt (hs : Coherent s) (ha : Restackable c tags s) :
    MadeAt c s (withFound c tags s) (newPlaces s tags) := by
  rw [newPlaces_eq ha]
  refine makeAll_madeAt ?_
  have hcount : s.handoff.freeCount = s.freePlaces.length := hs.count
  exact hcount ▸ ha.room

section
variable (hs : Coherent s) (hx : Stranding s c h r) (ha : Restackable c tags s)
include hs hx ha

theorem withFound_live : (withFound c tags s).live h.idx = some r := by
  have hlive := (recIn_live hx.record).1
  rw [live_def, (withFound_madeAt hs ha).kept _ (not_newPlace_of_live hlive)]
  exact hlive

theorem withFound_ends : Ends h.idx (strandedEnding c tags s h.idx r) (withFound c tags s)
    (resolveStranded c tags s (withFound c tags s)) :=
  resolveStranded_ends hs hx (withFound_madeAt hs ha).rest (withFound_live hs hx ha)

omit hs hx ha in
/-- R34, R36: what follows the resolution of the stranded record changes records and wait places only. -/
theorem sortRecords_after (c : Col) (tags : List Tag) (s : State) : OnlyChanges [.handoff, .lock]
    (resolveStranded c tags s (withFound c tags s)) (sortRecords c tags s) :=
  (forEach_only (fun i u => retire_only_undelivered (by decide) i u) _ _).trans
    ((forEach_only (fun i u => parkRecord_only i u) _ _).mono (by decide))

theorem sortRecords_rest : OnlyChanges [.handoff, .lock, .manifest, .notice] s (sortRecords c tags s) :=
  ((withFound_madeAt hs ha).rest.mono (by decide)).trans
    ((withFound_ends hs hx ha).rest.trans ((sortRecords_after c tags s).mono (by decide)))

theorem sortRecords_notice : (sortRecords c tags s).notice = afterUnlisted s.notice
    (((newPlaces s tags).find? fun p => (s.manifest.find p.2).isNone).map fun p => s.handleAt p.1) :=
  ((sortRecords_after c tags s).notice (by decide)).trans
    ((withFound_ends hs hx ha).notice.trans (withFound_madeAt hs ha).notice)

/-- R36: a lift found gone is delivered, and nothing else touches the manifest. -/
theorem sortRecords_manifest (hm : MapInForm s) : (sortRecords c tags s).manifest =
    if r.strandedFrom = some .lifting ∧ r.tag ∉ tags ∧ ConcernedLive s c r.collector then
      { s.manifest with map := consumedMap s r.tag } else s.manifest :=
  ((sortRecords_after c tags s).manifest (by decide)).trans
    (resolveStranded_manifest hs hx (withFound_madeAt hs ha).rest (withFound_live hs hx ha) hm)

/-! ### Every index, change by change -/

theorem sortRecords_entry (j : RecIdx) : (sortRecords c tags s).entry j =
    let resolved := if h.idx = j then ((withFound c tags s).entry j).ended j (strandedEnding c tags s h.idx r)
      else (withFound c tags s).entry j
    let left := if j ∈ missingRecords c tags s then resolved.retired j .missing else resolved
    if j ∈ listedReservations c tags s then { left with live := left.live.map Record.asParked } else left := by
  have hends := withFound_ends hs hx ha
  have hmissing : (missingRecords c tags s).Nodup :=
    (stack_idx_nodup (hs.bayFits c)).sublist (List.filter_sublist.map _)
  have hlisted : (listedReservations c tags s).Nodup := recordsWhere_nodup _
  rw [sortRecords, forEach_entry (f := parkRecord) (g := fun _ e => { e with live := e.live.map Record.asParked })
    (fun i u j => parkRecord_entry u i j) hlisted, retireAll_entry hmissing, hends.entry]

theorem sortRecords_kept (hne : h.idx ≠ j) (hm : j ∉ missingRecords c tags s) (hl : j ∉ listedReservations c tags s) :
    (sortRecords c tags s).entry j = (withFound c tags s).entry j := by
  rw [sortRecords_entry hs hx ha]
  simp only [hne, hm, hl, if_false]

/-- R157: a new record, until its level is written. -/
theorem sortRecords_found (hp : (i, tag) ∈ newPlaces s tags) :
    (sortRecords c tags s).entry i = ⟨(s.entry i).gen, some (foundRecord c s tag), none⟩ := by
  have hfree := mem_newPlaces_fst (List.mem_map_of_mem hp)
  rw [sortRecords_kept hs hx ha, (withFound_madeAt hs ha).made _ hp]
  · rintro rfl
    rw [(recIn_live hx.record).1] at hfree
    cases hfree
  · intro hm
    obtain ⟨p, hlive, -⟩ := missing_live (relay_of_coherent hs) hm
    rw [hfree] at hlive
    cases hlive
  · intro hl
    obtain ⟨p, hlive, -⟩ := mem_listedReservations.1 hl
    rw [hfree] at hlive
    cases hlive

/-- R157: an index outside the column, occupied or not. -/
theorem sortRecords_outside (hi : ∀ q ∈ s.live i, q.column ≠ c) (hn : i ∉ (newPlaces s tags).map Prod.fst) :
    (sortRecords c tags s).entry i = s.entry i := by
  rw [sortRecords_kept hs hx ha, (withFound_madeAt hs ha).kept _ hn]
  · rintro rfl
    obtain ⟨hlive, -, hc⟩ := recIn_live hx.record
    exact hi r hlive hc
  · intro hm
    obtain ⟨p, hlive, hc, -⟩ := missing_live (relay_of_coherent hs) hm
    exact hi p hlive hc
  · intro hl
    obtain ⟨p, hlive, -, hc, -⟩ := mem_listedReservations.1 hl
    exact hi p hlive hc

omit ha in
/-- R147: a STRANDED record of the column is the one it names. -/
theorem stranded_idx (hr : s.live i = some q) (hc : q.column = c) (hst : q.state = .stranded) : i = h.idx := by
  have hstr := ((hs.bayFits c).records _ q (recIn_of_live hr hc)).strandedHere hst
  have hx' : (s.bay c).column.stranded = some h := hx.stranded
  rw [hx'] at hstr
  exact congrArg Handle.idx (Option.some.inj hstr).symm

omit hx in
/-- R157: of the records that stand, those whose tag is not listed are missing. -/
theorem missing_iff (hr : s.live i = some q) (hc : q.column = c) (hst : q.state ≠ .stranded) :
    i ∈ missingRecords c tags s ↔ q.tag ∉ tags ∧ q.state ≠ .reserved := by
  have hb := hs.bayFits c
  have hrf := hb.records _ q (recIn_of_live hr hc)
  have hfree : (s.bay c).lock = none := ha.free
  rw [mem_missingRecords]
  refine ⟨fun ⟨g, hg, p, hp, hpt, hne, hgi⟩ => ?_, fun ⟨ht, hres⟩ => ?_⟩
  · have hlive := live_of_named hp
    rw [hgi] at hlive
    cases hr.symm.trans hlive
    refine ⟨hpt, fun hres => ?_⟩
    obtain ⟨p', n, hp', hn, -⟩ := recIn_of_mem_stack hs hg
    cases ((recIn_eq_some.1 hp').1).symm.trans hp
    simp only [RecordFits, hres] at hrf
    rw [hrf.1] at hn
    cases hn
  · have hstands : (s.bay c).Stands (s.handleAt i) q := by
      cases hq : q.state <;> simp only [RecordFits, hq] at hrf
      case reserved => exact absurd hq hres
      case placing => obtain ⟨l, hl, -⟩ := hrf.2.2.2; rw [hfree] at hl; cases hl
      case parked => exact hrf.1
      case promised => exact hrf.1
      case lifting => exact hrf.1
      case stranded => exact absurd hq hst
    obtain ⟨n, -, hn⟩ := hstands
    refine ⟨s.handleAt i, List.mem_of_getElem? hn, q, (named_handleAt i).trans hr, ht, fun hstr => ?_, rfl⟩
    obtain ⟨q', hq', hst'⟩ := hb.stranded.2.2 _ hstr
    cases (recIn_of_live hr hc).symm.trans hq'
    exact hst hst'

/-- R157: every record that named the column comes to its end. -/
theorem sortRecords_column (hr : s.live i = some q) (hc : q.column = c) :
    (sortRecords c tags s).entry i = (s.entry i).ended i (sortedEnding c tags s i q) := by
  have hkept := (withFound_madeAt hs ha).kept _ (not_newPlace_of_live hr)
  rw [sortRecords_entry hs hx ha, hkept]
  by_cases hst : q.state = .stranded
  · obtain rfl := stranded_idx hs hx hr hc hst
    cases hr.symm.trans (recIn_live hx.record).1
    simp only [not_missing_of_stranded hx, not_listed_of_stranded hx, if_false, if_true, sortedEnding, hst]
  · have hne : h.idx ≠ i := by
      rintro rfl
      cases hr.symm.trans (recIn_live hx.record).1
      exact hst hx.state
    have hmiss := missing_iff hs ha hr hc hst
    have hlist : i ∈ listedReservations c tags s ↔ q.tag ∈ tags ∧ q.state = .reserved := by
      rw [mem_listedReservations]
      refine ⟨fun ⟨p, hp, hps, _, hpt⟩ => ?_, fun ⟨ht, hres⟩ => ⟨q, hr, hres, hc, ht⟩⟩
      cases hr.symm.trans hp
      exact ⟨hpt, hps⟩
    have hlive : (s.entry i).live = some q := hr
    have hstay : s.entry i = { s.entry i with live := some q } := by rw [← hlive]
    simp only [hne, hmiss, hlist, if_false, sortedEnding, hst]
    by_cases ht : q.tag ∈ tags <;> by_cases hres : q.state = .reserved
    · simp [ht, hres, hlive, Entry.ended]
    · simpa [ht, hres, Entry.ended] using hstay
    · simpa [ht, hres, Entry.ended] using hstay
    · simp [ht, hres, Entry.ended]
end

end Sys2Proof.Machine
end

section
/-! RESTACK (R157): the stack rewritten, with the levels, the buried flags and the notice of what comes to be buried. -/

namespace Sys2Proof.Machine

open Sys2Proof Sys2Proof.Safety

variable {s u v : State} {c : Col} {i j : RecIdx} {h g x : Handle} {r q p : Record} {tags : List Tag} {tag : Tag} {n : Nat}

/-! ### The levels -/

theorem setLevel_entry (p : RecIdx × Nat) (u : State) (j : RecIdx) : (setLevel p u).entry j =
    if p.1 = j then { u.entry j with live := (u.live j).map (Record.leveled p.2) } else u.entry j :=
  updRec_entry u p.1 j (Record.leveled p.2)

theorem setLevels_kept (l : List (RecIdx × Nat)) (u : State) (j : RecIdx) :
    ((forEach l setLevel u).entry j).gen = (u.entry j).gen ∧ ((forEach l setLevel u).entry j).last = (u.entry j).last := by
  induction l generalizing u with
  | nil => exact ⟨rfl, rfl⟩
  | cons a l ih =>
    have hone : ((setLevel a u).entry j).gen = (u.entry j).gen ∧ ((setLevel a u).entry j).last = (u.entry j).last := by
      rw [setLevel_entry]
      split <;> exact ⟨rfl, rfl⟩
    exact ⟨(ih _).1.trans hone.1, (ih _).2.trans hone.2⟩

theorem setLevels_handleAt (l : List (RecIdx × Nat)) (u : State) (j : RecIdx) :
    (forEach l setLevel u).handleAt j = u.handleAt j := congrArg (Handle.mk j) (setLevels_kept l u j).1

theorem stacked_entry (c : Col) (tags : List Tag) (u : State) (j : RecIdx) :
    (stacked c tags u).entry j = (forEach (u.foundAt tags).zipIdx setLevel u).entry j := rfl

theorem setLevels_only (l : List (RecIdx × Nat)) (u : State) : OnlyChanges [.handoff] u (forEach l setLevel u) :=
  forEach_only (f := setLevel) (fun a u => updRec_only a.1 (Record.leveled a.2) u) l u

theorem setLevels_counts (l : List (RecIdx × Nat)) (u : State) : SameCounts u (forEach l setLevel u) :=
  forEach_counts (f := setLevel) (fun a u => updRec_counts u a.1 (Record.leveled a.2)) l u

theorem stacked_only (c : Col) (tags : List Tag) (u : State) : OnlyChanges [.handoff, .columns] u (stacked c tags u) :=
  ((setLevels_only ..).mono (by decide)).trans ((setCol_only ..).mono (by decide))

theorem rewriteStack_only (c : Col) (tags : List Tag) (u : State) :
    OnlyChanges [.handoff, .columns, .notice] u (rewriteStack c tags u) :=
  ((stacked_only c tags u).mono (by decide)).trans ((refreshStack_only c _).mono (by decide))

theorem rewriteStack_counts (c : Col) (tags : List Tag) (u : State) : SameCounts u (rewriteStack c tags u) :=
  sameCounts_trans (setLevels_counts _ u) (refreshStack_counts c (stacked c tags u))

/-! ### The stack -/

section
variable (hu : SortedIn c tags s u) (hd : tags.Nodup)
include hu

/-- R157: the new stack is the list order. -/
theorem stacked_stack : ((stacked c tags u).col c).stack = (u.foundAt tags).map u.handleAt := by
  rw [stacked_col hu]
  exact List.map_congr_left fun i _ => setLevels_handleAt _ u i

theorem stacked_stack_length : ((stacked c tags u).col c).stack.length = tags.length := by
  rw [stacked_stack hu, List.length_map, foundAt_length hu]

theorem mem_stacked_stack (hx : x ∈ ((stacked c tags u).col c).stack) :
    ∃ (n : Nat) (p : Record), u.live x.idx = some p ∧ tags[n]? = some p.tag ∧ u.handleAt x.idx = x := by
  rw [stacked_stack hu] at hx
  obtain ⟨i, hi, rfl⟩ := List.mem_map.1 hx
  obtain ⟨n, hn⟩ := List.mem_iff_getElem?.1 hi
  obtain ⟨p, hp, ht⟩ := (foundAt_getElem? hu).1 hn
  exact ⟨n, p, hp, ht, rfl⟩

theorem listed_mem_stack (hp : u.live i = some p) (ht : tags[n]? = some p.tag) :
    u.handleAt i ∈ ((stacked c tags u).col c).stack := by
  rw [stacked_stack hu]
  exact List.mem_map_of_mem (List.mem_of_getElem? ((foundAt_getElem? hu).2 ⟨p, hp, ht⟩))

/-- R157: a record whose tag is not listed keeps what it is. -/
theorem stacked_entry_unlisted (hp : ∀ p ∈ u.live i, p.tag ∉ tags) : (stacked c tags u).entry i = u.entry i := by
  obtain ⟨hgen, hlast⟩ := setLevels_kept (u.foundAt tags).zipIdx u i
  refine (stacked_entry ..).trans (entry_ext hgen (setLevels_live_of_not_mem fun n hn => ?_) hlast)
  obtain ⟨p, hlive, ht⟩ := (foundAt_getElem? hu).1 (List.mem_zipIdx_iff_getElem?.1 hn)
  exact hp p hlive (List.mem_of_getElem? ht)

theorem rewritten_unlisted (hp : ∀ p ∈ u.live i, p.tag ∉ tags) : (rewriteStack c tags u).entry i = u.entry i := by
  rw [rewriteStack_eq, refreshStack_entry (f := id) (fun x hx hxi q _ => ?_) fun _ _ _ => rfl]
  · rw [stacked_entry_unlisted hu hp, live_def, stacked_entry_unlisted hu hp, Option.map_id]
    rfl
  · obtain ⟨n, p, hlive, ht, -⟩ := mem_stacked_stack hu hx
    exact absurd (List.mem_of_getElem? ht) (hp p (hxi ▸ hlive))

include hd

theorem stacked_entry_listed (hp : u.live i = some p) (ht : tags[n]? = some p.tag) :
    (stacked c tags u).entry i = { u.entry i with live := some (p.leveled n) } := by
  obtain ⟨hgen, hlast⟩ := setLevels_kept (u.foundAt tags).zipIdx u i
  have hlive := setLevels_live_of_mem (u := u) (l := (u.foundAt tags).zipIdx) (j := i) (n := n)
    (by rw [List.zipIdx_map_fst]; exact foundAt_nodup hu hd)
    (List.mem_zipIdx_iff_getElem?.2 ((foundAt_getElem? hu).2 ⟨p, hp, ht⟩))
  rw [hp] at hlive
  exact (stacked_entry ..).trans (entry_ext hgen hlive hlast)

omit hd in
/-- R16: in the new stack a record is buried when it is PROMISED and something stands above it. -/
theorem stacked_isBuried (hp : u.live i = some p) (ht : tags[n]? = some p.tag) :
    (stacked c tags u).isBuried (p.leveled n) = (decide (p.state = .promised) && decide (n + 1 < tags.length)) := by
  have hc : p.column = c := column_of_listed hu hp (List.mem_of_getElem? ht)
  have habove : 0 < tags.length - 1 - n ↔ n + 1 < tags.length := by omega
  simp only [State.isBuried, State.depth, Record.leveled, hc, stacked_stack_length hu, Option.map_some, Option.any_some, habove]

/-- R157, R16: a listed record stands at its level, with its buried flag as its depth asks. -/
theorem rewritten_listed (hp : u.live i = some p) (ht : tags[n]? = some p.tag) : (rewriteStack c tags u).entry i =
    { u.entry i with live := some { p with
      level := some n, buried := decide (p.state = .promised) && decide (n + 1 < tags.length) } } := by
  have hentry := stacked_entry_listed hu hd hp ht
  have hlive : (stacked c tags u).live i = some (p.leveled n) := congrArg Entry.live hentry
  rw [rewriteStack_eq, refreshStack_entry (f := Record.flagged (stacked c tags u)) (fun _ _ _ _ _ => rfl) fun hno _ _ => ?_,
    hlive, hentry, Option.map_some, Record.flagged, stacked_isBuried hu hp ht]
  · rfl
  · exact absurd rfl (hno _ (listed_mem_stack hu hp ht))

/-- R17: BURIED is raised for the first record in list order that comes to be buried. -/
theorem rewritten_notice : (rewriteStack c tags u).notice = afterBuried u.notice
    (((stacked c tags u).col c).stack.find? fun x =>
      ((rewriteStack c tags u).live x.idx).any (·.buried) && !(u.live x.idx).any (·.buried)) := by
  have hnotice : (stacked c tags u).notice = u.notice := (stacked_only c tags u).notice (by decide)
  rw [rewriteStack_eq, refreshStack_notice, hnotice]
  · congr 1
    refine List.find?_congr fun x hx => ?_
    obtain ⟨n, p, hp, ht, -⟩ := mem_stacked_stack hu hx
    have hnew := congrArg Entry.live (rewritten_listed hu hd hp ht)
    have hlive : (stacked c tags u).live x.idx = some (p.leveled n) := congrArg Entry.live (stacked_entry_listed hu hd hp ht)
    rw [← rewriteStack_eq, State.newlyBuried, hlive, Option.any_some, stacked_isBuried hu hp ht, live_def, hnew, hp]
    rfl
  · rw [stacked_stack hu, List.map_map]
    exact (List.map_id _).symm ▸ foundAt_nodup hu hd
  · intro x hx
    obtain ⟨-, -, -, -, hat⟩ := mem_stacked_stack hu hx
    exact (setLevels_handleAt _ u x.idx).trans hat
end

end Sys2Proof.Machine
end

section
/-! RESTACK (R157): the reservations that stay, and those that are trimmed. -/

namespace Sys2Proof.Machine

open Sys2Proof Sys2Proof.Safety

variable {s t u v : State} {c : Col} {i j : RecIdx} {h : Handle} {r q p : Record} {tags : List Tag} {tag : Tag}

/-- A sublist of a list without repetition is what remains of it by a test that decides membership. -/
theorem eq_filter_of_sublist {α : Type} {l l' : List α} {f : α → Bool} (hsub : l'.Sublist l) (hn : l.Nodup)
    (hf : ∀ x ∈ l, x ∈ l' ↔ f x = true) : l' = l.filter f := by
  have hkept : l'.filter f = l' := List.filter_eq_self.2 fun x hx => (hf x (hsub.subset hx)).1 hx
  have hsub' : l'.Sublist (l.filter f) := hkept ▸ hsub.filter f
  refine hsub'.eq_of_length_le ((hn.filter f).subperm fun x hx => ?_).length_le
  obtain ⟨hx, hfx⟩ := List.mem_filter.1 hx
  exact (hf x hx).2 hfx

theorem zip_fst_sublist {α β : Type} (l : List α) (m : List β) : ((l.zip m).map Prod.fst).Sublist l := by
  induction l generalizing m with
  | nil => exact .refl _
  | cons a l ih =>
    cases m with
    | nil => exact List.nil_sublist _
    | cons b m => exact (ih m).cons_cons a

/-! ### Which reservations stay -/

theorem returnsToReserved_iff : s.placementReturns c i r = true ↔ ReturnsToReserved s c i r := by
  rw [State.placementReturns, Bool.and_eq_true, concernedLive_iff, Bool.not_eq_true']
  refine and_congr_right fun _ => ?_
  cases hrel : r.releaser with
  | none => simp [State.reservesOther]
  | some k =>
    simp only [State.reservesOther, Option.any_some, List.any_eq_false, mem_recordsWhere, decide_eq_true_eq, not_not,
      Option.mem_def, Option.some.injEq, forall_eq']
    exact ⟨fun hall j q hq hk => hall j ⟨q, hq, hk⟩, fun hall j ⟨q, hq, hk⟩ => hall j q hq hk⟩

/-- R157: a reservation that stays, once it is RESERVED again. -/
def Record.asReserved (r : Record) : Record := { r with state := .reserved, level := none, strandedFrom := none }

section
variable (hs : Coherent s) (hx : Stranding s c h r)
include hs hx

/-- R157: a record that is not listed stays as a reservation or is retired. -/
theorem sortedEnding_unlisted (hr : s.live i = some q) (hc : q.column = c) (ht : q.tag ∉ tags) :
    (StaysReserved s c tags i q → sortedEnding c tags s i q = .stays q.asReserved) ∧
    (¬ StaysReserved s c tags i q → ∃ o, sortedEnding c tags s i q = .goes o) := by
  have hrf := (hs.bayFits c).records _ q (recIn_of_live hr hc)
  obtain ⟨hsf, -⟩ := hs.fields i q hr
  by_cases hst : q.state = .stranded
  · obtain rfl := stranded_idx hs hx hr hc hst
    cases hr.symm.trans (recIn_live hx.record).1
    have hstays : StaysReserved s c tags h.idx r ↔
        r.strandedFrom = some .placing ∧ s.placementReturns c h.idx r = true := by
      simp only [StaysReserved, hc, ht, hst, returnsToReserved_iff, not_false_eq_true, true_and, reduceCtorEq, false_or]
    rw [hstays, sortedEnding, if_pos hst, strandedEnding]
    rcases strandedFrom_cases hs hx with hfrom | hfrom
    · simp only [hfrom, if_neg ht, true_and]
      by_cases hret : s.placementReturns c h.idx r = true
      · simp [hret, Record.asReserved]
      · simp [hret]
    · simp [hfrom, ht]
  · have hnone : q.strandedFrom = none := by
      rw [← Option.not_isSome_iff_eq_none, hsf]
      exact hst
    have hstays : StaysReserved s c tags i q ↔ q.state = .reserved := by
      simp only [StaysReserved, hc, ht, hnone, not_false_eq_true, true_and, reduceCtorEq, false_and, or_false]
    rw [hstays, sortedEnding, if_neg hst, if_neg ht]
    refine ⟨fun hres => ?_, fun hres => ⟨.missing, if_neg hres⟩⟩
    simp only [RecordFits, hres] at hrf
    rw [if_pos hres, Record.asReserved, ← hrf.1, ← hnone, ← hres]
end

/-! ### The column before the trimming -/

section
variable (hs : Coherent s) (hx : Stranding s c h r) (ha : Restackable c tags s)
include hs hx ha

theorem sorted_records : SortedIn c tags s (sortRecords c tags s) := sortRecords_sorted hx (relay_of_coherent hs) ha

/-- R157: an index without a listed record is left by the rewriting. -/
theorem restackRecords_unlisted (hp : ∀ p ∈ (sortRecords c tags s).live i, p.tag ∉ tags) :
    (restackRecords c tags s).entry i = (sortRecords c tags s).entry i := by
  rw [restackRecords_eq, settleColumn_entry, rewritten_unlisted (sorted_records hs hx ha) hp]

theorem restackRecords_listed {n : Nat} (hp : (sortRecords c tags s).live i = some p) (ht : tags[n]? = some p.tag) :
    (restackRecords c tags s).entry i = { (sortRecords c tags s).entry i with live := some { p with
      level := some n, buried := decide (p.state = .promised) && decide (n + 1 < tags.length) } } := by
  rw [restackRecords_eq, settleColumn_entry, rewritten_listed (sorted_records hs hx ha) ha.nodup hp ht]

/-- R157: once sorted, a record of the column is one that was there or a new one. -/
theorem sortRecords_live_cases (hp : (sortRecords c tags s).live i = some p) (hc : p.column = c) :
    (∃ q, s.live i = some q ∧ q.column = c ∧ sortedEnding c tags s i q = .stays p) ∨
      s.live i = none ∧ p.state = .parked ∧ p.tag ∈ tags := by
  cases hr : s.live i with
  | none =>
    refine .inr ⟨rfl, ?_⟩
    by_cases hnew : i ∈ (newPlaces s tags).map Prod.fst
    · obtain ⟨⟨i', tag⟩, hm, rfl⟩ := List.mem_map.1 hnew
      have hlive := congrArg Entry.live (sortRecords_found hs hx ha hm)
      cases hp.symm.trans hlive
      exact ⟨rfl, (List.mem_filter.1 (List.of_mem_zip hm).2).1⟩
    · have hkept := congrArg Entry.live (sortRecords_outside (i := i) hs hx ha (by simp [hr]) hnew)
      rw [← live_def, hp, ← live_def, hr] at hkept
      cases hkept
  | some q =>
    by_cases hqc : q.column = c
    · refine .inl ⟨q, rfl, hqc, ?_⟩
      have hend := congrArg Entry.live (sortRecords_column hs hx ha hr hqc)
      rw [← live_def, hp] at hend
      cases hx' : sortedEnding c tags s i q with
      | stays q' => rw [hx'] at hend; cases hend; rfl
      | goes o =>
        rw [hx', Entry.ended, retired_of_live hr] at hend
        cases hend
    · have hout : ∀ q' ∈ s.live i, q'.column ≠ c := fun q' hq' => by
        cases hr.symm.trans hq'
        exact hqc
      have hkept := congrArg Entry.live (sortRecords_outside hs hx ha hout (not_newPlace_of_live hr))
      rw [← live_def, hp, ← live_def, hr] at hkept
      cases hkept
      exact absurd hc hqc

omit hs hx ha in
theorem tag_of_sortedEnding (he : sortedEnding c tags s i q = .stays p) : p.tag = q.tag := by
  unfold sortedEnding strandedEnding at he
  repeat' split at he
  all_goals cases he <;> rfl

/-- R157: the RESERVED records of the column, once the stack is rewritten, are those that stay RESERVED. -/
theorem restacked_reserved_iff : ((restackRecords c tags s).live i).any (fun p => p.state = .reserved && p.column = c) = true ↔
    ∃ q ∈ s.live i, StaysReserved s c tags i q := by
  have hsorted := sorted_records hs hx ha
  constructor
  · intro hres
    obtain ⟨p, hp, hpres⟩ := Option.any_eq_true .. |>.1 hres
    simp only [Bool.and_eq_true, decide_eq_true_eq] at hpres
    obtain ⟨hst, hc⟩ := hpres
    obtain ⟨p', hp', hpst, hpc, hun⟩ : ∃ p', (sortRecords c tags s).live i = some p' ∧ p'.state = .reserved ∧
        p'.column = c ∧ p'.tag ∉ tags := by
      cases hlive : (sortRecords c tags s).live i with
      | none =>
        have hkept := congrArg Entry.live (restackRecords_unlisted (i := i) hs hx ha (by simp [hlive]))
        rw [← live_def, hp, ← live_def, hlive] at hkept
        cases hkept
      | some p' =>
        by_cases ht : p'.tag ∈ tags
        · obtain ⟨n, hn⟩ := List.mem_iff_getElem?.1 ht
          have hnew := congrArg Entry.live (restackRecords_listed hs hx ha hlive hn)
          cases hp.symm.trans hnew
          obtain ⟨-, -, hin⟩ := (hsorted.sorted i p' hlive hc).resolve_right fun e => e.1 ht
          rcases hin with ⟨hpark, -⟩ | ⟨hprom, -⟩
          · cases hst.symm.trans hpark
          · cases hst.symm.trans hprom
        · have hkept := congrArg Entry.live (restackRecords_unlisted (i := i) hs hx ha fun q hq => by
            cases hlive.symm.trans hq
            exact ht)
          rw [← live_def, hp, ← live_def, hlive] at hkept
          cases hkept
          exact ⟨p, rfl, hst, hc, ht⟩
    rcases sortRecords_live_cases hs hx ha hp' hpc with ⟨q, hr, hqc, hend⟩ | ⟨-, hpark, -⟩
    · refine ⟨q, hr, ?_⟩
      by_contra hno
      obtain ⟨o, ho⟩ := (sortedEnding_unlisted hs hx hr hqc (tag_of_sortedEnding hend ▸ hun)).2 hno
      cases hend.symm.trans ho
    · cases hpst.symm.trans hpark
  · rintro ⟨q, hr, hst⟩
    obtain ⟨hc, ht, -⟩ := id hst
    have hstay := (sortedEnding_unlisted hs hx hr hc ht).1 hst
    have hend := sortRecords_column hs hx ha hr hc
    rw [hstay] at hend
    have hlive : (sortRecords c tags s).live i = some q.asReserved := congrArg Entry.live hend
    have hun := congrArg Entry.live (restackRecords_unlisted (i := i) hs hx ha (fun p hp => by
      cases hlive.symm.trans hp
      exact ht))
    rw [live_def, hun, ← live_def, hlive]
    simp [Record.asReserved, hc]
/-! ### The order of making (R157) -/

theorem restackRecords_thins : Thins (withFound c tags s) (restackRecords c tags s) := by
  have hpark : ∀ (i : RecIdx) (u : State), Thins u (parkRecord i u) := fun i u =>
    .of_kept ((parkRecord_only i u).mono (by decide)) (parkRecord_counts u i).2
  have hsorted : Thins (withFound c tags s) (sortRecords c tags s) :=
    (withFound_ends hs hx ha).thins.trans ((Thins.forEach (fun i u => .of_retire i .missing u) _ _).trans (.forEach hpark _ _))
  rw [restackRecords_eq]
  exact hsorted.trans ((Thins.of_kept ((rewriteStack_only c tags _).mono (by decide)) (rewriteStack_counts c tags _).2).trans
    (.of_kept ((settleColumn_only c _).mono (by decide)) rfl))

omit hs hx in
theorem newPlaces_nodup : ((newPlaces s tags).map Prod.fst).Nodup := by
  rw [newPlaces_eq ha]
  exact (freePlaces_nodup s).sublist (zip_fst_sublist _ _)

omit hx in
theorem order_nodup : (s.handoff.order ++ (newPlaces s tags).map Prod.fst).Nodup := by
  refine hs.order.1.append (newPlaces_nodup ha) fun i hi hn => ?_
  rw [hs.order.2, mem_newPlaces_fst hn] at hi
  cases hi

omit hx in
/-- R157: whatever follows keeps the order of making, for the records that live. -/
theorem order_of_thins (ht : Thins (withFound c tags s) t) (ho : OrderFits t) : t.handoff.order =
    (s.handoff.order ++ (newPlaces s tags).map Prod.fst).filter fun i => (t.live i).isSome := by
  have hmade := (withFound_madeAt hs ha).order
  exact eq_filter_of_sublist (hmade ▸ ht.order) (order_nodup hs ha) fun i _ => ho.2 i

theorem restackRecords_changed : Changed c s (restackRecords c tags s) ∧
    (restackRecords c tags s).bay c = ⟨((stacked c tags (sortRecords c tags s)).col c).settled, none, [], none⟩ :=
  restacked_changed (relay_of_coherent hs) (sorted_records hs hx ha) ha.nodup

/-- R157: the reservations of the column, in the order in which they were made. -/
theorem reserved_order_eq : ((restackRecords c tags s).handoff.order.filter fun i =>
    ((restackRecords c tags s).live i).any fun p => p.state = .reserved && p.column = c) = stillReserved s c tags := by
  obtain ⟨hchanged, -⟩ := restackRecords_changed hs hx ha
  have hres := fun i => restacked_reserved_iff (i := i) hs hx ha
  have hnew : ((newPlaces s tags).map Prod.fst).filter
      (fun i => ((restackRecords c tags s).live i).any fun p => p.state = .reserved && p.column = c) = [] := by
    refine List.filter_eq_nil_iff.2 fun i hi hany => ?_
    obtain ⟨q, hq, -⟩ := (hres i).1 hany
    cases (mem_newPlaces_fst hi).symm.trans hq
  rw [order_of_thins hs ha (restackRecords_thins hs hx ha) hchanged.table.order, List.filter_filter, stillReserved]
  have hboth : ∀ i, (((restackRecords c tags s).live i).any (fun p => p.state = .reserved && p.column = c) &&
      ((restackRecords c tags s).live i).isSome) =
      ((restackRecords c tags s).live i).any fun p => p.state = .reserved && p.column = c := fun i => by
    cases (restackRecords c tags s).live i <;> simp
  simp only [hboth]
  rw [List.filter_append, hnew, List.append_nil]
  refine List.filter_congr fun i _ => Bool.eq_iff_iff.2 ?_
  rw [decide_eq_true_iff]
  exact hres i

theorem restackRecords_col : (restackRecords c tags s).col c = { s.col c with
    stack := ((stacked c tags (sortRecords c tags s)).col c).stack
    stranded := none, strandingId := none, service := (s.col c).prior.toService } := by
  obtain ⟨-, hbay⟩ := restackRecords_changed hs hx ha
  refine (congrArg Bay.column hbay).trans ?_
  rw [stacked_col (sorted_records hs hx ha)]
  rfl

/-- R14: the load of the column before the trimming. -/
theorem restackRecords_load : (restackRecords c tags s).load c = tags.length + (stillReserved s c tags).length := by
  obtain ⟨hchanged, hbay⟩ := restackRecords_changed hs hx ha
  have hcol := restackRecords_col hs hx ha
  have hlock : (restackRecords c tags s).lockOf c = none := congrArg Bay.lock hbay
  have hperm : ((restackRecords c tags s).recordsWhere fun p => p.reserves && p.column = c).Perm (stillReserved s c tags) := by
    rw [← reserved_order_eq hs hx ha]
    refine (List.perm_ext_iff_of_nodup (recordsWhere_nodup _) (hchanged.table.order.1.filter _)).2 fun i => ?_
    rw [mem_recordsWhere, List.mem_filter, hchanged.table.order.2]
    constructor
    · rintro ⟨p, hp, hpr⟩
      simp only [Bool.and_eq_true, decide_eq_true_eq] at hpr
      obtain ⟨hres, hc⟩ := hpr
      have hnot := hchanged.bay.not_working (w := .place) hlock (recIn_of_live hp hc)
      simp only [Record.reserves, Bool.or_eq_true, decide_eq_true_eq] at hres
      have hst := hres.resolve_right hnot
      simp [hp, hst, hc]
    · rintro ⟨-, hany⟩
      obtain ⟨p, hp, hpr⟩ := Option.any_eq_true .. |>.1 hany
      simp only [Bool.and_eq_true, decide_eq_true_eq] at hpr
      exact ⟨p, hp, by simp [Record.reserves, hpr.1, hpr.2]⟩
  have hstack := stacked_stack_length (sorted_records hs hx ha)
  simp only [State.load, State.reservations, hperm.length_eq, State.strandedPlacement, hcol, hstack]
  simp

/-- R157: the latest made of the reservations are trimmed, as many as are too many. -/
theorem trimmed_eq : trimmedReservations c (restackRecords c tags s) = (trimmedNow s c tags).reverse := by
  have hcap : ((restackRecords c tags s).col c).capacity = (s.col c).capacity := by rw [restackRecords_col hs hx ha]
  rw [trimmedReservations, reserved_order_eq hs hx ha, restackRecords_load hs hx ha, hcap, trimmedNow, ← excess,
    List.take_reverse]

theorem trimmed_length : (trimmedReservations c (restackRecords c tags s)).length = excess s c tags := by
  have hle : excess s c tags ≤ (stillReserved s c tags).length := by
    have := ha.fits
    rw [excess]
    omega
  rw [trimmed_eq hs hx ha, List.length_reverse, trimmedNow, List.length_drop]
  omega
end

end Sys2Proof.Machine
end

section
/-! RESTACK (R157): an accepted one whole, table by table. -/

namespace Sys2Proof.Machine

open Sys2Proof Sys2Proof.Safety

variable {s u v : State} {c d : Col} {i j : RecIdx} {h g : Handle} {r q p : Record} {tags : List Tag} {tag : Tag} {n : Nat}
  {o : Retirement}

/-- The state that an accepted RESTACK leaves. -/
abbrev restacked (c : Col) (tags : List Tag) (s : State) : State := (applyRestack c tags s).1

theorem restacked_eq (c : Col) (tags : List Tag) (s : State) : restacked c tags s =
    forEach (trimmedReservations c (restackRecords c tags s)) (fun i => retire i .unplaced) (restackRecords c tags s) := rfl

/-- R36: the trimming changes the records and wait places only. -/
theorem restacked_trims (c : Col) (tags : List Tag) (s : State) :
    OnlyChanges [.handoff, .lock] (restackRecords c tags s) (restacked c tags s) :=
  forEach_only (fun i u => retire_only_undelivered (by decide) i u) _ _

section
variable (hs : Coherent s) (hx : Stranding s c h r) (ha : Restackable c tags s)
include hs hx ha

theorem restacked_thins : Thins (withFound c tags s) (restacked c tags s) :=
  (restackRecords_thins hs hx ha).trans (.forEach (fun i u => .of_retire i .unplaced u) _ _)

theorem restacked_col : (restacked c tags s).col c = { s.col c with
    stack := ((stacked c tags (sortRecords c tags s)).col c).stack
    stranded := none, strandingId := none, service := (s.col c).prior.toService } :=
  (col_congr ((restacked_trims c tags s).columns (by decide)) c).trans (restackRecords_col hs hx ha)

/-! ### The records -/

theorem restacked_entry (i : RecIdx) : (restacked c tags s).entry i =
    if i ∈ trimmedNow s c tags then ((restackRecords c tags s).entry i).retired i .unplaced
    else (restackRecords c tags s).entry i := by
  obtain ⟨hchanged, -⟩ := restackRecords_changed hs hx ha
  rw [restacked_eq, retireAll_entry (trimmed_nodup hchanged.table), trimmed_eq hs hx ha]
  simp only [List.mem_reverse]

omit hs hx ha in
theorem staysReserved_of_trimmed (hi : i ∈ trimmedNow s c tags) : ∃ q ∈ s.live i, StaysReserved s c tags i q :=
  of_decide_eq_true (List.mem_filter.1 (List.mem_of_mem_drop hi)).2

omit hs hx ha in
theorem not_trimmed (hno : ∀ q ∈ s.live i, ¬ StaysReserved s c tags i q) : i ∉ trimmedNow s c tags := fun hi =>
  let ⟨q, hq, hst⟩ := staysReserved_of_trimmed hi
  hno q hq hst

/-- R157: an index outside the column keeps what it is. -/
theorem restacked_outside (hi : ∀ q ∈ s.live i, q.column ≠ c) (hn : i ∉ (newPlaces s tags).map Prod.fst) :
    (restacked c tags s).entry i = s.entry i := by
  have hkept := sortRecords_outside hs hx ha hi hn
  rw [restacked_entry hs hx ha, if_neg (not_trimmed fun q hq hst => hi q hq hst.1), restackRecords_unlisted hs hx ha, hkept]
  intro p hp ht
  rw [live_def, hkept] at hp
  exact hi p hp (column_of_listed (sorted_records hs hx ha) (by rw [live_def, hkept]; exact hp) ht)

/-- R157: a listed record stands at its level. -/
theorem restacked_listed (hr : s.live i = some q) (hc : q.column = c) (ht : tags[n]? = some q.tag)
    (he : sortedEnding c tags s i q = .stays p) : (restacked c tags s).entry i = { s.entry i with live := some { p with
      level := some n, buried := decide (p.state = .promised) && decide (n + 1 < tags.length) } } := by
  have hend := sortRecords_column hs hx ha hr hc
  rw [he, Entry.ended] at hend
  have hlive : (sortRecords c tags s).live i = some p := congrArg Entry.live hend
  rw [restacked_entry hs hx ha, if_neg, restackRecords_listed hs hx ha hlive (tag_of_sortedEnding he ▸ ht), hend]
  refine not_trimmed fun q' hq' hst => ?_
  cases hr.symm.trans hq'
  exact hst.2.1 (List.mem_of_getElem? ht)

/-- R157: a record that is not listed and no reservation is retired. -/
theorem restacked_retired (hr : s.live i = some q) (hc : q.column = c) (ht : q.tag ∉ tags)
    (he : sortedEnding c tags s i q = .goes o) :
    (restacked c tags s).entry i = ⟨(s.entry i).gen + 1, none, some ⟨s.handleAt i, o, q.tag, c⟩⟩ := by
  have hend := sortRecords_column hs hx ha hr hc
  rw [he, Entry.ended, retired_of_live hr, hc] at hend
  have hlive : (sortRecords c tags s).live i = none := congrArg Entry.live hend
  rw [restacked_entry hs hx ha, if_neg, restackRecords_unlisted hs hx ha (by simp [hlive]), hend]
  refine not_trimmed fun q' hq' hst => ?_
  cases hr.symm.trans hq'
  cases he.symm.trans ((sortedEnding_unlisted hs hx hr hc ht).1 hst)

/-- R157: a reservation stays or is trimmed. -/
theorem restacked_reserved (hr : s.live i = some q) (hst : StaysReserved s c tags i q) :
    (restacked c tags s).entry i = if i ∈ trimmedNow s c tags then
      ⟨(s.entry i).gen + 1, none, some ⟨s.handleAt i, .unplaced, q.tag, c⟩⟩
    else { s.entry i with live := some q.asReserved } := by
  obtain ⟨hc, ht, -⟩ := id hst
  have hend := sortRecords_column hs hx ha hr hc
  rw [(sortedEnding_unlisted hs hx hr hc ht).1 hst, Entry.ended] at hend
  have hlive : (sortRecords c tags s).live i = some q.asReserved := congrArg Entry.live hend
  have hkept := restackRecords_unlisted hs hx ha (i := i) fun p hp => by
    cases hlive.symm.trans hp
    exact ht
  rw [restacked_entry hs hx ha, hkept, hend]
  split
  · rw [Entry.retired, Record.asReserved, hc]
    rfl
  · rfl

/-- R157: a new record stands PARKED at its level. -/
theorem restacked_found (hp : (i, tag) ∈ newPlaces s tags) : ∃ n : Nat, tags[n]? = some tag ∧
    (restacked c tags s).entry i = ⟨(s.entry i).gen, some { foundRecord c s tag with level := some n }, none⟩ := by
  have hfound := sortRecords_found hs hx ha hp
  have hlive : (sortRecords c tags s).live i = some (foundRecord c s tag) := congrArg Entry.live hfound
  obtain ⟨n, hn⟩ := List.mem_iff_getElem?.1 (List.mem_filter.1 (List.of_mem_zip hp).2).1
  have hfree := mem_newPlaces_fst (List.mem_map_of_mem hp)
  refine ⟨n, hn, ?_⟩
  rw [restacked_entry hs hx ha, if_neg, restackRecords_listed hs hx ha hlive hn, hfound]
  · rfl
  · exact not_trimmed fun q hq _ => by cases hfree.symm.trans hq

/-! ### What becomes of each record of the column (R152, R157) -/

omit hx ha in
/-- R16: only a PROMISED record has its buried flag set. -/
theorem not_buried_of_state (hr : s.live i = some q) (hst : q.state ≠ .promised) : q.buried = false := by
  rw [hs.buried i q hr, State.isBuried, decide_eq_false hst, Bool.false_and]

theorem restacked_of_column (hr : s.live i = some q) (hc : q.column = c) : Restacked s (restacked c tags s) c tags i q := by
  have hclear := fun hst => not_buried_of_state hs hr hst
  have hfields := (hs.fields i q hr).1
  have stranded : ∀ {w}, q.strandedFrom = some w → q.state = .stranded := fun hw => hfields.1 (by rw [hw]; rfl)
  have hconcerned := concernedLive_iff (s := s) (c := c) (o := q.collector)
  refine ⟨fun n hn => ?_, fun ht => ?_⟩
  · have ht := List.mem_of_getElem? hn
    intro covered becomes
    have listed := fun p (he : sortedEnding c tags s i q = .stays p) => restacked_listed hs hx ha hr hc hn he
    refine ⟨fun hst => ?_, fun hst => ?_, ?_, fun hsf hl => ?_, fun hsf hl => ?_⟩
    · refine (listed q ?_).trans ?_
      · simp [sortedEnding, hst, ht]
      · simp [hst, hclear]
    · refine (listed q ?_).trans ?_
      · simp [sortedEnding, hst, ht]
      · simp [covered, hst]
    · intro hst
      refine (listed q.asParked ?_).trans ?_
      · rcases hst with hst | hsf
        · simp [sortedEnding, hst, ht]
        · simp [sortedEnding, strandedEnding, stranded hsf, hsf, ht]
      · have hnot : q.state ≠ .promised := by
          rcases hst with hst | hsf
          · simp [hst]
          · simp [stranded hsf]
        simp [Record.asParked, hclear hnot]
    · refine (listed { q with state := .promised, strandedFrom := none } ?_).trans ?_
      · simp [sortedEnding, strandedEnding, stranded hsf, hsf, ht, hconcerned.2 hl]
      · simp [covered]
    · refine (listed q.asParked ?_).trans ?_
      · simp [sortedEnding, strandedEnding, stranded hsf, hsf, ht, Bool.eq_false_iff.2 (mt hconcerned.1 hl)]
      · simp [Record.asParked, hclear (by simp [stranded hsf])]
  · intro goes
    have gone := fun o (he : sortedEnding c tags s i q = .goes o) => restacked_retired hs hx ha hr hc ht he
    refine ⟨fun hst => gone _ ?_, fun hsf hl => gone _ ?_, fun hsf hl => gone _ ?_, fun hsf hret => gone _ ?_,
      fun hst => ?_⟩
    · rcases hst with hst | hst <;> simp [sortedEnding, hst, ht]
    · simp [sortedEnding, strandedEnding, stranded hsf, hsf, ht, hconcerned.2 hl]
    · simp [sortedEnding, strandedEnding, stranded hsf, hsf, ht, Bool.eq_false_iff.2 (mt hconcerned.1 hl)]
    · simp [sortedEnding, strandedEnding, stranded hsf, hsf, ht, Bool.eq_false_iff.2 (mt returnsToReserved_iff.1 hret)]
    · have hentry := restacked_reserved hs hx ha hr hst
      split
      · next hin => rwa [if_pos hin] at hentry
      · next hin => rwa [if_neg hin] at hentry
end

end Sys2Proof.Machine
end

section
/-! RESTACK (R157): the column, the locks, the notices and the response of an accepted one, and the statement. -/

namespace Sys2Proof.Machine

open Sys2Proof Sys2Proof.Safety

variable {s u v : State} {c d : Col} {i j : RecIdx} {h g x : Handle} {r q p : Record} {tags : List Tag} {tag : Tag} {n : Nat}
  {col : Byte}

section
variable (hs : Coherent s) (hx : Stranding s c h r) (ha : Restackable c tags s)
include hs hx ha

/-! ### The new stack (R11) -/

/-- R157: a record that stands in the new stack is not one of those trimmed. -/
theorem restacked_standing (hp : (sortRecords c tags s).live i = some p) (ht : tags[n]? = some p.tag) :
    (restacked c tags s).entry i = { (sortRecords c tags s).entry i with live := some { p with
      level := some n, buried := decide (p.state = .promised) && decide (n + 1 < tags.length) } } := by
  rw [restacked_entry hs hx ha, if_neg, restackRecords_listed hs hx ha hp ht]
  refine not_trimmed fun q hr hst => ?_
  have hstay := (sortedEnding_unlisted hs hx hr hst.1 hst.2.1).1 hst
  have hend := sortRecords_column hs hx ha hr hst.1
  rw [hstay] at hend
  cases hp.symm.trans (congrArg Entry.live hend)
  exact hst.2.1 (List.mem_of_getElem? ht)

theorem restacked_stack : ((restacked c tags s).col c).stack = ((stacked c tags (sortRecords c tags s)).col c).stack := by
  rw [restacked_col hs hx ha]

theorem restacked_stack_length : ((restacked c tags s).col c).stack.length = tags.length := by
  rw [restacked_stack hs hx ha, stacked_stack_length (sorted_records hs hx ha)]

theorem restacked_stackTags : (restacked c tags s).stackTags c = tags := by
  have hu := sorted_records hs hx ha
  obtain ⟨f, hf, hlive⟩ := foundAt_map hu
  rw [State.stackTags, restacked_stack hs hx ha, stacked_stack hu, hf, List.map_map, List.filterMap_map]
  refine (List.filterMap_congr fun tag ht => ?_).trans List.filterMap_some
  obtain ⟨p, hp, hpt⟩ := hlive tag ht
  obtain ⟨n, hn⟩ := List.mem_iff_getElem?.1 ht
  have hentry := restacked_standing hs hx ha hp (hpt ▸ hn)
  have hat : (sortRecords c tags s).handleAt (f tag) = (restacked c tags s).handleAt (f tag) := by
    rw [State.handleAt, State.handleAt, hentry]
  simp only [Function.comp_apply, hat, named_handleAt, live_def, hentry, Option.map_some, hpt]

/-! ### The column and its locks -/

theorem restacked_bays : Changed c s (restacked c tags s) ∧ (restacked c tags s).bay c = (restackRecords c tags s).bay c := by
  obtain ⟨hchanged, hbay⟩ := restackRecords_changed hs hx ha
  exact hchanged.retireAll (congrArg Bay.waits hbay) (fun i hi => mem_trimmed hi) (trimmed_nodup hchanged.table) .unplaced

theorem restacked_bay : (restacked c tags s).bay c =
    ⟨((stacked c tags (sortRecords c tags s)).col c).settled, none, [], none⟩ :=
  (restacked_bays hs hx ha).2.trans (restackRecords_changed hs hx ha).2

theorem restacked_sameLocks : SameLocks s (restacked c tags s) := by
  have hbay := restacked_bay hs hx ha
  intro d
  by_cases hd : d = c
  · subst hd
    exact ⟨(congrArg Bay.lock hbay).trans ha.free.symm, (congrArg Bay.waits hbay).trans hx.waits.symm⟩
  · have hother := (restacked_bays hs hx ha).1.beside.bays d hd
    exact ⟨congrArg Bay.lock hother, congrArg Bay.waits hother⟩

omit hs hx ha in
theorem restacked_after : OnlyChanges [.columns, .handoff, .lock, .notice, .survey] (sortRecords c tags s) (restacked c tags s) :=
  ((rewriteStack_only c tags _).mono (by decide)).trans
    (((settleColumn_only c _).mono (by decide)).trans ((restacked_trims c tags s).mono (by decide)))

theorem restacked_box : (restacked c tags s).survey.box = s.survey.box := by
  rw [(restacked_trims c tags s).survey (by decide), restackRecords_eq, settleColumn_box,
    (rewriteStack_only c tags _).survey (by decide), (sortRecords_rest hs hx ha).survey (by decide)]

theorem restacked_load : (restacked c tags s).load c ≤ ((restacked c tags s).col c).capacity := by
  obtain ⟨hrelay, -⟩ := (relay_of_coherent hs).applyRestack hx ha
  rw [load_eq_binsOf (hrelay.consistent.bays c)]
  exact (hrelay.loads c).1

/-! ### The notices (R17, R52) -/

omit hs hx ha in
/-- R16: a record that RESTACK leaves PROMISED keeps its buried flag until the stack is rewritten. -/
theorem buried_of_sortedEnding (he : sortedEnding c tags s i q = .stays p) (hp : p.state = .promised) :
    p.buried = q.buried := by
  unfold sortedEnding strandedEnding at he
  repeat' split at he
  all_goals cases he <;> simp_all [Record.asParked]

/-- R17: whether a record of the new stack comes to be buried shows in the states before and after. -/
theorem newlyBuried_restacked (hxm : x ∈ ((stacked c tags (sortRecords c tags s)).col c).stack) :
    (((rewriteStack c tags (sortRecords c tags s)).live x.idx).any (·.buried) &&
      !((sortRecords c tags s).live x.idx).any (·.buried)) =
    (((restacked c tags s).live x.idx).any (·.buried) && !(s.live x.idx).any (·.buried)) := by
  have hu := sorted_records hs hx ha
  obtain ⟨n, p, hp, ht, -⟩ := mem_stacked_stack hu hxm
  have hnew := congrArg Entry.live (restacked_standing hs hx ha hp ht)
  have hrewritten := congrArg Entry.live (rewritten_listed hu ha.nodup hp ht)
  rw [live_def, live_def (restacked c tags s), hnew, hrewritten, hp, Option.any_some, Option.any_some]
  by_cases hst : p.state = .promised
  · rcases sortRecords_live_cases hs hx ha hp (column_of_listed hu hp (List.mem_of_getElem? ht)) with
      ⟨q, hr, -, hend⟩ | ⟨-, hpark, -⟩
    · rw [hr, Option.any_some, buried_of_sortedEnding hend hst]
    · cases hst.symm.trans hpark
  · simp [hst]

theorem restacked_notice : (restacked c tags s).notice = noticeAfterRestack s (restacked c tags s) c tags := by
  have hstack := restacked_stack hs hx ha
  have hnotice : (restacked c tags s).notice = (rewriteStack c tags (sortRecords c tags s)).notice :=
    ((restacked_trims c tags s).notice (by decide)).trans
      ((settleColumn_only c (rewriteStack c tags (sortRecords c tags s))).notice (by decide))
  rw [hnotice, rewritten_notice (sorted_records hs hx ha) ha.nodup, sortRecords_notice hs hx ha, noticeAfterRestack, hstack,
    List.find?_congr fun x hxm => newlyBuried_restacked hs hx ha hxm]
  generalize (newPlaces s tags).find? (fun p => (s.manifest.find p.2).isNone) = new
  generalize List.find? _ _ = covered
  cases new <;> cases covered <;> rfl

/-! ### RESTACK as a command -/

theorem restacked_only : OnlyChanges [.columns, .handoff, .lock, .manifest, .notice, .survey] s (restacked c tags s) :=
  ((sortRecords_rest hs hx ha).mono (by decide)).trans (restacked_after.mono (by decide))

theorem applyRestack_eq : applyRestack c tags s = (restacked c tags s, ⟨.ok, [BitVec.ofNat 8 tags.length]
    ++ ((restacked c tags s).col c).stack.flatMap (fun h => [BitVec.ofNat 8 h.idx.val, BitVec.ofNat 8 h.gen.val])
    ++ [BitVec.ofNat 8 (excess s c tags)]⟩) := by
  rw [← restacked_stack_length hs hx ha, ← trimmed_length hs hx ha]
  rfl

theorem restacked_order : (restacked c tags s).handoff.order =
    (s.handoff.order ++ (newPlaces s tags).map Prod.fst).filter fun i => ((restacked c tags s).live i).isSome :=
  order_of_thins hs ha (restacked_thins hs hx ha) (restacked_bays hs hx ha).1.table.order

end

/-- R156: what the premises of an accepted RESTACK say. -/
theorem restackable (hfit : tags.length ≤ (s.col c).capacity) (h0 : (0 : Tag) ∉ tags) (hd : tags.Nodup)
    (hl : s.lockOf c = none) (hhere : ∀ t ∈ tags, ∀ i, ∀ r ∈ s.live i, r.tag = t → r.column = c)
    (hroom : (tags.filter fun t => decide (∀ i, ∀ r ∈ s.live i, r.tag ≠ t)).length ≤ s.handoff.freeCount) :
    Restackable c tags s where
  fits := hfit
  nonzero := h0
  nodup := hd
  free := hl
  here t ht i r hr := by
    obtain ⟨-, hlive, htag⟩ := tagged_eq_some hr
    exact hhere t ht i r hlive htag
  room := by rwa [unknownTags_eq h0]

theorem ownRestack_accepted (hs : Coherent s) (ha : Restackable c tags s) (hc : col.toNat = c.val)
    (hst : (s.col c).service = .suspect ∨ (s.col c).service = .fault) : ownRestack col tags s = applyRestack c tags s := by
  have hbad : ¬ ((s.col c).capacity < tags.length ∨ (0 : Tag) ∈ tags ∨ ¬ tags.Nodup) :=
    not_or.2 ⟨Nat.not_lt.2 ha.fits, not_or.2 ⟨ha.nonzero, not_not.2 ha.nodup⟩⟩
  have helse : ¬ (tags.any fun tag => (s.tagged tag).any fun p => p.2.column ≠ c) = true := by
    rw [elsewhere_iff hs.tags]
    rintro ⟨t, ht, i, q, hq, hqt, hqc⟩
    exact hqc (ha.here t ht i q (tagged_of_live hs.tags hq hqt))
  rw [ownRestack_inRange hc, if_neg hbad, if_neg (not_not.2 hst), if_neg (by simp [ha.free]), if_neg helse,
    if_neg (Nat.not_lt.2 ha.room)]

/-- Settles O29: the records made, the stranded one resolved, the others sorted, the stack rewritten and the reservations
trimmed, table by table. -/
theorem restackRewritesTheStack : Obligations.RestackRewritesTheStack := by
  intro s col tags c hp hs hm hcol hfit h0 hd hserv hlock hhere hroom
  have ha := restackable hfit h0 hd hlock hhere hroom
  obtain ⟨-, hstrandings⟩ := hs.strandings
  obtain ⟨hstranded, -, hrecord⟩ := hstrandings c
  obtain ⟨h, hh⟩ := Option.isSome_iff_exists.1 (hstranded.2 hserv)
  obtain ⟨r, hr, -, -⟩ := hrecord h hh
  have hx : Stranding s c h r := (relay_of_coherent hs).stranding hh hr
  have hcapacity : (s.col c).capacity ≤ 6 := (hs.loads c).2.1
  have hbay := restacked_bay hs hx ha
  obtain ⟨hchanged, -⟩ := restacked_bays hs hx ha
  have hother := hchanged.beside.bays
  obtain ⟨hrelay, -⟩ := (relay_of_coherent hs).applyRestack hx ha
  refine ⟨restacked c tags s, ?_, restacked_only hs hx ha, restacked_stackTags hs hx ha, restacked_stack_length hs hx ha,
    fun n g hn => ?_, ?_, fun d hne => congrArg Bay.column (hother d hne), congrArg Bay.surveyor hbay,
    fun d hne => congrArg Bay.surveyor (hother d hne), restacked_box hs hx ha, restacked_sameLocks hs hx ha, ?_,
    restacked_load hs hx ha, fun p hpn => ?_, fun i q hq => ?_, fun i hi hn => ?_, hchanged.table.count,
    restacked_order hs hx ha, fun g q hg hq => ?_, restacked_notice hs hx ha⟩
  · exact next_taken hp (by omega) (ownRestack_blind col tags)
      ((ownRestack_accepted hs ha hcol hserv).trans (applyRestack_eq hs hx ha))
  · obtain ⟨q, hq, hlev⟩ := (hrelay.consistent.bays c).stack n g hn
    obtain ⟨hnamed, hqc⟩ := recIn_eq_some.1 hq
    exact ⟨q, hnamed, hlev, hqc⟩
  · rw [restacked_col hs hx ha]
  · have hlock := (restacked_thins hs hx ha).lock
    rwa [(withFound_madeAt hs ha).rest.lock (by decide)] at hlock
  · obtain ⟨n, hn, hentry⟩ := restacked_found hs hx ha hpn
    refine ⟨n, hn, hentry.trans ?_⟩
    rw [← factsOf_unlisted]
    rfl
  · split
    · next hc => exact restacked_of_column hs hx ha hq hc
    · next hc =>
      refine restacked_outside hs hx ha (fun q' hq' => ?_) (not_newPlace_of_live hq)
      cases hq.symm.trans hq'
      exact hc
  · exact restacked_outside hs hx ha (by simp [hi]) hn
  · cases hh.symm.trans hg
    cases hr.symm.trans hq
    exact (restacked_after.manifest (by decide)).trans (sortRecords_manifest hs hx ha hm)

end Sys2Proof.Machine
end
